-- ==== Sys2Proof/Word.lean ====
section
/-!
DEFINITION. The words of the device: bytes, registers, addresses, and the sparse table that holds memory, registers
and every other indexed store in one canonical form.
-/

namespace Sys2Proof

/-- A byte. -/
abbrev Byte := BitVec 8
/-- A register of a lane, and an instruction word (R254, R257). -/
abbrev W32 := BitVec 32
/-- An address, a counter, a register pair (R7, R173, R258). -/
abbrev W64 := BitVec 64
/-- A mask of the 64 lanes of a wave (R175). -/
abbrev LaneMask := BitVec 64

/-- A sparse table from natural keys to values: keys strictly rising, no entry equal to what an unlisted key reads. -/
abbrev Tab (α : Type) := List (Nat × α)

end Sys2Proof
end

