-- ==== Sys2Proof/Config.lean ====
section
/-!
DEFINITION. The free values: what the manual leaves open and a value must fill. Each is a constant without a body, so nothing can
be proved of a value of it (log entry 6).
-/

namespace Sys2Proof.Config

/-- Which of the remaining lines or rows an engine places next (R106, R369: no fixed order), by a fresh counter. -/
opaque order : Nat → Nat
/-- Which line a full instruction cache replaces (R66: not specified), or which entry a full translation cache or set of a level-1
cache does (R37, R65), by a fresh counter. -/
opaque victim : Nat → Nat
/-- The instruction word that host or pool memory holds (R38: an executable page may lie there), by fresh counter, target and address. -/
opaque outsideWord : Nat → Nat → Nat → BitVec 32
/-- A correctly rounded function whose rounding the model's bounded precision does not settle (log entry 20): kind, format,
direction, operand. -/
opaque hardCase : Nat → Nat → Nat → Nat → Nat
/-- The smoothed round-trip time after a sample, from the one before it (R127: the smoothing is not stated). -/
opaque smoothed : Option Nat → Nat → Nat
/-- The tag that AES-256-GCM gives a flit (R140: the cipher is not of the spec): key, IV, header, payload. -/
opaque gcmTag : BitVec 256 → BitVec 96 → BitVec 64 → List (BitVec 8) → BitVec 128

/-- Whether a link carries the traffic to an accelerator: the spec gives no routing of a pod (R121, R144); by link and accelerator
identifier. -/
opaque carries : Nat → Nat → Bool

/-- Whether the keep-alive of a peer that owns a line here has arrived in a period (R121): of another device, by a fresh counter and the
peer. -/
opaque renews : Nat → Nat → Bool

/-- The 232 bytes in which UALink lays out a message (R141): not in the spec, by a fresh counter. -/
opaque payload : Nat → List (BitVec 8)

end Sys2Proof.Config
end

