-- ==== Sys2Proof/Syntax.lean ====
section
/-!
DEFINITION. The abstract syntax: operands, types and forms of the instructions (R255 to R269), what the events carry, and
`Instr`, one constructor for each row of spec/opcode_table.json: 187 encoded instructions and 116 steps of the device's agents.
-/

namespace Sys2Proof

/-- A vector register v0 to v119 (R257). -/
abbrev VReg := Fin 120

/-- An operand code (R257). -/
inductive Operand where
  /-- codes 0 to 119 -/
  | v (n : VReg)
  /-- codes 120 to 123, the latch entries -/
  | x (k : Fin 4)
  | zero
  | lane
  | imm
  | tid
  deriving DecidableEq, Repr

/-- Integer forms, f of class W (R265, R285). -/
inductive IForm where
  | w32 | w64 | h16 | b8
  deriving DecidableEq, Repr

/-- Floating-point forms, f of class T (R265, R285). -/
inductive FForm where
  | f32 | f64 | f16 | bf16
  deriving DecidableEq, Repr

/-- Float types in their coding of R267. -/
inductive FFmt where
  | f32 | f64 | f16 | bf16 | e5m2 | e4m3 | e3m2 | e2m3 | e2m1 | e8m0 | u5m3
  deriving DecidableEq, Repr

/-- Integer types in their coding of R267. -/
inductive IFmt where
  | s8 | s16 | s32 | s64 | w8 | w16 | w32 | w64
  deriving DecidableEq, Repr

/-- Types of WADD and WSCAN (R313). -/
inductive SumForm where
  | b32 | b64 | f32 | f64
  deriving DecidableEq, Repr

/-- Types of WMIN and WMAX (R313). -/
inductive MinForm where
  | s32 | w32 | f32
  deriving DecidableEq, Repr

/-- Forms of VOTE (R314). -/
inductive VoteForm where
  | any | all | ballot
  deriving DecidableEq, Repr

/-- Scope codes 0 to 7 (R316). -/
inductive Scope where
  | wv | wg | cl | chip | sys | near | pod | fab
  deriving DecidableEq, Repr

/-- Width codes 0 to 4 (R268): 1, 2, 4, 8 and 16 bytes. -/
inductive Width where
  | b1 | b2 | b4 | b8 | b16
  deriving DecidableEq, Repr

/-- ORD of the atomic rows (R268). -/
inductive Order where
  | none | acq | rel | acqrel
  deriving DecidableEq, Repr

/-- Completion object of a copy or fabric command (R349). -/
inductive Comp where
  | none | bar | ctr
  deriving DecidableEq, Repr

/-- Forms of MDRAIN (R364). -/
inductive DrainForm where
  | replace | add | cvt
  deriving DecidableEq, Repr

/-- Rounding directions (R235), in the coding of the RM field of HINT MOD (R261): none is RNE. -/
inductive Round where
  | rne | rz | ru | rd
  deriving DecidableEq, Repr

/-- The control registers of R384. -/
inductive Csr where
  | ptRoot | rgnBase | rankBase | rankCount | jobRank | jobSize | jobPrefix | poisonStat
  | scopeCfg | podCfg | psetBase | psetCount | podTime
  | fpctl | tvec | tcause | tpc | tfpc | tmask | tinfo | cntStat
  | progcnt (n : Fin 16)
  deriving DecidableEq, Repr

/-- The operations of atomics, RED and ATOMR (R325, R375). -/
inductive AtomOp where
  | add | addF | minS | minW | maxS | maxW | and | or | xor | xchg | cas
  deriving DecidableEq, Repr

/-- What comes back for one lane of a far access (R79, R317): the bytes and, from a pod, the stamp and the sender's clock (R112),
or a failure. -/
inductive FarReply where
  | data (bytes : List Byte) (stamp pc : Nat)
  | done
  | fail (cause detail : Nat)
  deriving DecidableEq, Repr

/-- A completion at the host port (R158 to R161): data, a completion without data, Unsupported Request, Completer Abort, poisoned data, a
failed CXL.cache request. -/
inductive PortReply where
  | data (bytes : List Byte)
  | done
  | unsupported
  | abort
  | poisoned
  | cacheFailed
  deriving DecidableEq, Repr

/-- What an acknowledgement or response of the fabric says of congestion (R127): nothing, an ECN mark, or that switches trimmed the
packet, whose payload is then lost. -/
inductive Echo where
  | none | ecn | trim
  deriving DecidableEq, Repr

/-- The sequence number of the packet that an acknowledgement or response answers (R125, R129), and what it says of congestion. -/
structure AnswerTo where
  seq : Nat
  echo : Echo
  deriving DecidableEq, Repr

/-- What a put packet brings (R128, R132): the number of packets of its put, and the bytes of this one. -/
structure PutData where
  total : Nat
  bytes : List Byte
  deriving DecidableEq, Repr

/-- Who makes an access of the host port (R165): the requester identifier, and whether the request is a UIO one. -/
structure HostSource where
  rid : Nat
  uio : Bool
  deriving DecidableEq, Repr

/-- Where a translation is held (R37): the L1 TLB of a core, the L2 TLB of a cluster, the inbound TLB of a base die. -/
inductive TlbHome where
  | l1 (core : Nat)
  | l2 (cluster : Nat)
  | inbound (die : Nat)
  deriving DecidableEq, Repr

/-- A line of pod memory as its requester names it (R26, R111): target rank, region and 128-byte line within the region. -/
structure PodLine where
  rank : Nat
  region : Nat
  line : Nat
  deriving DecidableEq, Repr

/-- A pod request at the home, or a recall at an owner (R112, R115 to R117): the tenant, the line, the byte within it, the
requesting device, and the clocks the request carries. -/
structure PodReq where
  tenant : Nat
  line : PodLine
  byte : Nat
  src : Nat
  pv : Nat
  pc : Nat
  deriving DecidableEq, Repr

/-- What a request that is performed at a pod line's home does there: an atomic or RED (R117), or the bytes that a copy or put places from
the request's byte on (R372, R374). `ctr`: the target counter (R132), or 0; `tag` and `total`: the operation and how many requests it
makes. -/
inductive PodOp where
  | atomic (op : AtomOp) (l : Width) (x y : BitVec 128) (red : Bool) (ctr : W64)
  | bytes (data : List Byte) (ctr : W64) (tag total : Nat)
  deriving DecidableEq, Repr

/-- A pod response (R115, R116): the line's data, its stamp and lease end, the sender's clock and the poison mark (R41). -/
structure PodRsp where
  tenant : Nat
  line : PodLine
  src : Nat
  data : List Byte
  wts : Nat
  lend : Nat
  pc : Nat
  pois : Bool
  wave : Nat
  deriving DecidableEq, Repr

/-- The remote operation header (R128): its four doublewords. -/
structure PktHdr where
  w0 : W64
  w1 : W64
  w2 : W64
  w3 : W64
  deriving DecidableEq, Repr

/-- A sealed flit as it arrives (R141): its header, the 232 bytes that its payload opens to, its tag, and whether the tag verified under
the slot that the header names (R143). -/
structure Flit where
  header : W64
  payload : List Byte
  tag : BitVec 128
  authentic : Bool
  deriving DecidableEq, Repr

/-- Where an error was detected (R416). -/
inductive ErrSite where
  | storeReg (wave reg : Nat)
  | scratchLine (wg line : Nat)
  | l1Line (core bank : Nat)
  | accBank (core bank : Nat)
  | icache (core : Nat)
  | sliceWay (slice way : Nat) (dirty : Option Nat)
  | memory (dpa : Nat)
  | lanes (wave group : Nat)
  deriving DecidableEq, Repr

/-- What the reset sequence reads and learns (R485, R487, R489): whether a valid provisioning record was found, its fields,
the identity the switch gave, the identities within H5 hops, and whether the host port trained for CXL. -/
structure Discovery where
  valid : Bool
  h5 : Nat
  resv : Nat
  pcap : Nat
  accel : Nat
  near : List Nat
  cxl : Bool
  hostId : Nat
  /-- the device's own port-based-routing identifier (R163) -/
  pbr : Nat
  /-- units of the record's list, and units that failed the self-test of reset: UTYPE, core, unit -/
  mapped : List (Nat × Nat × Nat)
  failed : List (Nat × Nat × Nat)
  deriving DecidableEq, Repr

/-- One constructor for each row of spec/opcode_table.json: the encoded instructions, the events the device itself brings about, the
events that come from outside, and the rows without arguments. The arguments of an encoded instruction are its fields (R255);
the arguments of an event say which unit it concerns and what it carries. -/
inductive Instr where
  /-- BR (R288). -/
  | br (off : BitVec 16)
  /-- CALL (R288). -/
  | call (off : BitVec 16)
  /-- BZ (R288). -/
  | bz (a : Operand) (off : BitVec 16)
  /-- BZL (R288). -/
  | bzl (a : Operand) (off : BitVec 16)
  /-- BNZ (R288). -/
  | bnz (a : Operand) (off : BitVec 16)
  /-- BNZL (R288). -/
  | bnzl (a : Operand) (off : BitVec 16)
  /-- JMP (R289). -/
  | jmp (a : Operand)
  /-- JMPL (R289). -/
  | jmpl (d a : Operand)
  /-- RET (R289). -/
  | ret (a : Operand)
  /-- PAUSE (R290). -/
  | pause (n : BitVec 16)
  /-- TRAP (R381). -/
  | trap (n : BitVec 15)
  /-- CSRR (R383). -/
  | csrr (w : Bool) (d : Operand) (n : Csr)
  /-- CSRW (R383). -/
  | csrw (a : Operand) (n : Csr)
  /-- CNTOPEN (R386). -/
  | cntopen (a : Operand) (r : Bool)
  /-- PROGPT (R389). -/
  | progpt (n : BitVec 4)
  /-- TLBINV (R390). -/
  | tlbinv (a : Operand)
  /-- BIASFLIP_HOST (R153). -/
  | biasflipHost (a : Operand)
  /-- BIASFLIP_DEV (R154). -/
  | biasflipDev (a : Operand)
  /-- CLKQ (R392). -/
  | clkq (w : Bool) (d : Operand)
  /-- IADD (R293). -/
  | iadd (w : Bool) (d a b : Operand) (f : IForm)
  /-- IADD_I (R293). -/
  | iaddI (w : Bool) (d a : Operand) (i : BitVec 7) (f : IForm)
  /-- ISUB (R293). -/
  | isub (w : Bool) (d a b : Operand) (f : IForm)
  /-- IMUL (R293). -/
  | imul (w : Bool) (d a b : Operand) (f : IForm)
  /-- IMUL_I (R293). -/
  | imulI (w : Bool) (d a : Operand) (i : BitVec 7) (f : IForm)
  /-- IMULH_S (R293). -/
  | imulhS (w : Bool) (d a b : Operand) (f : IForm)
  /-- IMULH_W (R293). -/
  | imulhW (w : Bool) (d a b : Operand) (f : IForm)
  /-- IMAD (R293). -/
  | imad (w : Bool) (d a b : Operand) (f : IForm)
  /-- AND (R293). -/
  | and (w : Bool) (d a b : Operand) (f : IForm)
  /-- AND_I (R293). -/
  | andI (w : Bool) (d a : Operand) (i : BitVec 7) (f : IForm)
  /-- OR (R293). -/
  | or (w : Bool) (d a b : Operand) (f : IForm)
  /-- OR_I (R293). -/
  | orI (w : Bool) (d a : Operand) (i : BitVec 7) (f : IForm)
  /-- XOR (R293). -/
  | xor (w : Bool) (d a b : Operand) (f : IForm)
  /-- XOR_I (R293). -/
  | xorI (w : Bool) (d a : Operand) (i : BitVec 7) (f : IForm)
  /-- ANDN (R293). -/
  | andn (w : Bool) (d a b : Operand) (f : IForm)
  /-- SHL (R295). -/
  | shl (w : Bool) (d a b : Operand) (f : IForm)
  /-- SHL_I (R295). -/
  | shlI (w : Bool) (d a : Operand) (i : BitVec 7) (f : IForm)
  /-- SHR (R295). -/
  | shr (w : Bool) (d a b : Operand) (f : IForm)
  /-- SHR_I (R295). -/
  | shrI (w : Bool) (d a : Operand) (i : BitVec 7) (f : IForm)
  /-- SAR (R295). -/
  | sar (w : Bool) (d a b : Operand) (f : IForm)
  /-- SAR_I (R295). -/
  | sarI (w : Bool) (d a : Operand) (i : BitVec 7) (f : IForm)
  /-- ROTL (R295). -/
  | rotl (w : Bool) (d a b : Operand) (f : IForm)
  /-- ROTL_I (R295). -/
  | rotlI (w : Bool) (d a : Operand) (i : BitVec 7) (f : IForm)
  /-- POPC (R296). -/
  | popc (w : Bool) (d a : Operand) (f : IForm)
  /-- CLZ (R296). -/
  | clz (w : Bool) (d a : Operand) (f : IForm)
  /-- BREV (R296). -/
  | brev (w : Bool) (d a : Operand) (f : IForm)
  /-- BFE_W (R297). -/
  | bfeW (w : Bool) (d a b : Operand) (f : IForm)
  /-- BFE_S (R297). -/
  | bfeS (w : Bool) (d a b : Operand) (f : IForm)
  /-- BFI (R297). -/
  | bfi (w : Bool) (d a b : Operand) (f : IForm)
  /-- PERM (R298). -/
  | perm (w : Bool) (d a b : Operand)
  /-- ICMPEQ (R293). -/
  | icmpeq (w : Bool) (d a b : Operand) (f : IForm)
  /-- ICMPNE (R293). -/
  | icmpne (w : Bool) (d a b : Operand) (f : IForm)
  /-- ICMPLT_S (R293). -/
  | icmpltS (w : Bool) (d a b : Operand) (f : IForm)
  /-- ICMPLT_W (R293). -/
  | icmpltW (w : Bool) (d a b : Operand) (f : IForm)
  /-- ICMPLE_S (R293). -/
  | icmpleS (w : Bool) (d a b : Operand) (f : IForm)
  /-- ICMPLE_W (R293). -/
  | icmpleW (w : Bool) (d a b : Operand) (f : IForm)
  /-- SEL (R299). -/
  | sel (w : Bool) (d a b : Operand) (f : IForm)
  /-- IMIN_S (R293). -/
  | iminS (w : Bool) (d a b : Operand) (f : IForm)
  /-- IMIN_W (R293). -/
  | iminW (w : Bool) (d a b : Operand) (f : IForm)
  /-- IMAX_S (R293). -/
  | imaxS (w : Bool) (d a b : Operand) (f : IForm)
  /-- IMAX_W (R293). -/
  | imaxW (w : Bool) (d a b : Operand) (f : IForm)
  /-- GADDR (R300). -/
  | gaddr (w : Bool) (d a b : Operand)
  /-- FADD (R301). -/
  | fadd (w : Bool) (d a b : Operand) (f : FForm)
  /-- FSUB (R301). -/
  | fsub (w : Bool) (d a b : Operand) (f : FForm)
  /-- FMUL (R301). -/
  | fmul (w : Bool) (d a b : Operand) (f : FForm)
  /-- FFMA (R301). -/
  | ffma (w : Bool) (d a b : Operand) (f : FForm)
  /-- FFMS (R301). -/
  | ffms (w : Bool) (d a b : Operand) (f : FForm)
  /-- FNMA (R301). -/
  | fnma (w : Bool) (d a b : Operand) (f : FForm)
  /-- FMIN (R302). -/
  | fmin (w : Bool) (d a b : Operand) (f : FForm)
  /-- FMAX (R302). -/
  | fmax (w : Bool) (d a b : Operand) (f : FForm)
  /-- FCMPEQ (R302). -/
  | fcmpeq (w : Bool) (d a b : Operand) (f : FForm)
  /-- FCMPNE (R302). -/
  | fcmpne (w : Bool) (d a b : Operand) (f : FForm)
  /-- FCMPLT (R302). -/
  | fcmplt (w : Bool) (d a b : Operand) (f : FForm)
  /-- FCMPLE (R302). -/
  | fcmple (w : Bool) (d a b : Operand) (f : FForm)
  /-- FCMPUN (R302). -/
  | fcmpun (w : Bool) (d a b : Operand) (f : FForm)
  /-- FNEG (R303). -/
  | fneg (w : Bool) (d a : Operand) (f : FForm)
  /-- FABS (R303). -/
  | fabs (w : Bool) (d a : Operand) (f : FForm)
  /-- FRCP (R301). -/
  | frcp (w : Bool) (d a : Operand) (f : FForm)
  /-- FRSQ (R301). -/
  | frsq (w : Bool) (d a : Operand) (f : FForm)
  /-- FSQRT (R301). -/
  | fsqrt (w : Bool) (d a : Operand) (f : FForm)
  /-- FEXP2 (R301). -/
  | fexp2 (w : Bool) (d a : Operand) (f : FForm)
  /-- FLOG2 (R301). -/
  | flog2 (w : Bool) (d a : Operand) (f : FForm)
  /-- FSINPI (R301). -/
  | fsinpi (w : Bool) (d a : Operand) (f : FForm)
  /-- FCOSPI (R301). -/
  | fcospi (w : Bool) (d a : Operand) (f : FForm)
  /-- FRINT (R301). -/
  | frint (w : Bool) (d a : Operand) (f : FForm)
  /-- FLDEXP (R301). -/
  | fldexp (w : Bool) (d a b : Operand) (f : FForm)
  /-- FCLASS (R304). -/
  | fclass (w : Bool) (d a : Operand) (f : FForm)
  /-- CVT_FF (R305). -/
  | cvtFf (w : Bool) (d a : Operand) (t u : FFmt)
  /-- CVT_FI (R244). -/
  | cvtFi (w : Bool) (d a : Operand) (t : IFmt) (u : FFmt)
  /-- CVT_IF (R244). -/
  | cvtIf (w : Bool) (d a : Operand) (t : FFmt) (u : IFmt)
  /-- CVT_SR (R307). -/
  | cvtSr (w : Bool) (d a b : Operand) (f : FFmt)
  /-- DOT2 (R308). -/
  | dot2 (w : Bool) (d a b : Operand) (f : FFmt)
  /-- DOT4 (R308). -/
  | dot4 (w : Bool) (d a b : Operand) (f : FFmt)
  /-- DOT8 (R308). -/
  | dot8 (w : Bool) (d a b : Operand) (f : FFmt)
  /-- DOT4X (R309). -/
  | dot4x (w : Bool) (d a b : Operand) (f : FFmt)
  /-- DOT8X (R309). -/
  | dot8x (w : Bool) (d a b : Operand) (f : FFmt)
  /-- IDOT4 (R310). -/
  | idot4 (w : Bool) (d a b : Operand) (sg : Bool)
  /-- SHFL (R312). -/
  | shfl (w : Bool) (d a b : Operand)
  /-- SHFLUP (R312). -/
  | shflup (w : Bool) (d a : Operand) (i : BitVec 7)
  /-- SHFLDN (R312). -/
  | shfldn (w : Bool) (d a : Operand) (i : BitVec 7)
  /-- SHFLX (R312). -/
  | shflx (w : Bool) (d a : Operand) (i : BitVec 7)
  /-- BCAST (R312). -/
  | bcast (w : Bool) (d a : Operand) (i : BitVec 7)
  /-- WADD (R313). -/
  | wadd (w : Bool) (d a : Operand) (f : SumForm)
  /-- WMIN (R313). -/
  | wmin (w : Bool) (d a : Operand) (f : MinForm)
  /-- WMAX (R313). -/
  | wmax (w : Bool) (d a : Operand) (f : MinForm)
  /-- WSCAN (R313). -/
  | wscan (w : Bool) (d a : Operand) (f : SumForm)
  /-- MATCH (R314). -/
  | matchEq (w : Bool) (d a : Operand)
  /-- VOTE (R314). -/
  | vote (w : Bool) (d a : Operand) (f : VoteForm)
  /-- LD (R319). -/
  | ld (w : Bool) (d a : Operand) (sc : Scope) (l : Width) (o : BitVec 3)
  /-- LD_SIGNED (R319). -/
  | ldSigned (w : Bool) (d a : Operand) (sc : Scope) (l : Width) (o : BitVec 3)
  /-- LD_ACQ (R321). -/
  | ldAcq (w : Bool) (d a : Operand) (sc : Scope) (l : Width) (o : BitVec 3)
  /-- ST (R320). -/
  | st (d a : Operand) (sc : Scope) (l : Width) (o : BitVec 3)
  /-- ST_REL (R321). -/
  | stRel (d a : Operand) (sc : Scope) (l : Width) (o : BitVec 3)
  /-- PREF (R323). -/
  | pref (a : Operand) (sc : Scope) (l : Width) (o : BitVec 3)
  /-- FENCE (R324). -/
  | fence (sc : Scope)
  /-- AADD (R326). -/
  | aadd (d a : Operand) (sc : Scope) (l : Width) (r : Order)
  /-- AADD_F (R326). -/
  | aaddF (d a : Operand) (sc : Scope) (l : Width) (r : Order)
  /-- AMIN_S (R326). -/
  | aminS (d a : Operand) (sc : Scope) (l : Width) (r : Order)
  /-- AMIN_W (R326). -/
  | aminW (d a : Operand) (sc : Scope) (l : Width) (r : Order)
  /-- AMAX_S (R326). -/
  | amaxS (d a : Operand) (sc : Scope) (l : Width) (r : Order)
  /-- AMAX_W (R326). -/
  | amaxW (d a : Operand) (sc : Scope) (l : Width) (r : Order)
  /-- AAND (R326). -/
  | aand (d a : Operand) (sc : Scope) (l : Width) (r : Order)
  /-- AOR (R326). -/
  | aor (d a : Operand) (sc : Scope) (l : Width) (r : Order)
  /-- AXOR (R326). -/
  | axor (d a : Operand) (sc : Scope) (l : Width) (r : Order)
  /-- AXCHG (R326). -/
  | axchg (d a : Operand) (sc : Scope) (l : Width) (r : Order)
  /-- ACAS (R326). -/
  | acas (d a : Operand) (sc : Scope) (l : Width) (r : Order)
  /-- RED_ADD (R329). -/
  | redAdd (d a : Operand) (sc : Scope) (l : Width) (rel : Bool)
  /-- RED_ADD_F (R329). -/
  | redAddF (d a : Operand) (sc : Scope) (l : Width) (rel : Bool)
  /-- RED_MIN_S (R329). -/
  | redMinS (d a : Operand) (sc : Scope) (l : Width) (rel : Bool)
  /-- RED_MIN_W (R329). -/
  | redMinW (d a : Operand) (sc : Scope) (l : Width) (rel : Bool)
  /-- RED_MAX_S (R329). -/
  | redMaxS (d a : Operand) (sc : Scope) (l : Width) (rel : Bool)
  /-- RED_MAX_W (R329). -/
  | redMaxW (d a : Operand) (sc : Scope) (l : Width) (rel : Bool)
  /-- RED_AND (R329). -/
  | redAnd (d a : Operand) (sc : Scope) (l : Width) (rel : Bool)
  /-- RED_OR (R329). -/
  | redOr (d a : Operand) (sc : Scope) (l : Width) (rel : Bool)
  /-- RED_XOR (R329). -/
  | redXor (d a : Operand) (sc : Scope) (l : Width) (rel : Bool)
  /-- LOGMARK (R343). -/
  | logmark (w : Bool) (d : Operand)
  /-- BINIT (R333). -/
  | binit (a b : Operand)
  /-- BARR (R333). -/
  | barr (a : Operand)
  /-- BEXP (R333). -/
  | bexp (a b : Operand)
  /-- BWAIT (R335). -/
  | bwait (w : Bool) (d a b : Operand)
  /-- BTEST (R336). -/
  | btest (w : Bool) (d a b : Operand)
  /-- GSYNC (R338). -/
  | gsync (w : Bool) (d : Operand) (n : BitVec 8)
  /-- QPUSH (R340). -/
  | qpush (w : Bool) (d a b : Operand)
  /-- QPOP (R341). -/
  | qpop (w : Bool) (d a b : Operand)
  /-- ACOPY (R369). -/
  | acopy (c a b : VReg) (f : Comp)
  /-- AGATH (R369). -/
  | agath (c a b : VReg) (f : Comp)
  /-- ASCAT (R369). -/
  | ascat (c a b : VReg) (f : Comp)
  /-- AFILL (R369). -/
  | afill (c a b : VReg) (f : Comp)
  /-- ACOPY2D (R369). -/
  | acopy2d (c a b : VReg) (f : Comp)
  /-- ACOPY_SYS (R372). -/
  | acopySys (c a b : VReg) (f : Comp)
  /-- ACOPY_NEAR (R372). -/
  | acopyNear (c a b : VReg) (f : Comp)
  /-- ACOPY_POD (R372). -/
  | acopyPod (c a b : VReg) (f : Comp)
  /-- ABALLOC (R200). -/
  | aballoc (w : Bool) (d : Operand) (n : BitVec 8)
  /-- ABFREE (R200). -/
  | abfree (d : Operand) (n : BitVec 8)
  /-- MGATH (R362). -/
  | mgath (p : Bool) (c a b : VReg)
  /-- MMA_F16 (R360). -/
  | mmaF16 (p : Bool) (c a b : VReg) (f : BitVec 2)
  /-- MMA_FP8 (R360). -/
  | mmaFp8 (p : Bool) (c a b : VReg) (f : BitVec 2)
  /-- MMA_INT8 (R360). -/
  | mmaInt8 (p : Bool) (c a b : VReg) (f : BitVec 2)
  /-- MMA_FP8_FP4 (R360). -/
  | mmaFp8Fp4 (p : Bool) (c a b : VReg) (f : BitVec 2)
  /-- MMA_FP4 (R360). -/
  | mmaFp4 (p : Bool) (c a b : VReg) (f : BitVec 2)
  /-- MMA_FP6 (R360). -/
  | mmaFp6 (p : Bool) (c a b : VReg) (f : BitVec 2)
  /-- MSCALE (R363). -/
  | mscale (p : Bool) (c : VReg) (t : Bool)
  /-- MZERO (R363). -/
  | mzero (p : Bool) (c : VReg)
  /-- MDRAIN (R364). -/
  | mdrain (p : Bool) (c a b : VReg) (f : DrainForm)
  /-- MSNAP (R363). -/
  | msnap (p : Bool) (c a : VReg)
  /-- PUTR (R374). -/
  | putr (c a b : VReg) (f : Comp)
  /-- GETR (R374). -/
  | getr (c a b : VReg) (f : Comp)
  /-- ATOMR (R375). -/
  | atomr (c a b : VReg) (f : Comp)
  /-- CTRSET (R376). -/
  | ctrset (a b : Operand)
  /-- CTRWAIT (R377). -/
  | ctrwait (a b : Operand)
  /-- RANKQ (R378). -/
  | rankq (w : Bool) (d : Operand) (n : BitVec 2)
  /-- LAUNCH (R379). -/
  | launch (c a b : VReg)
  /-- LAUNCH_RANK (R379). -/
  | launchRank (c a b : VReg)
  /-- STAGEX (R380). -/
  | stagex (w : Bool) (d : Operand)
  /-- IMM (R260). -/
  | imm (p : BitVec 24)
  /-- HINT_MOD (R262). -/
  | hintMod (m : Round) (sat : Bool)
  /-- HINT_CHUNKSZ (R262). -/
  | hintChunksz (lim : BitVec 13)
  /-- HINT_IPREF (R262). -/
  | hintIpref (o : BitVec 16)
  /-- HINT_STICK (R262). -/
  | hintStick (n : BitVec 4)
  /-- LOCAL_COMMIT (R90). -/
  | localCommit (wave : Nat)
  /-- CHIP_COMMIT (R88). -/
  | chipCommit (wave : Nat)
  /-- LINE_APPLIED (R88). -/
  | lineApplied (home : Nat)
  /-- PAUSE_EXPIRE (R179). -/
  | pauseExpire (wave lane : Nat)
  /-- LANE_PROMOTION (R180). -/
  | lanePromotion (wave lane : Nat)
  /-- ICACHE_FILL (R178). -/
  | icacheFill (core tenant : Nat) (line : W64)
  /-- PAGE_WALK (R15). -/
  | pageWalk (asker : TlbHome × Nat) (va : W64)
  /-- BANK_DROWSY (R73). -/
  | bankDrowsy (core bank : Nat)
  /-- STORE_POWER_OFF (R75). -/
  | storePowerOff (core : Nat)
  /-- ENGINE_LINE_PLACE (R106). -/
  | engineLinePlace (cmd line : Nat)
  /-- ENGINE_COMMAND_COMPLETE (R349). -/
  | engineCommandComplete (cmd : Nat)
  /-- ENGINE_COMMAND_FAIL (R350). -/
  | engineCommandFail (cmd cause detail : Nat) (addr : W64)
  /-- MATRIX_COMMAND_DONE (R360). -/
  | matrixCommandDone (cmd : Nat)
  /-- MATRIX_FAULT (R366). -/
  | matrixFault (cmd detail : Nat) (info : W64)
  /-- LAUNCH_VALIDATE (R209). -/
  | launchValidate (tenant queue : Nat)
  /-- LAUNCH_ADMIT (R213). -/
  | launchAdmit (tenant queue : Nat)
  /-- WORKGROUP_PLACE (R216). -/
  | workgroupPlace (launch : Nat)
  /-- WORKGROUP_SAVE (R409). -/
  | workgroupSave (wg : Nat)
  /-- WORKGROUP_RESTORE (R217). -/
  | workgroupRestore (wg : Nat)
  /-- WORKGROUP_RETIRE (R189). -/
  | workgroupRetire (wg : Nat)
  /-- STAGE_REBALANCE (R218). -/
  | stageRebalance (launch : Nat)
  /-- LAUNCH_COMPLETE (R211). -/
  | launchComplete (launch : Nat)
  /-- TRAP_DELIVERY (R400). -/
  | trapDelivery (wave : Nat)
  /-- ACCT_FLUSH_PERFORM (R226). -/
  | acctFlushPerform (tenant : Nat)
  /-- ACCT_FOLD (R225). -/
  | acctFold (core : Nat)
  /-- CONTEXT_LOAD (R415). -/
  | contextLoad (tenant : Nat)
  /-- CORE_HANDOVER (R414). -/
  | coreHandover (core : Nat)
  /-- EXTENT_RELEASE_COMPLETE (R164). -/
  | extentReleaseComplete (tenant entry : Nat)
  /-- AUDIT_REPLAY (R427). -/
  | auditReplay (wg core : Nat) (err : W64) (trapped : Bool)
  /-- AUDIT_COMPARE (R428). -/
  | auditCompare (wg : Nat)
  /-- LOG_WINDOW_OPEN (R448). -/
  | logWindowOpen (tenant : Nat)
  /-- TRACE_SAMPLE (R440). -/
  | traceSample (core : Nat)
  /-- HALT_COMPLETE (R432). -/
  | haltComplete (tenant : Nat)
  /-- TRIAL_END (R456). -/
  | trialEnd (tenant : Nat)
  /-- BIAS_FLIP_COMPLETE (R153). -/
  | biasFlipComplete (page : Nat)
  /-- SAVE_COMPLETE (R412). -/
  | saveComplete (wg : Nat)
  /-- RESTORE_COMPLETE (R411). -/
  | restoreComplete (wg : Nat)
  /-- PICKER_CYCLE (R220). -/
  | pickerCycle (core : Nat)
  /-- KEY_SWITCHOVER (R142). -/
  | keySwitchover (link : Nat)
  /-- KEY_EXHAUSTED (R142). -/
  | keyExhausted (link : Nat)
  /-- LOG_DISABLE (R441). -/
  | logDisable (tenant : Nat)
  /-- FAR_RESPONSE (R79). -/
  | farResponse (wave lane : Nat) (reply : FarReply)
  /-- POD_READ_REQUEST (R115). -/
  | podReadRequest (req : PodReq)
  /-- POD_READ_RESPONSE (R115). -/
  | podReadResponse (rsp : PodRsp)
  /-- POD_OWNERSHIP_REQUEST (R116). -/
  | podOwnershipRequest (req : PodReq)
  /-- POD_OWNERSHIP_GRANT (R116). -/
  | podOwnershipGrant (rsp : PodRsp)
  /-- RECALL (R116). -/
  | recall (req : PodReq)
  /-- RECALL_RESPONSE (R116). -/
  | recallResponse (rsp : PodRsp)
  /-- POD_OWNER_EVICT (R116). -/
  | podOwnerEvict (tenant : Nat) (line : PodLine)
  /-- POD_ATOMIC_REQUEST (R117). -/
  | podAtomicRequest (req : PodReq) (work : PodOp)
  /-- POD_WRITE_ACK (R112). -/
  | podWriteAck (wave stamp pc : Nat)
  /-- OWNER_TIMEOUT (R121). -/
  | ownerTimeout (tenant owner : Nat)
  /-- KEEPALIVE (R121). -/
  | keepalive
  /-- POD_REQUEST_TIMEOUT (R122). -/
  | podRequestTimeout (wave lane : Nat)
  /-- PUT_PACKET (R129). -/
  | putPacket (tenant : Nat) (h : PktHdr) (seq : Nat) (data : PutData)
  /-- GET_REQUEST (R129). -/
  | getRequest (tenant : Nat) (h : PktHdr) (seq : Nat)
  /-- GET_RESPONSE (R374). -/
  | getResponse (tenant : Nat) (h : PktHdr) (data : AnswerTo × List Byte)
  /-- ATOMIC_REQUEST (R129). -/
  | atomicRequest (tenant : Nat) (h : PktHdr) (seq : Nat) (op : AtomOp) (l : Width) (x y : BitVec 128)
  /-- ATOMIC_RESPONSE (R375). -/
  | atomicResponse (tenant : Nat) (h : PktHdr) (old : AnswerTo × BitVec 128)
  /-- ACKNOWLEDGEMENT (R132). -/
  | acknowledgement (tenant : Nat) (h : PktHdr) (answer : AnswerTo)
  /-- RETRANSMISSION_TIMEOUT (R126). -/
  | retransmissionTimeout (tenant group pkt : Nat)
  /-- PATH_PROBE (R126). -/
  | pathProbe (tenant group path : Nat)
  /-- GROUP_PROGRESS_TIMEOUT (R134). -/
  | groupProgressTimeout (tenant group : Nat)
  /-- REMOTE_LAUNCH_RECORD (R379). -/
  | remoteLaunchRecord (tenant queue : Nat) (rec : List W64) (src : Nat)
  /-- KEY_LOAD (R140). -/
  | keyLoad (link : Nat) (tx slot : Bool) (salt : W32) (key : BitVec 256)
  /-- SEALED_DATA_FLIT (R143). -/
  | sealedDataFlit (link : Nat) (flit : Flit)
  /-- SWITCH_MARKER (R143). -/
  | switchMarker (link : Nat) (flit : Flit)
  /-- ACKNOWLEDGING_MARKER (R142). -/
  | acknowledgingMarker (link : Nat) (flit : Flit)
  /-- SEALED_CONTROL_FLIT (R144). -/
  | sealedControlFlit (link : Nat) (flit : Flit)
  /-- LINK_CRC_ERROR (R416). -/
  | linkCrcError (link : Nat)
  /-- HOST_READ (R149). -/
  | hostRead (src : HostSource) (hpa len : Nat)
  /-- HOST_WRITE (R149). -/
  | hostWrite (src : HostSource) (hpa : Nat) (data : List Byte) (pois : Bool)
  /-- BACK_INVAL_RESPONSE (R152). -/
  | backInvalResponse (line : Nat) (data : Option (List Byte)) (held : Bool)
  /-- HOST_SNOOP (R159). -/
  | hostSnoop (addr : Nat) (inv : Bool)
  /-- PORT_REQUEST_TIMEOUT (R161). -/
  | portRequestTimeout (wave lane : Nat)
  /-- PORT_COMPLETION (R160). -/
  | portCompletion (wave lane : Nat) (reply : PortReply)
  /-- LAUNCH_RECORD_DMWR (R169). -/
  | launchRecordDmwr (tenant queue : Nat) (rec : List W64)
  /-- LAUNCH_RECORD_POSTED (R169). -/
  | launchRecordPosted (tenant queue off bytes : Nat) (rec : List W64)
  /-- LQ_STAT_WRITE (R169). -/
  | lqStatWrite (tenant queue : Nat) (val : W64)
  /-- ACCT_FLUSH (R224). -/
  | acctFlush (tenant : Nat)
  /-- TENANT_RELOAD (R171). -/
  | tenantReload (tenant : Nat)
  /-- LAST_REJECT_CLEAR (R210). -/
  | lastRejectClear (tenant : Nat)
  /-- CORE_ASSIGN (R414). -/
  | coreAssign (core : Nat) (val : W64)
  /-- EXTENT_ADD (R164). -/
  | extentAdd (tenant entry : Nat) (ws : List W64)
  /-- EXTENT_RELEASE (R164). -/
  | extentRelease (tenant : Nat) (bits : W64)
  /-- MEMORY_WINDOW_WRITE (R170). -/
  | memoryWindowWrite (tenant entry : Nat) (lo hi : W64)
  /-- POISON_CLEAR (R420). -/
  | poisonClear (val : W64)
  /-- MEMORY_ERROR (R416). -/
  | memoryError (site : ErrSite) (corrected : Bool)
  /-- SELF_TEST_DONE (R421). -/
  | selfTestDone (utype core unit : Nat) (pass : Bool)
  /-- LOG_ENABLE (R441). -/
  | logEnable (tenant : Nat) (val : W64)
  /-- LOG_HEAD_WRITE (R441). -/
  | logHeadWrite (tenant : Nat) (val : W64)
  /-- HALT (R432). -/
  | haltLanes (tenant : Nat) (freeze : Bool)
  /-- RESUME (R433). -/
  | resumeLanes (tenant : Nat)
  /-- STEP (R433). -/
  | stepWave (tenant : Nat)
  /-- MARK (R448). -/
  | markWindow (tenant : Nat)
  /-- REVCHUNK (R452). -/
  | revchunk (tenant : Nat)
  /-- REVWIN (R452). -/
  | revwin (tenant : Nat)
  /-- REVCONT (R453). -/
  | revcont (tenant : Nat)
  /-- TRIALGO (R456). -/
  | trialgo (tenant : Nat)
  /-- TRIALSTOP (R456). -/
  | trialstop (tenant : Nat)
  /-- CLKLOCK (R458). -/
  | clklock (tenant : Nat)
  /-- CLKFREE (R458). -/
  | clkfree (tenant : Nat)
  /-- DEBUG_VIEW_WRITE (R434). -/
  | debugViewWrite (tenant off : Nat) (val : W64)
  /-- APERTURE_READ (R434). -/
  | apertureRead (tenant off len : Nat)
  /-- APERTURE_WRITE (R434). -/
  | apertureWrite (tenant off : Nat) (data : List Byte)
  /-- POWER_WINDOW (R491). -/
  | powerWindow (watts celsius : Nat)
  /-- POWER_GOOD_RESET (R485). -/
  | powerGoodReset (found : Discovery)
  /-- REGISTER_WRITE (R492). -/
  | registerWrite (fn off : Nat) (val : W64)
  /-- DESTINATION_UNREACHABLE (R122). -/
  | destinationUnreachable (wave lane : Nat)
  /-- LINK_DOWN (R121). -/
  | linkDown (link : Nat)
  /-- LAUNCH_STATUS_RESPONSE (R379). -/
  | launchStatusResponse (tenant tag code : Nat)
  /-- LEASED_COPY_EVICTION (R115). -/
  | leasedCopyEviction (tenant : Nat) (line : PodLine)
  /-- NOP (R287). -/
  | nop
  /-- EXIT (R292). -/
  | exit
  /-- TRET (R382). -/
  | tret
  /-- CNTCLOSE (R386). -/
  | cntclose
  /-- TLBINV_ALL (R390). -/
  | tlbinvAll
  /-- CHUNK (R291). -/
  | chunk
  /-- MACQ (R195). -/
  | macq
  /-- MACQ_PAIR (R196). -/
  | macqPair
  /-- MREL (R195). -/
  | mrel
  /-- RESERVATION_GRANT (R92). -/
  | reservationGrant
  /-- ACCESS_COUNT_UPDATE (R43). -/
  | accessCountUpdate
  /-- POD_CLOCK_TICK (R112). -/
  | podClockTick
  /-- POISON_CLEAR_PERFORM (R420). -/
  | poisonClearPerform
  deriving DecidableEq, Repr

end Sys2Proof
end

