-- ==== Sys2Proof/Machine/State.lean ====
section
/-!
DEFINITION. The state of one YHN-256A as plain data, its reset, and the reasons a step could stop. Field comments name the
rule of spec/ that gives the field; a field marked "model" is the model's own (log entries 4 to 6). A field's default is its
reset value, or its value when the unit that holds it is created.
-/

namespace Sys2Proof.Machine

/-! ### Memory -/

/-- Device memory by device physical address (R148): stacked memory from 0, second-tier memory from 512,000,000,000. Sorted,
no repeats, no zero byte listed. -/
abbrev Memory := List Host.Cell

/-! ### Threads and waves -/

/-- A latch entry: its value and whether the value is 64 bits wide (R181, R182). -/
structure Latch where
  val : W64 := 0
  wide : Bool := false
  deriving DecidableEq, Repr

/-- Issue state of a lane (R173), its latches (R181), pending immediate (R260), pending modifiers (R262), skip mark (R438). -/
structure Lane where
  pc : W64 := 0
  exited : Bool := true
  pcnt : Nat := 0
  age : Nat := 0
  halted : Bool := false
  lvalid : BitVec 4 := 0
  latches : List Latch := []
  imm : W64 := 0
  immCount : Nat := 0
  /-- IMMs issued directly before, by this lane (R260) -/
  immRun : Nat := 0
  rm : Round := .rne
  sat : Bool := false
  skip : Bool := false
  deriving DecidableEq, Repr

/-- A byte place on the chip: device memory by DPA, a workgroup's scratchpad by offset (bit 23 for the odd core's part, R21),
a wave's register row by byte (256 v + 4 lane + byte, R22), or an accumulator byte of a core. -/
inductive Loc where
  | mem (dpa : Nat)
  | scr (wg off : Nat)
  | reg (wave off : Nat)
  | acc (core off : Nat)
  deriving DecidableEq, Repr

/-- A store in the write stash (R80): where, under which effective address, which bytes. -/
structure Write where
  loc : Loc
  ea : W64
  bytes : List Byte
  /-- its page is counted (R42) -/
  cnt : Bool := false
  deriving DecidableEq, Repr

/-- One lane's part of a closing atomic or RED (R326). -/
structure AtomLane where
  lane : Nat
  locs : List Loc
  ea : W64
  x : BitVec 128
  y : BitVec 128
  cnt : Bool := false
  deriving DecidableEq, Repr

/-- Changes of a barrier object made by a chunk (R59, R333). -/
inductive BarOp where
  | init (n : Nat)
  | arrive
  | expect (n : Int)
  deriving DecidableEq, Repr

/-- The engine commands (R346), with the MMA types as FFmt pairs or integer signs (R358). -/
inductive CmdOp where
  | acopy | agath | ascat | afill | acopy2d | acopySys | acopyNear | acopyPod
  | putr | getr | atomr
  | mgath | mmaF (ta tb : FFmt) (ha hb : Bool) | mmaI (sa sb : Bool)
  | mscale (tb : Bool) | mzero | mdrain (f : DrainForm) | msnap
  deriving DecidableEq, Repr

/-- What a matrix engine keeps for its owner (R354): tile scales, operand latch (row i at 512 i, its scales at 256 i) with its valid
mark, RBU and SBY. -/
structure MatrixRegs where
  ta : W32 := 0x3F800000
  tb : W32 := 0x3F800000
  rows : Tab Byte := []
  scales : Tab Byte := []
  valid : Bool := false
  rbu : Nat := 0
  sby : Nat := 0
  deriving DecidableEq, Repr

/-- An engine command (R346): its operands as read from the leading lane at issue, who issued it, and how far it has got. -/
structure Cmd where
  id : Nat := 0
  op : CmdOp := .acopy
  wave : Nat := 0
  wg : Nat := 0
  launch : Nat := 0
  tenant : Nat := 0
  core : Nat := 0
  pc : W64 := 0
  mask : LaneMask := 0
  pair : Bool := false
  /-- the C pair (destination address or remote end), or the C word in [31:0] -/
  c : W64 := 0
  a : W64 := 0
  /-- the words of the B group -/
  b : List W32 := []
  comp : Comp := .none
  compAddr : W64 := 0
  /-- the place its completion object resolved to at issue (R349) -/
  compLoc : Option Loc := none
  compCnt : Bool := false
  rm : Round := .rne
  sat : Bool := false
  /-- bytes placed or acknowledged so far (R349, R132) -/
  placed : Nat := 0
  /-- packets sent and not yet answered (R374); for AGATH and ASCAT the index vector once read (R369) -/
  waiting : List Nat := []
  /-- consecutive execution faults (R366), and whether the command is held at the head of its engine -/
  faults : Nat := 0
  held : Bool := false
  /-- scratchpad lines on which it holds a writer place, and which it has not finished (R51) -/
  lines : List Nat := []
  forked : Bool := false
  /-- parts not yet placed, by number: row × parts of a row + part (R106, R369) -/
  left : List Nat := []
  nchk : Nat := 0
  /-- it waits for room in the log (R450) -/
  stalled : Bool := false
  /-- engine state of a grant that precedes it, by core: what its first command finds (R195, R354) -/
  load : List (Nat × MatrixRegs) := []
  /-- bytes of its parts between two cuts of the cut side: lines, or packets to a remote rank (R106, R128) -/
  gran : Nat := 128
  /-- data that have come from beyond the chip and are not placed yet, by part, with their poison mark -/
  buf : List (Nat × List Byte × Bool) := []
  /-- the host line that a part waits for, by part, and whether it is to be owned (R158) -/
  asked : List (Nat × Nat × Bool) := []
  /-- coherent host lines that came poisoned (R41) -/
  poisoned : List Nat := []
  /-- bytes sent to non-coherent host or pool memory and not yet reported, where they went, and zero-length reads under way (R158) -/
  owed : Nat := 0
  owedTo : List (Option Nat) := []
  zeros : Nat := 0
  /-- scratchpad lines in which it has placed poisoned data (R55) -/
  spoilt : List Nat := []
  /-- some byte that it reads or writes, or its object, is chip memory (R86) -/
  onChip : Bool := true
  /-- its destination lies beyond the chip (R351) -/
  farDst : Bool := false
  /-- its seal is in the log (R351) -/
  sealed_ : Bool := false
  /-- pages of device memory in which it has placed or read bytes (R153) -/
  pages : List Nat := []
  deriving DecidableEq, Repr

/-- The closing operation of a chunk (R78). -/
inductive Closing where
  | none
  | atomic (op : AtomOp) (l : Width) (lanes : List AtomLane) (dest : Option VReg) (ret : Bool)
  | barrier (op : BarOp) (obj : Loc) (ea pc : W64) (mask : LaneMask)
  | ctrset (obj : Loc) (val : W64)
  | qpush (line : Nat) (entries : List (Nat × List W32)) (w : Bool) (d : Operand)
  /-- a pop already made at its control line, with the old HEAD (R341) -/
  | qpop (line : Nat) (head : W64)
  | engine (cmd : Cmd)
  /-- LAUNCH (R379): queue, another rank if named, the record's places, the status word's place -/
  | launch (queue : Nat) (rank : Option Nat) (rec : List Loc) (status : Option Loc)
  deriving DecidableEq, Repr

/-- Why a running chunk will be discarded (R93, R223). -/
inductive Doom where
  | trap | halt | replay | unwind | refused | breakpoint
  deriving DecidableEq, Repr

/-- A trap entry (R395). -/
structure TrapEntry where
  cause : BitVec 8 := 0
  detail : BitVec 8 := 0
  next : Bool := false
  async : Bool := false
  fpc : W64 := 0
  mask : LaneMask := 0
  info : W64 := 0
  deriving DecidableEq, Repr

/-- An issue kept for reverse execution (R453): counter, lanes, and for an instruction that a watchpoint sees the effective address
of each lane, the size, and whether it reads and writes. -/
structure Issued where
  pc : W64
  mask : LaneMask
  eas : List W64 := []
  size : Nat := 0
  reads : Bool := false
  writes : Bool := false
  deriving DecidableEq, Repr

/-- A chunk (R76 to R84): start state, limit, issues, stash, checkpoint, masks, signatures, flags, closing operation, progress
points and tentative slots. -/
structure Chunk where
  start : List Lane := []
  limit : Nat := 4096
  issued : Nat := 0
  /-- newest first -/
  writes : List Write := []
  /-- register and its 64 old values (R81) -/
  saved : List (Nat × List W32) := []
  regReads : BitVec 120 := 0
  rsig : BitVec 1024 := 0
  wsig : BitVec 1024 := 0
  /-- the same for the lines of private-window accesses, which conflict with no alias access (R103) -/
  rpriv : BitVec 1024 := 0
  wpriv : BitVec 1024 := 0
  /-- flags raised, in the order of FPCTL [4:0] (R240) -/
  flags : BitVec 5 := 0
  closing : Closing := .none
  /-- the object of its closing operation lies in a counted page (R42) -/
  closingCnt : Bool := false
  /-- a FENCE at .chip or narrower makes the commit a chip commit (R324) -/
  fence : Bool := false
  /-- a FENCE or acquire at .chip or wider: alias writes before it are visible to private-window reads (R103) -/
  view : Bool := false
  /-- its effect is performed already, so that a full log makes it wait and does not discard it (R76, R78) -/
  performed : Bool := false
  prog : List (Nat × Nat) := []
  /-- counters of the issued slots, tentative until the chunk resolves (R223), each with its tenant's flushes before it -/
  slots : List (W64 × Nat) := []
  /-- keys of the lines read, exactly (R88, first broadcast rule) -/
  rkeys : List W64 := []
  /-- words of uncorrectable registers that it has written anew: register and lanes (R417) -/
  mended : List (Nat × LaneMask) := []
  /-- bytes its loads have read (R427) -/
  rbytes : Nat := 0
  /-- it ends after its last issue: a memory operation that closes it (R77, R327), or one run of the lanes of a store that needs
  more than 64 stash lines (R493) -/
  last : Bool := false
  /-- the chunk has ended and waits to commit (R79) -/
  ended : Bool := false
  /-- timestamp once Slate has stamped it (R87) -/
  ts : Option Nat := none
  /-- trap entries its instructions raised (R399) -/
  raised : List TrapEntry := []
  doomed : Option Doom := none
  /-- a breakpoint match placed the chunk's end before this counter (R93) -/
  shorten : Option W64 := none
  /-- it is the chunk of a STEP, with its instruction limit (R433) -/
  step : Option Nat := none
  /-- model: its issues in order and the one under way, kept while logging is on (R453) -/
  issues : List Issued := []
  cand : Option Issued := none
  /-- its input values in order (R446): lane, bytes, value -/
  inputs : List (Nat × Nat × Nat) := []
  deriving DecidableEq, Repr

/-- Slot causes (R221), in the order of their codes. -/
inductive Cause where
  | issue | squash | operand | localmem | farmem | barrier | engine | fetch
  | commit | pause | trap | replay | trial | halt | idle | empty
  deriving DecidableEq, Repr

/-- A charge of one slot (R221) and the number of its tenant's flush requests before it (R226). -/
structure Charge where
  tenant : Nat
  cause : Cause
  pc : W64
  cut : Nat
  deriving DecidableEq, Repr

/-- What a far operation does at its target (R315). -/
inductive FarOp where
  | load (l : Width) (signed : Bool)
  | store (l : Width) (val : BitVec 128)
  | atomic (op : AtomOp) (l : Width) (x y : BitVec 128)
  | red (op : AtomOp) (l : Width) (x : BitVec 128)
  deriving DecidableEq, Repr

/-- Where a far operation goes (R315). -/
inductive FarTarget where
  | chip (locs : List Loc)
  /-- `step`: the bytes from one aligned word of the access to the next, 4 but through the private window (R67) -/
  | host (pa : Nat) (coherent : Bool) (step : Nat)
  | pool (pid dpa step : Nat)
  | pod (line : PodLine) (byte accel : Nat)
  /-- `fabric`: the target's IPv6 address (R33) -/
  | remote (rank region off : Nat) (fabric : BitVec 128) (pset : Nat)
  deriving DecidableEq, Repr

/-- One lane of a far access in progress (R317, R328): its reply once it has come. -/
structure FarLane where
  lane : Nat
  ea : W64
  target : FarTarget
  op : FarOp
  reply : Option FarReply := none
  /-- the value a compare-and-swap of an atomic loop compares with, once read (R160) -/
  cmp : Option Nat := none
  /-- the host line asked for last (R158) -/
  asked : Option Nat := none
  /-- the zero-length read sent after it (R158) -/
  zr : Option Nat := none
  /-- its operation tag, which rises with the order of the operations (R128, R134) -/
  tag : Nat := 0
  /-- it belongs to a release -/
  rel : Bool := false
  /-- it is to be sent after a lower lane's operation on the same bytes (R160, R317) -/
  held : Bool := false
  deriving DecidableEq, Repr

/-- What a wave waits in (R407, R409). -/
inductive WaitKind where
  | none | bwait | gsync | qpop | ctrwait | far | logmark | cntopen
  deriving DecidableEq, Repr

/-- The wait of a wave: the instruction that waits, with what it needs to complete. -/
structure Waiting where
  kind : WaitKind := .none
  /-- the address waited on, and the byte place it resolved to -/
  ea : W64 := 0
  obj : Option Loc := none
  /-- phase, target value, group, or page -/
  val : W64 := 0
  pc : W64 := 0
  mask : LaneMask := 0
  w : Bool := false
  d : Operand := .zero
  b : Operand := .zero
  lanes : List FarLane := []
  acquire : Bool := false
  deriving DecidableEq, Repr

/-- A posted far operation that failed (R135), with the narrowest scope that covers its target. -/
structure Failed where
  cause : Nat
  detail : Nat
  addr : W64
  scope : Scope
  /-- the tag of its operation -/
  born : Nat
  deriving DecidableEq, Repr

/-- A wave (R173, R187), keyed 32 × workgroup key + wave number. -/
structure Wave where
  live : Bool := false
  wg : Nat := 0
  idx : Nat := 0
  lanes : List Lane := []
  /-- register v of lane l at key 64 v + l (R49) -/
  regs : Tab W32 := []
  /-- FPCTL (R240) -/
  fpctl : W64 := 0
  /-- CHUNKSZ limit for the chunks that begin later (R262) -/
  limit : Nat := 4096
  run : Chunk := {}
  com : Option Chunk := none
  squashes : Nat := 0
  replays : Nat := 0
  trapQ : List TrapEntry := []
  handler : Bool := false
  /-- issue and chunk start state saved at delivery (R400) -/
  savedLanes : List Lane := []
  savedLimit : Nat := 4096
  tcause : W64 := 0
  tfpc : W64 := 0
  tmask : W64 := 0
  tinfo : W64 := 0
  tpc : List W64 := []
  wait : Waiting := {}
  held : Option Cause := none
  /-- a commit in handler mode waits for room in the log and has raised source 2 (R402) -/
  refused : Bool := false
  /-- pod view time (R112) -/
  pv : Nat := 0
  /-- completed GSYNCs and arrival marks, by position in the workgroup's groups (R338) -/
  gDone : List Nat := []
  gArrived : List Bool := []
  posted : List FarLane := []
  failed : List Failed := []
  /-- recorded matrix ownership: 0 none, 1 single, 2 pair (R409) -/
  own : Nat := 0
  /-- engine state saved with it, by part: 0 the even core's, 1 the odd core's (R198, R354) -/
  engs : List (Nat × MatrixRegs) := []
  haltReason : W64 := 0
  haltInfo : W64 := 0
  haltPending : Bool := false
  /-- the lanes of the pending halt (R404, R412, R432) -/
  haltMask : LaneMask := 0
  /-- its halt is not yet in the trace ring (R440) -/
  haltNew : Bool := false
  nchk : Nat := 0
  stickUntil : Nat := 0
  /-- the cycle until which it waits for drowsy banks, and the counters of the sets that have borne that wait (R74) -/
  wakeUntil : Nat := 0
  woke : List W64 := []
  /-- sets that wait for their further store cycles: counter, and the cycle until which (R48) -/
  storing : List (W64 × Nat) := []
  /-- bytes of its threads' private lines, by DPA, as its private-window reads still see them after an alias write (R103) -/
  stale : Tab (Option Byte) := []
  active : Bool := false
  activeAt : Nat := 0
  idleSince : Nat := 0
  /-- trial delays begun: counter of the set and the cycle until which it is held (R456) -/
  trials : List (W64 × Nat) := []
  /-- register words that hold uncorrectable data (R416, R417): register and lanes -/
  bad : List (Nat × LaneMask) := []
  deriving DecidableEq, Repr

/-! ### Workgroups, cores, launches -/

/-- A workgroup, resident or saved (R187). -/
structure Wg where
  live : Bool := false
  launch : Nat := 0
  tenant : Nat := 0
  /-- grid index, or start number in a stage s ≥ 1 (R205) -/
  index : Nat := 0
  stage : Nat := 0
  slotNo : Nat := 0
  core : Nat := 0
  pair : Bool := false
  nwaves : Nat := 0
  threads : Nat := 0
  /-- .regs value; the allocation is 8 × ceil(n / 8) registers (R45) -/
  regs : Nat := 0
  privBase : W64 := 0
  privSize : Nat := 0
  /-- first unit of each wave's registers and stash (R45), by wave -/
  regUnits : List Nat := []
  stashUnits : List Nat := []
  /-- first unit and number of units of the scratchpad, on the even and the odd core -/
  scrUnit : Nat := 0
  scrUnitOdd : Nat := 0
  scrUnits : Nat := 0
  scr : Tab Byte := []
  /-- forked and unfinished writers per line; reserved writer places per line; poison flags (R51, R55). Line = offset / 128,
  bit 16 for the odd core's part -/
  absent : Tab Nat := []
  places : Tab Nat := []
  spoiled : Tab Bool := []
  accBase : Nat := 0
  accCount : Nat := 0
  held : BitVec 128 := 0
  groups : List Nat := []
  /-- arrivals made at each group's object (R338) -/
  gMade : List Nat := []
  /-- containment (R386) -/
  cntOpen : Bool := false
  cntRev : Bool := false
  cntH : W64 := 0
  cntStat : W64 := 0
  placedAt : Nat := 0
  /-- the cycle from which its waves may issue: zero fill and power-up (R47, R75) -/
  readyAt : Nat := 0
  /-- an unwind still to be made, at the end of the cycle or at the restore (R425): the cycle of its error, the wave's number, cause and
  detail -/
  unwindDue : Option (Nat × Nat × Nat × Nat) := none
  saved : Bool := false
  saving : Bool := false
  restoring : Bool := false
  slot : Nat := 0
  /-- the slot of the odd core's part -/
  slotOdd : Nat := 0
  ready : Bool := false
  /-- auditor (R426 to R428) -/
  sig : W64 := 0
  readBytes : Nat := 0
  audited : Bool := false
  replaySig : Option (W64 × Nat × Bool) := none
  deriving DecidableEq, Repr

/-- A 128-byte instruction line (R66, R178). -/
structure ILine where
  tenant : Nat
  va : W64
  words : List W32
  deriving DecidableEq, Repr

/-- A core (R44, R195, R354, R414). -/
structure Core where
  assigned : Bool := false
  tenant : Nat := 0
  /-- assignment waiting for the core to empty (R414) -/
  pending : Option (Bool × Nat) := none
  /-- owner wave of the matrix engine, and the ownership queue with the pair mark (R195, R196) -/
  owner : Option Nat := none
  queue : List (Nat × Bool) := []
  eng : MatrixRegs := {}
  /-- state of a grant that no command of the new owner has reached yet -/
  granted : Option MatrixRegs := none
  /-- the snapshot shadow of R360 -/
  shadow : Tab Byte := []
  /-- accumulator memory: bank b byte k at 2048 b + k (R357) -/
  acc : Tab Byte := []
  /-- accumulator banks with uncorrectable data (R416) -/
  badBanks : List Nat := []
  /-- lines held by its part of the level-1 cache, by key (R65) -/
  l1 : List W64 := []
  icache : List ILine := []
  /-- line fills outstanding: wave, tenant, line (R178) -/
  fills : List (Nat × Nat × W64) := []
  /-- banks of the store, and of the accumulator memory from 48 on: 0 drowsy, n + 1 active and last accessed in cycle n (R73) -/
  banks : Tab Nat := []
  /-- the store is off; the cycle of its last access (R75) -/
  storeOff : Bool := false
  storeUsed : Nat := 0
  /-- it has left the assignment table (R422) -/
  out : Bool := false
  /-- what port 0 was charged last: wave and lane, cause, counter (R440) -/
  port0 : Option (Nat × Nat) × Cause × W64 := (none, .empty, 0)
  /-- charges not yet folded (R225) -/
  charges : List Charge := []
  /-- cycles assigned to the present tenant and not yet added to CORECYC (R226) -/
  cyc : Nat := 0
  deriving DecidableEq, Repr

/-- A sync group of a launch (R192): its barrier object's virtual address and member indices. -/
structure Group where
  bar : W64
  members : List Nat
  deriving DecidableEq, Repr

/-- A stage of a launch (R202) and its output queue (R203, R339): the control line's DPA, closed. -/
structure Stage where
  entry : W64 := 0
  args : W64 := 0
  acc : Nat := 0
  regs : Nat := 0
  waves : Nat := 0
  scr : Nat := 0
  pbase : W64 := 0
  slots : Nat := 0
  priv : Nat := 0
  oq : W64 := 0
  odepth : Nat := 0
  oqDpa : Nat := 0
  closed : Bool := false
  started : Nat := 0
  target : Nat := 0
  /-- workgroups that its last evaluation starts and that are not placed yet (R218) -/
  due : Nat := 0
  deriving DecidableEq, Repr

/-- An admitted launch (R213). -/
structure Launch where
  live : Bool := false
  num : Nat := 0
  tenant : Nat := 0
  queue : Nat := 0
  /-- the eight doublewords of the record (R207) -/
  record : List W64 := []
  nextWg : Nat := 0
  lastCore : Option Nat := none
  /-- cores on which it has had a workgroup (R66) -/
  reached : List Nat := []
  admittedAt : Nat := 0
  groups : List Group := []
  stages : List Stage := []
  aborted : Bool := false
  stopped : Bool := false
  deriving DecidableEq, Repr

/-! ### Tenants -/

/-- The values of the control registers 0x0100 to 0x010C (but those the device keeps) and %tvec (R36, R113, R171, R384). -/
structure Ctx where
  ptRoot : W64 := 0
  rgnBase : W64 := 0
  rankBase : W64 := 0
  rankCount : W64 := 0
  jobRank : W64 := 0
  jobSize : W64 := 1
  jobPrefix : W64 := 0
  podCfg : W64 := 0x0000003F00000000
  psetBase : W64 := 0
  psetCount : W64 := 0
  tvec : W64 := 0
  saveBase : W64 := 0
  saveSlots : W64 := 0
  deriving DecidableEq, Repr

/-- A launch queue (R169, R213). -/
structure LQueue where
  recs : List (List W64) := []
  /-- the order of their arrival among all records (R213) -/
  stamps : List Nat := []
  validated : Bool := false
  en : Bool := false
  bad : Bool := false
  drop : Bool := false
  accepted : Nat := 0
  deriving DecidableEq, Repr

/-- A remote packet (R125 to R129): its header and what follows it, its target and path set, sequence number and entropy value, and when
it was last sent. -/
structure Packet where
  h : PktHdr
  data : List Byte
  rank : Nat
  fabric : BitVec 128
  pset : Nat
  /-- packets of its put (R132) -/
  total : Nat := 1
  /-- engine command and part it belongs to, or 0; then the wave and lane of an ordinary access -/
  cmd : Nat
  part : Nat := 0
  wave : Nat := 0
  lane : Nat := 0
  seq : Nat := 0
  path : Nat := 0
  sentAt : Nat := 0
  deriving DecidableEq, Repr

/-- State of a destination group (R125 to R127). -/
structure PathGroup where
  level : Nat := 0
  sib : Nat := 0
  nextSeq : Nat := 0
  /-- packets that wait for the window (R127) -/
  queue : List Packet := []
  /-- smoothed round-trip time, and the time of the last progress (R125, R127) -/
  srtt : Option Nat := none
  lastProgress : Nat := 0
  window : Nat := 64
  ackedInWindow : Nat := 0
  ptr : Nat := 63
  failedPaths : W64 := 0
  /-- when a path was marked failed (R126) -/
  failedAt : Tab Nat := []
  timeouts : Tab Nat := []
  unacked : List Packet := []
  failed : Bool := false
  deriving DecidableEq, Repr

/-- A lane selector (R430). -/
structure LaneSel where
  lo : W64 := 0
  hi : W64 := 0
  deriving DecidableEq, Repr

/-- A breakpoint or watchpoint entry: bytes 0–7, the filter, bytes 24–31 (R436). -/
structure DebugEntry where
  w0 : W64 := 0
  filter : LaneSel := {}
  w3 : W64 := 0
  deriving DecidableEq, Repr

/-- An operation packet on its way to its home (R88): home slice (0 to 127) or bank arbiter (128 + core). -/
structure OpPacket where
  home : Nat
  ts : Nat
  wave : Nat
  writes : List Write
  closing : Closing
  /-- the write signature of its commit, and the clusters that received it -/
  sig : BitVec 1024
  clusters : List Nat
  deriving DecidableEq, Repr

/-- What a tenant's context was when an entry of its log was written, memory aside (R452 to R454): its waves, workgroups, launches,
commands and cores, the wave whose commit record it is, progress counters, last launch number, save slots in use. -/
structure Past where
  at_ : Nat
  wave : Option Nat := none
  waves : Tab Wave
  wgs : Tab Wg
  launches : Tab Launch
  cmds : List Cmd
  cores : Tab Core
  /-- stamped writes not yet at their homes, and the listed bytes of the save slots in use, by base -/
  packets : List OpPacket
  slots : List (Nat × Memory)
  progcnt : List W64
  lastLaunch : Nat
  slotsUsed : List Nat
  deriving DecidableEq, Repr

/-- A REVCONT that re-executes the first issues of a chunk (R453, R454): its wave, the issues still to come, the input values not yet
taken, and the result and window of the command. -/
structure Reverse where
  wave : Nat
  plan : List (W64 × LaneMask)
  inputs : List (Nat × Nat × Nat)
  result : Nat
  window : Nat
  deriving DecidableEq, Repr

/-- A tenant (R167 to R172) with its debug window (R429). -/
structure Tenant where
  cur : Ctx := {}
  block : Ctx := {}
  /-- what memory held at the last load of the context: the rank, region and path-set tables are read as they stood then (R34) -/
  tables : Memory := []
  loaded : Bool := false
  poisonStat : Nat := 0
  reload : Bool := false
  queues : List LQueue := List.replicate 16 {}
  intMap : W64 := 0
  msix : Tab W64 := []
  msixPending : W64 := 0
  /-- vectors whose interrupts wait for room for their seals in the log (R450) -/
  intWait : List Nat := []
  lastReject : W64 := 0
  faultRec : List W64 := [0, 0, 0, 0]
  acctBase : W64 := 0
  acctBits : W64 := 0
  /-- flush requests so far, those not done with CORECYC at their cuts (R224, R226), and CORECYC but the cores' `cyc` -/
  cuts : Nat := 0
  flushes : List (Nat × Nat) := []
  coreCyc : Nat := 0
  slotsUsed : List Nat := []
  auditCfg : W64 := 0
  auditStat : W64 := 0
  progcnt : List W64 := List.replicate 16 0
  groups : List PathGroup := []
  /-- packets placed at this target, by source rank and sequence number with the error of the answer, and atomic responses kept by
  source rank and operation tag (R129) -/
  placedSeq : List (Nat × Nat × Bool) := []
  atomKept : List (Nat × Nat × BitVec 128 × Bool) := []
  /-- packets placed of puts not yet whole, by source and operation tag (R132) -/
  putParts : List (Nat × Nat × Nat) := []
  podClock : Nat := 0
  lastLaunch : Nat := 0
  dbgStat : W64 := 0
  /-- selection of a HALT in progress (R432) -/
  haltSel : Option LaneSel := none
  lsel : LaneSel := {}
  dbgArg : W64 := 0
  memAddr : W64 := 0
  breaks : List DebugEntry := List.replicate 16 {}
  watches : List DebugEntry := List.replicate 8 {}
  logBase : W64 := 0
  logCtl : W64 := 0
  logHead : Nat := 0
  logTail : Nat := 0
  logWin : Nat := 0
  logOldest : Nat := 0
  /-- index of each kept window's marker (R441), oldest first, with its number -/
  markers : List (Nat × Nat) := []
  commitsInWin : Nat := 0
  windowWanted : Bool := false
  /-- model: indices of undo entries that step 4 of R387 leaves: barrier and counter changes, placements, outside changes -/
  fixedUndo : List Nat := []
  /-- model: the context at each kept entry, newest first; the admissions since the oldest of them: entry, queue, record, arrival -/
  past : List Past := []
  admits : List (Nat × Nat × List W64 × Nat) := []
  reverse : Option Reverse := none
  /-- target of a completed reverse command, until RESUME, and the entries of a chunk replayed in part (R455) -/
  revTarget : Option Nat := none
  revExtra : Option (Past × List (List W64)) := none
  /-- a MARK waits for its window; source 2 has been raised for a window that waits for entries (R450) -/
  marking : Bool := false
  windowFull : Bool := false
  traceBase : W64 := 0
  traceCtl : W64 := 0
  traceHead : Nat := 0
  traceTail : Nat := 0
  traceLost : Nat := 0
  trialLo : W64 := 0
  trialHi : W64 := 0
  trialCtl : W64 := 0
  trialStart : Nat := 0
  trialEnd : Nat := 0
  stopAdmit : Bool := false
  frozen : Bool := false
  /-- module control space, tenant block (R166): memory windows, EXT_RELEASE, pool extents -/
  windows : List (W64 × W64) := List.replicate 16 (0, 0)
  extRelease : W64 := 0
  extents : List (List W64) := List.replicate 64 [0, 0, 0, 0]
  deriving DecidableEq, Repr

/-! ### The rest of the device -/

/-- A translation (R37): the cache that holds it, the page's base and size, target, physical base, permissions, attributes and poison
summary (R39). -/
structure Tlb where
  home : TlbHome
  tenant : Nat
  va : Nat
  size : Nat
  tgt : BitVec 2
  pa : Nat
  r : Bool
  w : Bool
  x : Bool
  coh : Bool
  cnt : Bool
  poison : Bool
  deriving DecidableEq, Repr

/-- A page-table entry of level 1 to 3 in the page-walk cache of a half (R37): the address bits that it was read for. -/
structure WalkEntry where
  half : Nat
  tenant : Nat
  level : Nat
  unit : Nat
  entry : W64
  deriving DecidableEq, Repr

/-- What a pod request asks of the home (R115 to R117, R372). -/
inductive PodWork where
  | read
  | own
  | home (work : PodOp)
  deriving DecidableEq, Repr

/-- Directory entry of a pod line, by line of device memory (R114). -/
structure DirEntry where
  present : Bool := false
  /-- the tenant whose region the line lies in, and its pod clock (R112) -/
  tenant : Nat := 0
  wts : Nat := 0
  lend : Nat := 0
  owner : Option Nat := none
  /-- the line as its requesters name it -/
  name : PodLine := { rank := 0, region := 0, line := 0 }
  /-- a recall has been sent and not answered -/
  recalling : Bool := false
  /-- requests not yet served, oldest first (R119), and a line returned by its owner that waits for room in the log (R450) -/
  waiting : List (PodReq × PodWork) := []
  back : Option PodRsp := none
  deriving DecidableEq, Repr

/-- A pod line held by this device: a leased copy or an owned line (R115, R116). -/
structure PodCopy where
  tenant : Nat
  line : PodLine
  data : List Byte
  wts : Nat
  lend : Nat
  owned : Bool
  deriving DecidableEq, Repr

/-- A key slot of one direction of a sealed link (R140 to R143). -/
structure KeySlot where
  salt : W32 := 0
  key : BitVec 256 := 0
  loaded : Bool := false
  active : Bool := false
  /-- transmit: next counter; receive: one above the last accepted counter -/
  ctr : Nat := 0
  deriving DecidableEq, Repr

/-- A sealed UALink link (R140 to R144). -/
structure Link where
  tx0 : KeySlot := {}
  tx1 : KeySlot := {}
  rx0 : KeySlot := {}
  rx1 : KeySlot := {}
  txSlot : Bool := false
  txStopped : Bool := false
  /-- security firmware has been asked for a key of the idle slot (R142) -/
  asked : Bool := false
  nextSeq : BitVec 16 := 0
  /-- payloads not yet acknowledged, and those of them that wait for a key -/
  unacked : List (BitVec 16 × List Byte) := []
  unsent : List (BitVec 16 × List Byte) := []
  /-- the slot opened by a switch-over, until the first flit accepted under it (R143) -/
  rxNew : Option Bool := none
  expect : BitVec 16 := 0
  heldPay : List (BitVec 16 × List Byte) := []
  bad : Nat := 0
  /-- replays in a row after CRC errors (R416) -/
  replays : Nat := 0
  down : Bool := false
  deriving DecidableEq, Repr

/-- A 64-byte host line in a host-line cache (R156, R158, R159), owned or shared. -/
structure HostLine where
  addr : Nat
  data : List Byte
  dirty : Bool
  owned : Bool := true
  deriving DecidableEq, Repr

/-- A bias flip in progress (R153, R154): the commands that were moving bytes of the page; once its back-invalidations are sent, those not
yet answered. -/
structure Flip where
  page : Nat
  toHost : Bool
  wave : Nat
  movers : List Nat := []
  asked : Bool := false
  left : Nat := 0
  deriving DecidableEq, Repr

/-- A step of the device itself on an object at its home: of a barrier object (R59, R62, R192), of a completion counter (R132) with its
bytes and operations, on a fault cell (R208), or bytes put there. -/
inductive HomeOp where
  | start (n : Nat)
  | arrive
  | expect (n : Int)
  | fail (n : Nat)
  | broken
  | count (bytes ops : Nat)
  | countFail (bytes ops ecause edetail : Nat)
  | cell (tenant cause detail wg : Nat) (info : W64)
  | put (bs : List Byte)
  deriving DecidableEq, Repr

/-- What an arriving packet does at this target (R129). -/
inductive ArrWork where
  | put (total : Nat)
  | get
  | atomic (op : AtomOp) (l : Width) (x y : BitVec 128)
  deriving DecidableEq, Repr

/-- An arrived packet in work (R129, R133): the pieces still to be placed or read, by number, whether its counter step is still to come, the
error and poison of its answer, and what has been read. -/
structure Arrival where
  id : Nat
  tenant : Nat
  h : PktHdr
  seq : Nat
  work : ArrWork
  left : List (Nat × List Loc × List Byte)
  uncounted : Bool
  err : Bool := false
  pois : Bool := false
  got : List (Nat × List Byte) := []
  deriving DecidableEq, Repr

/-- Attributes of a request at the host port: Relaxed Ordering, ID-Based Ordering (R158), and the requester's port-based-routing
identifier (R163). -/
structure PortAttr where
  relaxed : Bool
  idBased : Bool
  source : Nat
  deriving DecidableEq, Repr

/-- A host access to device memory that waits for a locked or recalled line, or for room in a log (R118, R149, R450): the bytes
written, with their poison mark, or none for a read. -/
structure HostReq where
  dpa : Nat
  len : Nat
  write : Option (List Byte × Bool)
  /-- it comes through a tenant's memory aperture (R434) -/
  aperture : Bool := false
  deriving DecidableEq, Repr

/-- What the device sends outside (model, log entry 4). -/
inductive Out where
  | interrupt (fn vector : Nat)
  | moduleInterrupt
  | far (wave lane : Nat) (target : FarTarget) (op : FarOp) (release : Bool) (pv pc : Nat) (attr : PortAttr)
  /-- to the host, or to a pool device -/
  | zeroRead (id : Nat) (dest : Option Nat) (attr : PortAttr)
  | podRead (tenant : Nat) (line : PodLine) (pv pc : Nat)
  | podReply (kind : Nat) (dst : Nat) (rsp : PodRsp)
  | recall (dst tenant : Nat) (line : PodLine) (pc : Nat)
  | keepalive
  | packet (tenant seq path : Nat) (fabric : BitVec 128) (total : Nat) (h : PktHdr) (data : List Byte)
  | response (tenant dst seq : Nat) (h : PktHdr) (data : List Byte)
  /-- `pod`: over UALink -/
  | launchRecord (rank queue : Nat) (rec : List W64) (tag : Nat) (pod : Bool)
  | launchReply (rank code : Nat) (pod : Bool)
  | copyFar (cmd part : Nat) (target : FarTarget) (data : List Byte) (pois read : Bool) (len : Nat) (ctr : W64) (total pc : Nat) (attr : PortAttr)
  | copyLine (cmd part pa : Nat) (own : Bool)
  | snoopAnswer (addr : Nat) (hit : Bool)
  | copyZero (cmd : Nat) (dest : Option Nat) (attr : PortAttr)
  | copyAtomic (cmd : Nat) (target : FarTarget) (op : AtomOp) (width : Nat) (x y : BitVec 128) (ctr : W64) (pc : Nat) (attr : PortAttr)
  /-- a sealed flit (R141): header, IV, the payload under the seal, tag -/
  | flit (link : Nat) (header : W64) (iv : BitVec 96) (payload : List Byte) (tag : BitVec 128)
  | securityAlert (link : Nat)
  | keyRequest (link : Nat)
  | hostData (data : List Byte) (pois : Bool)
  | dmwrStatus (ok : Bool)
  | completerAbort (rid : Nat)
  | backInval (line : Nat) (inv : Bool)
  | hostWriteback (addr : Nat) (data : List Byte)
  | fabricLoss (tenant owner : Nat)
  | extentDone (tenant entry : Nat)
  | aperture (data : List Byte)
  | delivered (link : Nat) (payload : List Byte)
  deriving DecidableEq, Repr

/-- An issue set (R175, R220): wave, counter, lanes, the word fetched for it, and what holds it, once known (R222). -/
structure Slot where
  wave : Nat := 0
  pc : W64 := 0
  mask : LaneMask := 0
  word : W32 := 0
  cause : Option Cause := none
  deriving DecidableEq, Repr

/-- The whole device. -/
structure State where
  mem : Memory
  waves : Tab Wave
  wgs : Tab Wg
  cores : Tab Core
  launches : Tab Launch
  tenants : Tab Tenant
  cmds : List Cmd
  /-- commit order (R87, R92) -/
  lastTs : Nat
  packets : List OpPacket
  resHolder : Option Nat
  resQueue : List Nat
  tlb : List Tlb
  walkCache : List WalkEntry
  /-- gathered line requests by 64 KiB granule: reads, writes, remote (R43) -/
  counts : Tab (Nat × Nat × Nat)
  dir : Tab DirEntry
  copies : List PodCopy
  links : Tab Link
  hostLines : List HostLine
  /-- 64-byte lines the host may hold (R151), oldest first, and device accesses waiting on back-invalidation -/
  snoop : List Nat
  /-- the line, whether BISnpInv, whether for a flip -/
  invWaits : List (Nat × Bool × Bool)
  /-- 64-byte lines of host-bias pages whose back-invalidation, for a write or not, is answered and whose device access is still to come
  (R151) -/
  invDone : List (Nat × Bool)
  hostQueue : List HostReq
  flips : List Flip
  /-- host physical base of the HDM range (R148), and the device's own port-based-routing identifier (R163) -/
  hdmBase : Nat
  pbr : Nat
  /-- steps of the device at homes whose lines are not to be had yet (R118, R151), oldest first -/
  homeSteps : List (Loc × HomeOp)
  /-- arrived packets in work (R129, R133) -/
  arrivals : List Arrival
  /-- when each pod peer last renewed its ownerships (R121), and recalls that wait for this device's own store (R119) -/
  renewed : Tab Nat
  recalls : List PodReq
  /-- time base in units of 1/756 ns (R392, R490), device cycle, operating point, clock lock -/
  time : Nat
  cycle : Nat
  point : Nat
  softPoint : Nat
  clockLock : Option (Nat × Nat)
  calmWindows : Nat
  /-- module control space (R166) -/
  errBase : W64
  errN : W64
  errHead : Nat
  errTail : Nat
  errDropped : Nat
  /-- records of units that the self-test of reset mapped out, until the error ring is configured (R485): UTYPE, core, unit -/
  errWaiting : List (Nat × Nat × Nat)
  clears : List W64
  powerCap : W64
  pcap : Nat
  poisonBase : W64
  biasBase : W64
  accessBase : W64
  clkPermit : W64
  identities : List (W64 × W64)
  /-- units in quarantine and units mapped out: UTYPE, core or slice, unit (R421, R423), and whether a spare has taken the work;
  spare cores of each half (R422) -/
  quarantine : List (Nat × Nat × Nat × Bool)
  mappedOut : List (Nat × Nat × Nat)
  spareCores : List Nat
  /-- provisioning and discovery (R487, R489) -/
  scopeCfg : W64
  resv : Nat
  accel : Nat
  cxl : Bool
  recovery : Bool
  /-- model: the cycle of a core that is under way: sets still to be tried, free ports, sets that have not issued in key order, waves
  that have, and the core -/
  issue : List Slot
  ports : Nat
  offered : List Slot
  issuedBy : List Nat
  cycleOf : Option Nat
  /-- model: once the ports of that cycle are held, the sets offered in path switches with those whose lines miss (R178); flush requests
  of its tenant before the cycle (R226) -/
  switched : Option (List (Slot × Slot))
  cycleCut : Nat
  /-- model: halves that have placed a workgroup in this cycle (R215) -/
  halves : List Nat
  /-- model: device events due, messages sent, next core, current issue set -/
  agenda : List Instr
  outbox : List Out
  /-- model: messages of the outbox already carried to the links (R140) -/
  packed : Nat
  pick : Nat
  cur : Slot
  fresh : Nat
  nextId : Nat
  /-- status words of LAUNCH.rank records not yet answered, by the tag the record carries (R379) -/
  launchTags : List (Nat × Loc)
  deriving DecidableEq, Repr

/-- The device at the end of the reset sequence (R486), before any software has run: no core assigned, no tenant loaded, page
bias and poison clear, point 0, time zero. Values the spec does not give are those of log entries 2 and 3. -/
def State.reset : State where
  mem := []
  waves := []
  wgs := []
  cores := []
  launches := []
  tenants := []
  cmds := []
  lastTs := 0
  packets := []
  resHolder := none
  resQueue := []
  tlb := []
  walkCache := []
  counts := []
  dir := []
  copies := []
  links := []
  hostLines := []
  snoop := []
  invWaits := []
  invDone := []
  hostQueue := []
  flips := []
  hdmBase := 0
  pbr := 0
  homeSteps := []
  arrivals := []
  renewed := []
  recalls := []
  time := 0
  cycle := 0
  point := 0
  softPoint := 0
  clockLock := none
  calmWindows := 0
  errBase := 0
  errN := 0
  errHead := 0
  errTail := 0
  errDropped := 0
  errWaiting := []
  clears := []
  powerCap := 2200
  pcap := 2200
  poisonBase := 0
  biasBase := 0
  accessBase := 0
  clkPermit := 0
  identities := (0x8000000000000000, 0x000FFFFFFFE00000) :: List.replicate 15 (0, 0)
  quarantine := []
  mappedOut := []
  spareCores := [4, 4]
  scopeCfg := 1
  resv := 0
  accel := 0
  cxl := true
  recovery := false
  issue := []
  ports := 0
  offered := []
  issuedBy := []
  cycleOf := none
  switched := none
  cycleCut := 0
  halves := []
  agenda := []
  outbox := []
  packed := 0
  pick := 0
  cur := {}
  fresh := 0
  nextId := 1
  launchTags := []

/-- Why the machine could stop. No meaning raises either reason: every error of this device is a trap, a record or an event
(R93, R350, R405), so these stand for the interface alone. -/
inductive Fault where
  /-- raised by no meaning; safe -/
  | none
  deriving DecidableEq, Repr

/-- Why an instruction has no meaning. -/
inductive Refusal where
  /-- raised by a refused arm of exec alone; safe -/
  | notModelled (mnemonic : String)
  deriving DecidableEq, Repr

end Sys2Proof.Machine
end

