-- ==== Sys2Proof/Machine/Tab.lean ====
section
/-!
DEFINITION. Operations on the sparse tables that hold memory, registers and every indexed store, and on runs of bytes. An entry
equal to the table's default is never listed, so equal contents are equal tables.
-/

namespace Sys2Proof

/-- The value at a key; `d` where nothing is listed. -/
def Tab.get {α : Type} (d : α) : Tab α → Nat → α
  | [], _ => d
  | (j, x) :: t, k => if j = k then x else Tab.get d t k

/-- The table without a key. -/
def Tab.drop {α : Type} (t : Tab α) (k : Nat) : Tab α := t.filter (·.1 != k)

/-- The table with `v` at key `k`; of a table in canonical form, in canonical form. -/
def Tab.put {α : Type} [DecidableEq α] (d : α) : Tab α → Nat → α → Tab α
  | [], k, v => if v = d then [] else [(k, v)]
  | (j, x) :: t, k, v =>
    if k < j then if v = d then (j, x) :: Tab.drop t k else (k, v) :: (j, x) :: t
    else if k = j then if v = d then Tab.drop t k else (k, v) :: t
    else (j, x) :: Tab.put d t k v

/-- Canonical form: keys strictly rising, all above `lo`, no default listed. -/
def Tab.wfFrom {α : Type} [DecidableEq α] (d : α) : Option Nat → Tab α → Bool
  | _, [] => true
  | lo, (k, v) :: t => (lo.all (· < k)) && decide (v ≠ d) && Tab.wfFrom d (some k) t
def Tab.wf {α : Type} [DecidableEq α] (d : α) (t : Tab α) : Bool := Tab.wfFrom d none t

/-- The entries of a table whose value passes a test. -/
def Tab.keys {α : Type} (t : Tab α) : List Nat := t.map (·.1)

/-- Bytes `a` to `a + n - 1` of a byte table, and a run of bytes stored at `a`. -/
def Tab.bytes (t : Tab Byte) (a n : Nat) : List Byte := (List.range n).map fun i => Tab.get 0 t (a + i)
def Tab.store (t : Tab Byte) (a : Nat) : List Byte → Tab Byte
  | [] => t
  | b :: bs => Tab.store (Tab.put 0 t a b) (a + 1) bs

/-- The little-endian value of a run of bytes, and the `n` bytes of a value. -/
def leNat : List Byte → Nat
  | [] => 0
  | b :: bs => b.toNat + 256 * leNat bs
def leBytes : Nat → Nat → List Byte
  | 0, _ => []
  | n + 1, v => BitVec.ofNat 8 v :: leBytes n (v / 256)

def le32 (bs : List Byte) : W32 := BitVec.ofNat 32 (leNat bs)
def le64 (bs : List Byte) : W64 := BitVec.ofNat 64 (leNat bs)
def bytes32 (v : W32) : List Byte := leBytes 4 v.toNat
def bytes64 (v : W64) : List Byte := leBytes 8 v.toNat

/-- A list in the order of a test. -/
def sorted {α : Type} (before : α → α → Bool) (xs : List α) : List α :=
  xs.foldr (fun x ys => ys.takeWhile (fun y => !before x y) ++ x :: ys.dropWhile (fun y => !before x y)) []

/-- The lanes of a mask in increasing order, the leading one, and the mask of a list of lanes. -/
def lanesOf (m : LaneMask) : List Nat := (List.range 64).filter fun l => m.getLsbD l
def leading (m : LaneMask) : Nat := (lanesOf m).headD 0
def maskOf (ls : List Nat) : LaneMask := ls.foldl (fun m l => m ||| (1#64 <<< l)) 0

/-- Bits [hi:lo] of a word as a number. -/
def bits {w : Nat} (x : BitVec w) (hi lo : Nat) : Nat := (x.toNat >>> lo) % 2 ^ (hi - lo + 1)

end Sys2Proof
end

