-- ==== Sys2Proof/Machine/Units.lean ====
section
/-!
DEFINITION. What each encoded instruction names: its operand uses (R255 to R269, with the alignments, groups and codes that
R259 lets each field name), the modifiers its row accepts (R262, R266), where it stands in its chunk (R78), and whether handler
mode refuses it (R292, R344, R393).
-/

namespace Sys2Proof

/-- Which operand codes a field may name (R256, R259). -/
inductive Allow where
  | any | vec | vecOrZero
  deriving DecidableEq, Repr

/-- One operand use: the code, the registers it spans, the multiple it starts at, the codes it may name, whether it is read,
and how many of its registers are written. -/
structure Use where
  op : Operand
  n : Nat
  align : Nat
  allow : Allow
  reads : Bool
  writes : Nat
  deriving DecidableEq, Repr

/-- Registers of an element of each form (R265). -/
def IForm.regs : IForm → Nat
  | .w64 => 2
  | _ => 1
def FForm.regs : FForm → Nat
  | .f64 => 2
  | _ => 1
def FFmt.regs : FFmt → Nat
  | .f64 => 2
  | _ => 1
def IFmt.regs : IFmt → Nat
  | .s64 | .w64 => 2
  | _ => 1
def SumForm.regs : SumForm → Nat
  | .b64 | .f64 => 2
  | _ => 1
def VoteForm.regs : VoteForm → Nat
  | .ballot => 2
  | _ => 1
/-- Registers and bytes of a memory width (R268). -/
def Width.regs : Width → Nat
  | .b8 => 2
  | .b16 => 4
  | _ => 1
def Width.bytes : Width → Nat
  | .b1 => 1
  | .b2 => 2
  | .b4 => 4
  | .b8 => 8
  | .b16 => 16

/-- A field that is only read. -/
def Use.rd (o : Operand) (n : Nat) : Use := ⟨o, n, n, .any, true, 0⟩
/-- The target of JMP and JMPL: an even register or zero (R289). -/
def Use.rdz (o : Operand) (n : Nat) : Use := ⟨o, n, n, .vecOrZero, true, 0⟩
/-- A result field: written when W = 1, and then a vector register (R256). -/
def Use.wr (w : Bool) (o : Operand) (n : Nat) : Use := ⟨o, n, n, if w then .vec else .any, false, if w then n else 0⟩
/-- A field read, and written when W = 1 (d* of R265), `wn` of its registers. -/
def Use.rw (w : Bool) (o : Operand) (n wn : Nat) : Use := ⟨o, n, n, if w then .vec else .any, true, if w then wn else 0⟩
/-- The D field of a load names a vector register whatever W holds (R319). -/
def Use.ldD (w : Bool) (o : Operand) (n : Nat) : Use := ⟨o, n, n, .vec, false, if w then n else 0⟩
/-- Store data; a quad names vector registers or zero (R258). -/
def Use.stD (o : Operand) (n : Nat) : Use := ⟨o, n, n, if n = 4 then .vecOrZero else .any, true, 0⟩
/-- A register group of an E-format row (R259, R346). -/
def Use.grp (v : VReg) (n : Nat) : Use := ⟨.v v, n, n, .vec, true, 0⟩
/-- The entry group of QPUSH (R340) and of QPOP, written whatever W holds (R341). -/
def Use.grpz (o : Operand) (n : Nat) : Use := ⟨o, n, n, .vecOrZero, true, 0⟩
def Use.wgrp (o : Operand) (n : Nat) : Use := ⟨o, n, n, .vec, false, n⟩
/-- The link register v118 of a B-format link form (R270, R288). -/
def Use.link : Use := ⟨.v 118, 1, 1, .vec, false, 1⟩

open Use in
/-- The operand uses of an instruction. -/
def Instr.units : Instr → List Use
  | .call _ => [link]
  | .bz a _ | .bnz a _ => [rd a 1]
  | .bzl a _ | .bnzl a _ => [link, rd a 1]
  | .jmp a => [rdz a 2]
  | .jmpl d a => [wr true d 1, rdz a 2]
  | .ret a => [rd a 1]
  | .csrr w d _ | .clkq w d => [wr w d 2]
  | .csrw a _ | .cntopen a _ | .tlbinv a | .biasflipHost a | .biasflipDev a => [rd a 2]
  | .logmark w d | .stagex w d | .gsync w d _ | .aballoc w d _ | .rankq w d _ => [wr w d 1]
  | .abfree d _ => [rd d 1]
  | .iadd w d a b f | .isub w d a b f | .imul w d a b f | .imulhS w d a b f | .imulhW w d a b f | .and w d a b f
  | .or w d a b f | .xor w d a b f | .andn w d a b f | .shl w d a b f | .shr w d a b f | .sar w d a b f
  | .rotl w d a b f | .bfeW w d a b f | .bfeS w d a b f | .icmpeq w d a b f | .icmpne w d a b f | .icmpltS w d a b f
  | .icmpltW w d a b f | .icmpleS w d a b f | .icmpleW w d a b f | .iminS w d a b f | .iminW w d a b f
  | .imaxS w d a b f | .imaxW w d a b f | .fadd w d a b f | .fsub w d a b f | .fmul w d a b f | .fmin w d a b f
  | .fmax w d a b f | .fcmpeq w d a b f | .fcmpne w d a b f | .fcmplt w d a b f | .fcmple w d a b f
  | .fcmpun w d a b f | .fldexp w d a b f => [wr w d f.regs, rd a f.regs, rd b f.regs]
  | .imad w d a b f | .bfi w d a b f | .sel w d a b f | .ffma w d a b f | .ffms w d a b f | .fnma w d a b f =>
      [rw w d f.regs f.regs, rd a f.regs, rd b f.regs]
  | .iaddI w d a _ f | .imulI w d a _ f | .andI w d a _ f | .orI w d a _ f | .xorI w d a _ f | .shlI w d a _ f
  | .shrI w d a _ f | .sarI w d a _ f | .rotlI w d a _ f | .popc w d a f | .clz w d a f | .brev w d a f
  | .fneg w d a f | .fabs w d a f | .frcp w d a f | .frsq w d a f | .fsqrt w d a f | .fexp2 w d a f | .flog2 w d a f
  | .fsinpi w d a f | .fcospi w d a f | .frint w d a f | .fclass w d a f | .wadd w d a f | .wscan w d a f =>
      [wr w d f.regs, rd a f.regs]
  | .perm w d a b | .dot2 w d a b _ | .dot4 w d a b _ | .dot8 w d a b _ | .idot4 w d a b _ =>
      [rw w d 1 1, rd a 1, rd b 1]
  | .dot4x w d a b _ | .dot8x w d a b _ => [rw w d 2 1, rd a 1, rd b 1]
  | .gaddr w d a b => [wr w d 2, rd a 1, rd b 1]
  | .shfl w d a b | .cvtSr w d a b _ => [wr w d 1, rd a 1, rd b 1]
  | .shflup w d a _ | .shfldn w d a _ | .shflx w d a _ | .bcast w d a _ | .wmin w d a _ | .wmax w d a _ =>
      [wr w d 1, rd a 1]
  | .matchEq w d a => [wr w d 2, rd a 1]
  | .vote w d a f => [wr w d f.regs, rd a 1]
  | .cvtFf w d a t u | .cvtFi w d a t u | .cvtIf w d a t u => [wr w d t.regs, rd a u.regs]
  | .ld w d a _ l _ | .ldSigned w d a _ l _ | .ldAcq w d a _ l _ => [ldD w d l.regs, rd a 2]
  | .st d a _ l _ | .stRel d a _ l _ => [stD d l.regs, rd a 2]
  | .pref a _ _ _ => [rd a 2]
  | .aadd d a _ l _ | .aaddF d a _ l _ | .aminS d a _ l _ | .aminW d a _ l _ | .amaxS d a _ l _ | .amaxW d a _ l _
  | .aand d a _ l _ | .aor d a _ l _ | .axor d a _ l _ | .axchg d a _ l _ => [rw true d l.regs l.regs, rd a 2]
  | .acas d a _ l _ => [rw true d (2 * l.regs) l.regs, rd a 2]
  | .redAdd d a _ l _ | .redAddF d a _ l _ | .redMinS d a _ l _ | .redMinW d a _ l _ | .redMaxS d a _ l _
  | .redMaxW d a _ l _ | .redAnd d a _ l _ | .redOr d a _ l _ | .redXor d a _ l _ => [rd d l.regs, rd a 2]
  | .binit a b | .bexp a b => [rd a 2, rd b 1]
  | .barr a => [rd a 2]
  | .bwait w d a b | .btest w d a b => [wr w d 1, rd a 2, rd b 1]
  | .ctrset a b | .ctrwait a b => [rd a 2, rd b 2]
  | .qpush w d a b => [wr w d 1, rd a 2, grpz b 16]
  | .qpop w d a b => [wr w d 1, rd a 2, wgrp b 16]
  | .acopy c a b _ | .acopySys c a b _ | .acopyNear c a b _ | .acopyPod c a b _ => [grp c 2, grp a 2, grp b 4]
  | .afill c a b _ => [grp c 2, grp a 1, grp b 4]
  | .agath c a b _ | .ascat c a b _ | .acopy2d c a b _ | .putr c a b _ | .getr c a b _ | .atomr c a b _ =>
      [grp c 2, grp a 2, grp b 8]
  | .mgath _ c a b => [grp c 1, grp a 2, grp b 1]
  | .mmaF16 _ c a b _ | .mmaFp8 _ c a b _ | .mmaInt8 _ c a b _ | .mmaFp8Fp4 _ c a b _ | .mmaFp4 _ c a b _
  | .mmaFp6 _ c a b _ | .mdrain _ c a b _ => [grp c 1, grp a 2, grp b 2]
  | .mscale _ c _ | .mzero _ c => [grp c 1]
  | .msnap _ c a => [grp c 1, grp a 1]
  | .launch c a b | .launchRank c a b => [grp c 1, grp a 2, grp b 2]
  | _ => []

/-- Rows whose Mod column lists r, or whose note says that RM is ignored (R262, R325). -/
def Instr.acceptsRm : Instr → Bool
  | .fadd _ _ _ _ _ | .fsub _ _ _ _ _ | .fmul _ _ _ _ _ | .ffma _ _ _ _ _ | .ffms _ _ _ _ _ | .fnma _ _ _ _ _
  | .frcp _ _ _ _ | .frsq _ _ _ _ | .fsqrt _ _ _ _ | .fexp2 _ _ _ _ | .flog2 _ _ _ _ | .fsinpi _ _ _ _
  | .fcospi _ _ _ _ | .frint _ _ _ _ | .fldexp _ _ _ _ _ | .cvtFf _ _ _ _ _ | .cvtFi _ _ _ _ _ | .cvtIf _ _ _ _ _
  | .dot2 _ _ _ _ _ | .dot4 _ _ _ _ _ | .dot8 _ _ _ _ _ | .dot4x _ _ _ _ _ | .dot8x _ _ _ _ _ | .aaddF _ _ _ _ _
  | .redAddF _ _ _ _ _ | .mmaF16 _ _ _ _ _ | .mmaFp8 _ _ _ _ _ | .mmaFp8Fp4 _ _ _ _ _ | .mmaFp4 _ _ _ _ _
  | .mmaFp6 _ _ _ _ _ | .mdrain _ _ _ _ _ => true
  | _ => false

/-- Rows whose Mod column lists s. -/
def Instr.acceptsSat : Instr → Bool
  | .iadd _ _ _ _ _ | .iaddI _ _ _ _ _ | .isub _ _ _ _ _ | .imul _ _ _ _ _ | .imulI _ _ _ _ _ | .imad _ _ _ _ _
  | .fadd _ _ _ _ _ | .fsub _ _ _ _ _ | .fmul _ _ _ _ _ | .ffma _ _ _ _ _ | .ffms _ _ _ _ _ | .fnma _ _ _ _ _
  | .frcp _ _ _ _ | .frsq _ _ _ _ | .fsqrt _ _ _ _ | .fexp2 _ _ _ _ | .flog2 _ _ _ _ | .fsinpi _ _ _ _
  | .fcospi _ _ _ _ | .fldexp _ _ _ _ _ | .cvtFf _ _ _ _ _ | .cvtIf _ _ _ _ _ | .cvtSr _ _ _ _ _ | .dot2 _ _ _ _ _
  | .dot4 _ _ _ _ _ | .dot8 _ _ _ _ _ | .dot4x _ _ _ _ _ | .dot8x _ _ _ _ _ | .idot4 _ _ _ _ _ | .mmaF16 _ _ _ _ _
  | .mmaFp8 _ _ _ _ _ | .mmaInt8 _ _ _ _ _ | .mmaFp8Fp4 _ _ _ _ _ | .mmaFp4 _ _ _ _ _ | .mmaFp6 _ _ _ _ _
  | .mdrain _ _ _ _ _ => true
  | _ => false

/-- Where an instruction stands in its chunk (R78): inside one, its last instruction, or a chunk of its own. Memory rows are
decided when their address is known (R97, R327). -/
inductive Place where
  | inside | last | own
  deriving DecidableEq, Repr

/-- The place of each instruction. -/
def Instr.place : Instr → Place
  | .binit _ _ | .barr _ | .bexp _ _ | .qpush _ _ _ _ | .ctrset _ _ | .acopy _ _ _ _ | .agath _ _ _ _ | .ascat _ _ _ _
  | .afill _ _ _ _ | .acopy2d _ _ _ _ | .acopySys _ _ _ _ | .acopyNear _ _ _ _ | .acopyPod _ _ _ _ | .mgath _ _ _ _
  | .mmaF16 _ _ _ _ _ | .mmaFp8 _ _ _ _ _ | .mmaInt8 _ _ _ _ _ | .mmaFp8Fp4 _ _ _ _ _ | .mmaFp4 _ _ _ _ _
  | .mmaFp6 _ _ _ _ _ | .mscale _ _ _ | .mzero _ _ | .mdrain _ _ _ _ _ | .msnap _ _ _ | .putr _ _ _ _ | .getr _ _ _ _
  | .atomr _ _ _ _ => .last
  | .exit | .trap _ | .tret | .csrw _ _ | .cntopen _ _ | .cntclose | .tlbinv _ | .tlbinvAll | .biasflipHost _
  | .biasflipDev _ | .logmark _ _ | .bwait _ _ _ _ | .gsync _ _ _ | .qpop _ _ _ _ | .ctrwait _ _ | .macq | .macqPair
  | .mrel | .aballoc _ _ _ | .abfree _ _ | .launch _ _ _ | .launchRank _ _ _ | .stagex _ _ => .own
  | _ => .inside

/-- Instructions that issue alone in their cycle (R176): those that R78 makes the last of their chunk or a chunk of their own, and
CHUNK (R291). Of the memory rows, atomics and RED always; the others where their addresses are far. -/
def Instr.issuesAlone : Instr → Bool
  | .chunk
  | .aadd _ _ _ _ _ | .aaddF _ _ _ _ _ | .aminS _ _ _ _ _ | .aminW _ _ _ _ _ | .amaxS _ _ _ _ _ | .amaxW _ _ _ _ _
  | .aand _ _ _ _ _ | .aor _ _ _ _ _ | .axor _ _ _ _ _ | .axchg _ _ _ _ _ | .acas _ _ _ _ _
  | .redAdd _ _ _ _ _ | .redAddF _ _ _ _ _ | .redMinS _ _ _ _ _ | .redMinW _ _ _ _ _ | .redMaxS _ _ _ _ _
  | .redMaxW _ _ _ _ _ | .redAnd _ _ _ _ _ | .redOr _ _ _ _ _ | .redXor _ _ _ _ _ => true
  | i => i.place != .inside

/-- Instructions that raise ILLEGAL_INSTR 0x07 in handler mode. -/
def Instr.notInHandler : Instr → Bool
  | .exit | .bwait _ _ _ _ | .gsync _ _ _ | .qpop _ _ _ _ | .trap _ | .ctrwait _ _ | .cntopen _ _ | .cntclose
  | .launch _ _ _ | .launchRank _ _ _ | .mgath _ _ _ _ | .mmaF16 _ _ _ _ _ | .mmaFp8 _ _ _ _ _ | .mmaInt8 _ _ _ _ _
  | .mmaFp8Fp4 _ _ _ _ _ | .mmaFp4 _ _ _ _ _ | .mmaFp6 _ _ _ _ _ | .mscale _ _ _ | .mzero _ _ | .mdrain _ _ _ _ _
  | .msnap _ _ _ => true
  | _ => false

/-- The field of a use names a code it may name (check 4 of R264). -/
def Use.named (u : Use) : Bool :=
  match u.allow, u.op with
  | .any, _ => true
  | .vec, .v _ => true
  | .vecOrZero, .v _ => true
  | .vecOrZero, .zero => true
  | _, _ => false

/-- A pair, quad or group starts at its multiple (check 5 of R264). -/
def Use.aligned (u : Use) : Bool :=
  match u.op with
  | .v n => n.val % u.align = 0
  | _ => true

/-- The registers of a use lie below `alloc` (check 6 of R264). -/
def Use.within (alloc : Nat) (u : Use) : Bool :=
  match u.op with
  | .v n => n.val + u.n ≤ alloc
  | _ => true

/-- Whether some field names the pending immediate (R260). -/
def Instr.namesImm (i : Instr) : Bool := i.units.any fun u => u.op == .imm

/-- The vector registers an instruction writes, and those it reads (R81). -/
def Instr.written (i : Instr) : List Nat :=
  i.units.flatMap fun u => match u.op with
    | .v n => List.range' n.val u.writes
    | _ => []
def Instr.readRegs (i : Instr) : List Nat :=
  i.units.flatMap fun u => match u.op with
    | .v n => if u.reads then List.range' n.val u.n else []
    | _ => []

end Sys2Proof
end

