-- ==== Sys2Proof/Machine/Access.lean ====
section
/-!
DEFINITION. Access to the parts of the device: waves, workgroups, cores, launches and tenants by key; bytes by place; messages and
events; registers and rows; signatures (R82 to R85); slot charges (R221 to R223).
-/

namespace Sys2Proof.Machine

/-- The canonical form of memory: addresses strictly rising, no zero byte listed. -/
def Memory.wf (m : Memory) : Bool := Tab.wf (0 : Byte) m

/-! ### The indexed parts -/

def State.wave (s : State) (k : Nat) : Wave := Tab.get {} s.waves k
def State.setWave (s : State) (k : Nat) (w : Wave) : State := { s with waves := Tab.put {} s.waves k w }
def State.modWave (s : State) (k : Nat) (f : Wave → Wave) : State := s.setWave k (f (s.wave k))
def State.wg (s : State) (g : Nat) : Wg := Tab.get {} s.wgs g
def State.setWg (s : State) (g : Nat) (x : Wg) : State := { s with wgs := Tab.put {} s.wgs g x }
def State.modWg (s : State) (g : Nat) (f : Wg → Wg) : State := s.setWg g (f (s.wg g))
def State.core (s : State) (c : Nat) : Core := Tab.get {} s.cores c
def State.setCore (s : State) (c : Nat) (x : Core) : State := { s with cores := Tab.put {} s.cores c x }
def State.modCore (s : State) (c : Nat) (f : Core → Core) : State := s.setCore c (f (s.core c))
def State.launch (s : State) (n : Nat) : Launch := Tab.get {} s.launches n
def State.setLaunch (s : State) (n : Nat) (x : Launch) : State := { s with launches := Tab.put {} s.launches n x }
def State.modLaunch (s : State) (n : Nat) (f : Launch → Launch) : State := s.setLaunch n (f (s.launch n))
def State.tenant (s : State) (t : Nat) : Tenant := Tab.get {} s.tenants t
def State.setTenant (s : State) (t : Nat) (x : Tenant) : State := { s with tenants := Tab.put {} s.tenants t x }
def State.modTenant (s : State) (t : Nat) (f : Tenant → Tenant) : State := s.setTenant t (f (s.tenant t))

/-- Events appended to the agenda, and a message sent outside (log entry 4). -/
def State.push (s : State) (es : List Instr) : State := { s with agenda := s.agenda ++ es }
def State.send (s : State) (o : Out) : State := { s with outbox := s.outbox ++ [o] }

/-- An engine command by its identifier. -/
def State.cmd? (s : State) (id : Nat) : Option Cmd := s.cmds.find? (·.id == id)
def State.modCmd (s : State) (id : Nat) (f : Cmd → Cmd) : State :=
  { s with cmds := s.cmds.map fun c => if c.id == id then f c else c }
def State.dropCmd (s : State) (id : Nat) : State := { s with cmds := s.cmds.filter fun c => c.id != id }

/-- The wave that issues, its workgroup and its tenant. -/
def State.me (s : State) : Wave := s.wave s.cur.wave
def State.myWg (s : State) : Wg := s.wg s.me.wg
def State.myTenant (s : State) : Tenant := s.tenant s.myWg.tenant
def State.myLanes (s : State) : List Nat := lanesOf s.cur.mask

/-- The core of wave w of a workgroup: the odd core holds the upper half of a paired workgroup's waves (R188). -/
def Wg.coreOf (g : Wg) (idx : Nat) : Nat := if g.pair && decide (g.nwaves / 2 ≤ idx) then g.core + 1 else g.core
def State.coreOf (s : State) (k : Nat) : Nat := (s.wg (s.wave k).wg).coreOf (s.wave k).idx
def State.myCore (s : State) : Nat := s.coreOf s.cur.wave

/-- The keys of the live waves, those of one workgroup, and of one core. -/
def State.liveWaves (s : State) : List Nat := (s.waves.filter fun p => p.2.live).map (·.1)
def State.wgWaves (s : State) (g : Nat) : List Nat := (s.waves.filter fun p => p.2.live && p.2.wg == g).map (·.1)
def State.tenantWaves (s : State) (t : Nat) : List Nat := s.liveWaves.filter fun k => (s.wg (s.wave k).wg).tenant == t
def State.launchWgs (s : State) (n : Nat) : List Nat := (s.wgs.filter fun p => p.2.live && p.2.launch == n).map (·.1)

/-- Whether logging is on in a tenant (LOG_CTL [63], R441). -/
def Tenant.logging (t : Tenant) : Bool := t.logCtl.getLsbD 63
def Tenant.logMode (t : Tenant) : Nat := bits t.logCtl 62 61

/-! ### Registers (R49) -/

/-- Register v of lane l. -/
def Wave.reg (w : Wave) (v l : Nat) : W32 := Tab.get 0 w.regs (64 * v + l)
def Wave.setReg (w : Wave) (v l : Nat) (x : W32) : Wave := { w with regs := Tab.put 0 w.regs (64 * v + l) x }
def Wave.row (w : Wave) (v : Nat) : List W32 := (List.range 64).map (w.reg v)
def Wave.setRow (w : Wave) (v : Nat) (xs : List W32) : Wave :=
  (xs.zipIdx).foldl (fun w (x, l) => w.setReg v l x) w
def Wave.lane (w : Wave) (l : Nat) : Lane := w.lanes.getD l {}
def Wave.modLane (w : Wave) (l : Nat) (f : Lane → Lane) : Wave := { w with lanes := w.lanes.modify l f }
/-- A change of the lanes of a list. -/
def Wave.modLanes (w : Wave) (ls : List Nat) (f : Lane → Lane) : Wave := ls.foldl (fun w l => w.modLane l f) w
/-- Lanes whose word of register v holds uncorrectable data, as the running chunk finds it (R416, R417). -/
def Wave.badLanes (w : Wave) (v : Nat) : LaneMask :=
  let of_ := fun (xs : List (Nat × LaneMask)) => xs.foldl (fun m (r, k) => if r = v then m ||| k else m) 0#64
  of_ w.bad &&& ~~~of_ (w.run.mended ++ (w.com.map (·.mended)).getD [])
/-- Register words written anew hold good data. -/
def Wave.mend (w : Wave) (vs : List Nat) (m : LaneMask) : Wave :=
  if w.bad.isEmpty then w else { w with run := { w.run with mended := w.run.mended ++ vs.map fun v => (v, m) } }
/-- Registers allocated to the waves of a workgroup (R45). -/
def Wg.alloc (g : Wg) : Nat := 8 * ((g.regs + 7) / 8)

/-! ### Bytes by place -/

/-- The place `n` bytes on. -/
def Loc.add : Loc → Nat → Loc
  | .mem a, n => .mem (a + n)
  | .scr g o, n => .scr g (o + n)
  | .reg w o, n => .reg w (o + n)
  | .acc c o, n => .acc c (o + n)
/-- The first place of the 128-byte line. -/
def Loc.line : Loc → Loc
  | .mem a => .mem (a / 128 * 128)
  | .scr g o => .scr g (o / 128 * 128)
  | .reg w o => .reg w (o / 128 * 128)
  | .acc c o => .acc c (o / 128 * 128)

/-- The byte at a place. -/
def State.peek (s : State) : Loc → Byte
  | .mem a => Tab.get 0 s.mem a
  | .scr g o => Tab.get 0 (s.wg g).scr o
  | .reg k o => (Tab.get 0 (s.wave k).regs (o / 4)).extractLsb' (8 * (o % 4)) 8
  | .acc c o => Tab.get 0 (s.core c).acc o
/-- A word with byte `i` replaced. -/
def setByte (x : W32) (i : Nat) (b : Byte) : W32 :=
  (x &&& ~~~(0xFF#32 <<< (8 * i))) ||| (b.setWidth 32 <<< (8 * i))
/-- A byte stored at a place. -/
def State.poke (s : State) (l : Loc) (b : Byte) : State :=
  match l with
  | .mem a => { s with mem := Tab.put 0 s.mem a b }
  | .scr g o => s.modWg g fun x => { x with scr := Tab.put 0 x.scr o b }
  | .reg k o => s.modWave k fun w => { w with regs := Tab.put 0 w.regs (o / 4) (setByte (Tab.get 0 w.regs (o / 4)) (o % 4) b) }
  | .acc c o => s.modCore c fun x => { x with acc := Tab.put 0 x.acc o b }
def State.peekN (s : State) (l : Loc) (n : Nat) : List Byte := (List.range n).map fun i => s.peek (l.add i)
def State.pokeN (s : State) (l : Loc) (bs : List Byte) : State :=
  (bs.zipIdx).foldl (fun s (b, i) => s.poke (l.add i) b) s

def Memory.ld64 (m : Memory) (a : Nat) : W64 := le64 (Tab.bytes m a 8)
/-- Stacked memory as the device reads and writes it by physical address: doublewords and words. -/
def State.ld64 (s : State) (a : Nat) : W64 := le64 (Tab.bytes s.mem a 8)
def State.st64 (s : State) (a : Nat) (v : W64) : State := { s with mem := Tab.store s.mem a (bytes64 v) }
def State.stBytes (s : State) (a : Nat) (bs : List Byte) : State := { s with mem := Tab.store s.mem a bs }

/-- DPA of second-tier physical address 0, and the end of device memory (R148). -/
def tierBase : Nat := 512000000000
def memEnd : Nat := 2560000000000

/-! ### Homes and line keys -/

/-- The home slice of a byte of device memory (R71, R72). -/
def homeSlice (dpa : Nat) : Nat :=
  if dpa < tierBase then
    let l := dpa / 128
    ((l % 2048) ^^^ (l / 2048 % 2048)) / 16
  else
    let l := (dpa - tierBase) / 128
    (l % 128) ^^^ (l / 128 % 128)

/-- The core whose store holds a scratchpad offset of a workgroup (R21). -/
def State.scrCore (s : State) (g off : Nat) : Nat := (s.wg g).core + (if off / 2 ^ 23 % 2 = 1 then 1 else 0)

/-- Who applies writes to a place: home slice k, or bank arbiter 128 + core (R56, R69). -/
def State.homeOf (s : State) : Loc → Nat
  | .mem a => homeSlice a
  | .scr g o => 128 + s.scrCore g o
  | .reg k _ => 128 + s.coreOf k
  | .acc c _ => 128 + c

/-- The 64-bit line key (R83); the accumulator view has none. -/
def State.lineKey (s : State) : Loc → Option W64
  | .mem a =>
    if a < tierBase then some (BitVec.ofNat 64 (a / 128))
    else some (BitVec.ofNat 64 (2 ^ 62 + (a - tierBase) / 128))
  | .scr g o =>
    let x := s.wg g
    let base := if o / 2 ^ 23 % 2 = 1 then x.scrUnitOdd else x.scrUnit
    some (BitVec.ofNat 64 (2 ^ 63 + s.scrCore g o * 2 ^ 14 + 16 * base + o % 2 ^ 23 / 128))
  | .reg k o =>
    let w := s.wave k
    some (BitVec.ofNat 64 (2 ^ 63 + s.coreOf k * 2 ^ 14 + 16 * (s.wg w.wg).regUnits.getD w.idx 0 + o / 128))
  | .acc _ _ => none

/-! ### Banks of a core (R48, R73, R74) -/

/-- The bank of a place of the unified store, or of the accumulator memory from 48 on, with its core. -/
def State.bankOf (s : State) : Loc → Option (Nat × Nat)
  | .mem _ => none
  | .scr g o =>
    let x := s.wg g
    some (s.scrCore g o, (16 * (if o / 2 ^ 23 % 2 = 1 then x.scrUnitOdd else x.scrUnit) + o % 2 ^ 23 / 128) % 48)
  | .reg k o =>
    let w := s.wave k
    some (s.coreOf k, (16 * (s.wg w.wg).regUnits.getD w.idx 0 + o / 128) % 48)
  | .acc c o => some (c, 48 + o / 2048)
def State.banksOf (s : State) (ls : List Loc) : List (Nat × Nat) := (ls.filterMap s.bankOf).eraseDups
/-- The store lines of registers of a wave (R49). -/
def rowLocs (k : Nat) (vs : List Nat) : List Loc := vs.flatMap fun v => [.reg k (256 * v), .reg k (256 * v + 128)]
/-- Banks accessed are active (R73). -/
def State.touch (s : State) (bs : List (Nat × Nat)) : State :=
  bs.foldl (fun s (c, b) => s.modCore c fun x =>
    { x with banks := Tab.put 0 x.banks b (s.cycle + 1), storeUsed := if b < 48 then s.cycle else x.storeUsed }) s
def State.useBanks (s : State) (ls : List Loc) : State := s.touch (s.banksOf ls)
/-- Some of the banks is drowsy. -/
def State.asleep (s : State) (bs : List (Nat × Nat)) : Bool := bs.any fun (c, b) => Tab.get 0 (s.core c).banks b == 0

/-! ### Signatures -/

/-- The multipliers of R84. -/
def sigMul : List W64 := [0xA3B195C64E2F8D17, 0x6D1FE2A73B59C4E5, 0xD74C0B3891A6F2E3, 0x58E9A6D3C71B04F9]
/-- h_i(K). -/
def sigHash (k c : W64) : Nat := ((k * c) >>> 56).toNat
/-- The four bits a key sets. -/
def sigBits (k : W64) : BitVec 1024 :=
  (sigMul.zipIdx).foldl (fun m (c, i) => m ||| (1#1024 <<< (256 * i + sigHash k c))) 0
/-- A read signature meets a write signature (R85). -/
def sigMeets (r w : BitVec 1024) : Bool :=
  (List.range 4).all fun i => (r &&& w).extractLsb' (256 * i) 256 != 0#256
/-- Set bits of a signature (R77). -/
def popCount {n : Nat} (x : BitVec n) : Nat := (List.range n).foldl (fun c i => if x.getLsbD i then c + 1 else c) 0

/-- The signature of a list of keys. -/
def sigOf (ks : List W64) : BitVec 1024 := ks.foldl (fun m k => m ||| sigBits k) 0

/-- The keys of the lines a run of bytes touches. -/
def State.keysOf (s : State) (ls : List Loc) : List W64 := (ls.filterMap s.lineKey).eraseDups

/-! ### Slot accounts -/

/-- Accounting is on in a tenant (R224). -/
def Tenant.acctOn (t : Tenant) : Bool := t.acctBase != 0 && decide (8 ≤ bits t.acctBits 4 0) && decide (bits t.acctBits 4 0 ≤ 24)
/-- A slot charged on a core (R221); its fold comes later (R225). Every slot of a wave in handler mode goes to TRAP (R222). -/
def State.chargeCore (s : State) (c t : Nat) (cause : Cause) (pc : W64) (cut : Nat) : State :=
  if (s.tenant t).acctOn then s.modCore c fun x => { x with charges := x.charges ++ [{ tenant := t, cause := cause, pc := pc, cut := cut }] }
  else s
/-- The flush requests of a tenant that a slot charged now stands after: in the cycle of a core under way, those before the cycle
(R226). -/
def State.cutOf (s : State) (t : Nat) : Nat :=
  if s.cycleOf.any fun c => (s.core c).tenant == t then s.cycleCut else (s.tenant t).cuts
def State.charge (s : State) (k : Nat) (cause : Cause) (pc : W64) : State :=
  let w := s.wave k
  let t := (s.wg w.wg).tenant
  s.chargeCore (s.coreOf k) t (if w.handler then .trap else cause) pc (s.cutOf t)
/-- The tentative slots of a chunk become final (R223). -/
def State.chargeSlots (s : State) (k : Nat) (slots : List (W64 × Nat)) (cause : Cause) : State :=
  slots.foldl (fun s x => s.chargeCore (s.coreOf k) (s.wg (s.wave k).wg).tenant cause x.1 x.2) s

/-! ### Chunks -/

/-- A chunk that begins with the lanes as they stand (R76), under the wave's instruction limit. -/
def Chunk.fresh (lanes : List Lane) (limit : Nat) : Chunk := { start := lanes, limit := limit }

/-- Every latch of a lane invalid (R183). -/
def Lane.noLatch (x : Lane) : Lane := { x with lvalid := 0 }

/-- The running chunk of a wave starts afresh where its lanes stand. -/
def Wave.freshRun (w : Wave) : Wave :=
  let ls := w.lanes.map Lane.noLatch
  { w with lanes := ls, run := Chunk.fresh ls w.limit }

/-- A pending halt takes effect: its lanes are halted at the debugger's request (R404, R434). -/
def Wave.takeHalt (w : Wave) : Wave :=
  if w.haltPending then
    { w with lanes := w.lanes.zipIdx.map fun (x, l) => if w.haltMask.getLsbD l then { x with halted := true } else x,
             haltPending := false, haltMask := 0, haltReason := 0x13, haltInfo := 0, haltNew := true }
  else w

/-- The registers a chunk saved take back their values (R81, R91). -/
def Wave.restoreRegs (w : Wave) (saved : List (Nat × List W32)) : Wave :=
  saved.foldl (fun w (v, old) => w.setRow v old) w

/-- A lane of a restarted chunk: its start state, held by whatever holds it now (R76, R263, R432). -/
def Lane.restart (start now : Lane) : Lane := { start with halted := now.halted, skip := now.skip, lvalid := 0 }

/-- A STEP has ended: every lane is halted (R433, R434). -/
def Wave.endStep (w : Wave) : Wave :=
  let halt := fun (ls : List Lane) => ls.map fun (l : Lane) => { l with halted := true }
  { w with lanes := halt w.lanes, savedLanes := halt w.savedLanes, run := { w.run with step := none }, haltReason := 0x13,
           haltInfo := 1, haltNew := true }
/-- The wave at the start of a discarded chunk (R91, R93): registers, lanes, limit, and the chunk begun anew; the chunk of a STEP ends
it. -/
def Wave.rewind (w : Wave) (c : Chunk) : Wave :=
  let w := w.restoreRegs c.saved
  let ls := List.zipWith Lane.restart c.start w.lanes
  let w := { w with lanes := ls, limit := c.limit, run := Chunk.fresh ls c.limit, wait := {}, held := none, woke := [], storing := [] }
  if c.step.isSome then w.endStep else w

/-- Writer places that a discarded engine command had reserved are returned (R51). -/
def State.returnPlaces (s : State) (c : Closing) : State :=
  match c with
  | .engine cmd => s.modWg cmd.wg fun g =>
    { g with places := cmd.lines.foldl (fun t l => Tab.put 0 t l (Tab.get 0 t l - 1)) g.places }
  | _ => s

/-- The exclusive commit reservation released by a wave that holds or awaits it (R92). -/
def State.releaseRes (s : State) (k : Nat) : State :=
  let s := { s with resQueue := s.resQueue.filter (· != k) }
  if s.resHolder = some k then { s with resHolder := none }.push [.reservationGrant] else s

/-- The running chunk discarded (R93), its slots charged. -/
def State.discardRun (s : State) (k : Nat) (cause : Cause) : State :=
  let w := s.wave k
  let s := (s.chargeSlots k w.run.slots cause).returnPlaces w.run.closing
  s.modWave k fun w => w.rewind w.run

/-- The committing chunk and the running one discarded (R79, R91). Entries the running chunk raised are withdrawn (R399). -/
def State.discardBoth (s : State) (k : Nat) (cause : Cause) : State :=
  match (s.wave k).com with
  | none => s.discardRun k cause
  | some c =>
    let raised := (s.wave k).run.raised
    let s := s.discardRun k cause
    let s := (s.chargeSlots k c.slots cause).returnPlaces c.closing
    s.modWave k fun w =>
      { (w.rewind c) with com := none, trapQ := w.trapQ.filter fun e => !(raised.contains e || c.raised.contains e) }

/-- Charges of an issue: tentative in its chunk, or final to TRAP in handler mode (R222, R223), or to HALT in a replay (R454). -/
def State.issued (s : State) (k : Nat) (pc : W64) : State :=
  if (s.wave k).handler then s.charge k .trap pc
  else if (s.tenant (s.wg (s.wave k).wg).tenant).reverse.isSome then s.charge k .halt pc
  else
    let n := s.cutOf (s.wg (s.wave k).wg).tenant
    s.modWave k fun w => { w with run := { w.run with slots := w.run.slots ++ [(pc, n)] } }

/-- Two issue sets are the same one. -/
def Slot.same (x y : Slot) : Bool := x.wave == y.wave && x.pc == y.pc && x.mask == y.mask
/-- The issue does not go on: the set is held for a cause (R222). -/
def State.hold (s : State) (cause : Cause) : State :=
  ({ s with offered := s.offered.map fun x => if x.same s.cur then { x with cause := some cause } else x } : State).modWave s.cur.wave
    fun w => { w with held := some cause }
/-- The banks that an instruction finds drowsy wake together in 12 cycles, once for each issue (R74); none when there is nothing to
wait for. -/
def State.wakeFor (s : State) (ls : List Loc) : Option State :=
  let bs := s.banksOf ls
  if !s.asleep bs || s.me.woke.contains s.cur.pc then none
  else some (((s.touch bs).modWave s.cur.wave fun w => { w with wakeUntil := s.cycle + 12, woke := s.cur.pc :: w.woke }).hold .replay)

/-- Store cycles of a scratchpad or register-window instruction (R48): the most lines that its lanes touch in one bank. -/
def State.storeCycles (s : State) (lines : List Loc) : Nat :=
  let bs := (lines.eraseDups.filterMap s.bankOf).filter (·.2 < 48)
  bs.foldl (fun n b => max n (bs.count b)) 1
/-- Its cycles beyond the first, each charged to LOCALMEM. -/
def State.storeWait (s : State) (lines : List Loc) : Option State :=
  let n := s.storeCycles lines
  if n ≤ 1 then none
  else match s.me.storing.find? (·.1 == s.cur.pc) with
    | some (_, until_) => if s.cycle < until_ then some (s.hold .localmem) else none
    | none => some ((s.modWave s.cur.wave fun w => { w with storing := (s.cur.pc, s.cycle + n - 1) :: w.storing }).hold .localmem)

/-- The current set stands in for another whose line misses (R178). -/
def State.replaced (s : State) (x : Slot) : Bool := s.switched.any fun ys => ys.any fun y => y.1.same s.cur && y.2.same x
/-- The set takes a port (R220). -/
def State.usePort (s : State) (cause : Cause) : State :=
  let c := s.myCore
  let s := { s with ports := s.ports - 1, offered := s.offered.filter fun x => !x.same s.cur && !s.replaced x, issuedBy := s.cur.wave :: s.issuedBy,
                    cores := if s.ports = 2 then
                        let w := s.me
                        Tab.put {} s.cores c { s.core c with
                          port0 := (some (s.cur.wave, leading s.cur.mask), if w.handler then .trap else cause, s.cur.pc) }
                      else s.cores }
  s.modWave s.cur.wave fun w =>
    { w with trials := w.trials.filter (·.1 != s.cur.pc), woke := w.woke.erase s.cur.pc, storing := w.storing.filter (·.1 != s.cur.pc) }
/-- A slot that issues without effect, its chunk being discarded (R223). -/
def State.wasteSlot (s : State) (cause : Cause) : State := (s.usePort cause).charge s.cur.wave cause s.cur.pc

/-- An address of the private window (R23, R67). -/
def isPrivate (ea : W64) : Bool := bits ea 63 56 == 0x42
/-- Whether a chunk has written nothing beyond the core's own store and its threads' private lines (R86). -/
def State.writeLocal (s : State) (core : Nat) (x : Write) : Bool :=
  match x.loc with
  | .mem _ => isPrivate x.ea
  | l => s.homeOf l == 128 + core

def State.closingLocal (s : State) (core : Nat) : Closing → Bool
  | .none => true
  | .atomic _ _ lanes _ _ => lanes.all fun a => a.locs.all fun l => s.homeOf l == 128 + core
  | .barrier _ obj _ _ _ => s.homeOf obj == 128 + core
  | .engine cmd => !cmd.onChip
  | .qpop _ _ => true
  | .launch .. => true
  | _ => false

/-- Local commit or chip commit (R86, R324). -/
def State.isLocal (s : State) (k : Nat) (c : Chunk) : Bool :=
  !c.fence && c.writes.all (s.writeLocal (s.coreOf k)) && s.closingLocal (s.coreOf k) c.closing

/-- An ended chunk moves to its commit when no older one is committing (R79). -/
def State.advance (s : State) (k : Nat) : State :=
  let w := s.wave k
  if w.run.ended && w.com.isNone && w.run.doomed.isNone then
    let local_ := s.isLocal k w.run
    (s.setWave k { w with com := some w.run }.freshRun).push [if local_ then .localCommit k else .chipCommit k]
  else s

/-- The running chunk of a wave ends after what it has issued (R77). -/
def State.endChunk (s : State) (k : Nat) : State :=
  (s.modWave k fun w => { w with run := { w.run with ended := true } }).advance k

end Sys2Proof.Machine
end

