-- ==== Sys2Proof/Machine/Flags.lean ====
section
/-!
DEFINITION. Floating-point flags and FPCTL (R240, R241, R283), and the status words of barriers, stages and containment (R331,
R380, R388).
-/

namespace Sys2Proof.Machine

/-- Flags in the order of FPCTL [4:0]. -/
abbrev FFlags := BitVec 5
def flagNX : FFlags := 1
def flagUF : FFlags := 2
def flagOF : FFlags := 4
def flagDZ : FFlags := 8
def flagIV : FFlags := 16
/-- A flag raised under a condition. -/
def flagIf (c : Bool) (f : FFlags) : FFlags := if c then f else 0

/-- The flags whose enable bit is set (FPCTL [12:8]). -/
def fpEnabled (fpctl : W64) : FFlags := fpctl.extractLsb' 8 5
/-- FPCTL with the flags of a committed chunk (R240). -/
def fpSticky (fpctl : W64) (f : FFlags) : W64 := fpctl ||| f.setWidth 64
/-- Reserved bits of FPCTL (R240). -/
def fpReserved : W64 := ~~~0x1F1F#64

/-- A barrier object as its fields (R58). -/
structure Barrier where
  broken : Bool
  err : Bool
  phase : Nat
  arrive : Nat
  init : Nat
  bytes : Int
  deriving DecidableEq, Repr

def Barrier.ofBytes (bs : List Byte) : Barrier :=
  let lo := le64 (bs.take 8)
  let hi := le64 (bs.drop 8)
  let b := bits hi 40 0
  { broken := lo.getLsbD 63, err := lo.getLsbD 62, phase := bits lo 47 32, arrive := bits lo 19 0, init := bits hi 63 44,
    bytes := if b < 2 ^ 40 then (b : Int) else (b : Int) - 2 ^ 41 }
def Barrier.toBytes (x : Barrier) : List Byte :=
  bytes64 (BitVec.ofNat 64 ((if x.broken then 2 ^ 63 else 0) + (if x.err then 2 ^ 62 else 0) + x.phase % 65536 * 2 ^ 32
    + x.arrive % 2 ^ 20))
  ++ bytes64 (BitVec.ofNat 64 (x.init % 2 ^ 20 * 2 ^ 44 + (x.bytes % 2 ^ 41).toNat))

/-- The end of a change (R59): the phase completes when nothing is owed. -/
def Barrier.settle (x : Barrier) : Barrier :=
  if x.arrive = 0 ∧ x.bytes = 0 then { x with phase := (x.phase + 1) % 65536, arrive := x.init } else x
/-- BINIT, BEXP, bytes placed, and a failed command (R59, R62). -/
def Barrier.start (n : Nat) : Barrier := { broken := false, err := false, phase := 0, arrive := n, init := n, bytes := 0 }
def Barrier.expect (x : Barrier) (n : Int) : Barrier := { x with bytes := x.bytes + n }.settle
def Barrier.fail (x : Barrier) (owed : Nat) : Barrier := { x with bytes := x.bytes - owed, err := true }.settle
/-- An arrival; over-arrival sets BROKEN (R59, R61). -/
def Barrier.over (x : Barrier) : Bool := x.arrive = 0 && x.init ≠ 0
def Barrier.arriveOne (x : Barrier) : Barrier :=
  if x.init = 0 then x
  else if x.arrive = 0 then { x with broken := true }
  else { x with arrive := x.arrive - 1 }.settle

/-- A wait on phase p is released (R335). -/
def Barrier.released (x : Barrier) (p : Nat) : Bool := (x.init ≠ 0 && x.phase ≠ p) || x.broken
/-- The status word of R331 for phase p. -/
def Barrier.status (x : Barrier) (p : Nat) : W32 :=
  BitVec.ofNat 32 (x.phase * 65536 + (if x.init = 0 then 8 else 0) + (if x.err then 4 else 0) + (if x.broken then 2 else 0)
    + (if x.init ≠ 0 ∧ x.phase ≠ p then 1 else 0))

end Sys2Proof.Machine
end

