-- ==== Sys2Proof/Machine/Operands.lean ====
section
/-!
DEFINITION. Operands and results: what each operand code reads (R257, R258), when a latch read is valid (R182), packed elements
(R228, R234), the write of a result with its first-write checkpoint (R81, R282) and the shift of the latches (R181).
-/

namespace Sys2Proof

/-- Element width and elements per operand of an integer form (R228, R285). -/
def IForm.width : IForm → Nat
  | .w32 => 32
  | .w64 => 64
  | .h16 => 16
  | .b8 => 8
def IForm.count : IForm → Nat
  | .w32 | .w64 => 1
  | .h16 => 2
  | .b8 => 4

end Sys2Proof

namespace Sys2Proof.Machine

/-- A 32-bit operand of lane l. -/
def Wave.read32 (w : Wave) (l : Nat) : Operand → W32
  | .v n => w.reg n.val l
  | .x k => ((w.lane l).latches.getD k.val {}).val.setWidth 32
  | .zero => 0
  | .lane => BitVec.ofNat 32 l
  | .imm => (w.lane l).imm.setWidth 32
  | .tid => BitVec.ofNat 32 (64 * w.idx + l)

/-- A 64-bit operand: a pair, or a special code widened (R258). -/
def Wave.read64 (w : Wave) (l : Nat) : Operand → W64
  | .v n => w.reg (n.val + 1) l ++ w.reg n.val l
  | .x k => ((w.lane l).latches.getD k.val {}).val
  | .zero => 0
  | .lane => BitVec.ofNat 64 l
  | .imm => (w.lane l).imm
  | .tid => BitVec.ofNat 64 (64 * w.idx + l)

/-- A 16-byte operand: a quad or zero (R258). -/
def Wave.read128 (w : Wave) (l : Nat) : Operand → BitVec 128
  | .v n => w.reg (n.val + 3) l ++ w.reg (n.val + 2) l ++ w.reg (n.val + 1) l ++ w.reg n.val l
  | _ => 0

/-- The operand of `n` registers as a 128-bit value. -/
def Wave.readN (w : Wave) (l n : Nat) (o : Operand) : BitVec 128 :=
  if n = 1 then (w.read32 l o).setWidth 128 else if n = 2 then (w.read64 l o).setWidth 128 else w.read128 l o

/-- The words of a register group of lane l. -/
def Wave.group (w : Wave) (l n : Nat) : Operand → List W32
  | .v b => (List.range n).map fun i => w.reg (b.val + i) l
  | _ => List.replicate n 0

/-- A latch operand is readable: its entry is valid, and wide for a pair read (R182). -/
def Lane.latchOk (x : Lane) (n : Nat) : Operand → Bool
  | .x k => x.lvalid.getLsbD k.val && (n ≤ 1 || (x.latches.getD k.val {}).wide)
  | _ => true

/-- The lanes in which some read field names an unreadable latch (R184). -/
def Wave.badLatch (w : Wave) (ls : List Nat) (us : List Use) : List Nat :=
  ls.filter fun l => us.any fun u => u.reads && !(w.lane l).latchOk u.n u.op

/-! ### Results -/

/-- A lane's latches after a result of `n` registers: an entry wider than 64 bits is never valid (R181). -/
def Lane.shift (x : Lane) (n : Nat) (v : W64) : Lane :=
  let y := { x with latches := { val := v, wide := 2 ≤ n } :: x.latches.take 3 }
  { y with lvalid := if n ≤ 2 then (x.lvalid <<< 1) ||| 1 else x.lvalid <<< 1 }

/-- Registers saved before their first write in the chunk (R81). -/
def Wave.saveRows (w : Wave) (vs : List Nat) : Wave :=
  vs.foldl (fun w v => if w.run.saved.any (·.1 == v) then w
    else { w with run := { w.run with saved := (v, w.row v) :: w.run.saved } }) w

/-- The registers of a destination. -/
def destRegs (d : Operand) (n : Nat) : List Nat :=
  match d with
  | .v v => List.range' v.val n
  | _ => []

/-- Register words of a value written to the destination of lane l. -/
def Wave.putRegs (w : Wave) (l : Nat) (d : Operand) (n : Nat) (v : BitVec 128) : Wave :=
  match d with
  | .v b => (List.range n).foldl (fun w i => w.setReg (b.val + i) l (v.extractLsb' (32 * i) 32)) w
  | _ => w

/-- WriteResult(l, r) of R282. -/
def Wave.writeResult (w : Wave) (wb : Bool) (d : Operand) (n l : Nat) (v : BitVec 128) : Wave :=
  let w := if wb then w.putRegs l d n v else w
  w.modLane l fun x => x.shift n (v.setWidth 64)

/-- The result of every active lane: destination rows saved, then each lane's value written and latched. -/
def Wave.writeAll (w : Wave) (wb : Bool) (d : Operand) (n : Nat) (vs : List (Nat × BitVec 128)) : Wave :=
  let w := if wb then w.saveRows (destRegs d n) else w
  vs.foldl (fun w (l, v) => w.writeResult wb d n l v) w

/-! ### Elements -/

/-- Element e of width n of a packed value, and the packing of a list of elements (R228). -/
def elem (v : BitVec 128) (n e : Nat) : Nat := v.toNat / 2 ^ (n * e) % 2 ^ n
def pack (n : Nat) (es : List Nat) : BitVec 128 :=
  BitVec.ofNat 128 (es.foldr (fun x acc => x % 2 ^ n + 2 ^ n * acc) 0)

/-- The signed value of an n-bit pattern. -/
def sgn (n x : Nat) : Int := if x < 2 ^ (n - 1) then (x : Int) else (x : Int) - 2 ^ n
/-- A value modulo 2^n, and clamped to the signed range (R229). -/
def wrapTo (n : Nat) (x : Int) : Nat := (x % 2 ^ n).toNat
def clampTo (n : Nat) (x : Int) : Nat := wrapTo n (max (-2 ^ (n - 1)) (min (2 ^ (n - 1) - 1) x))

end Sys2Proof.Machine
end

