-- ==== Sys2Proof/Machine/Float.lean ====
section
/-!
DEFINITION. Floating-point arithmetic (R231 to R243): values as exact dyadic numbers, one rounding by direction with overflow,
tininess and NaN results, and the exact operations that the instructions round.
-/

namespace Sys2Proof

open Machine (FFlags flagNX flagUF flagOF flagDZ flagIV flagIf)

/-! ### Formats (R231 to R233) -/

/-- Width of a code, trailing significand bits, bias. -/
def FFmt.width : FFmt → Nat
  | .f64 => 64
  | .f32 => 32
  | .f16 | .bf16 => 16
  | .e5m2 | .e4m3 | .e8m0 | .u5m3 => 8
  | .e3m2 | .e2m3 => 6
  | .e2m1 => 4
def FFmt.mbits : FFmt → Nat
  | .f64 => 52
  | .f32 => 23
  | .f16 => 10
  | .bf16 => 7
  | .e5m2 | .e3m2 => 2
  | .e4m3 | .e2m3 | .u5m3 => 3
  | .e2m1 => 1
  | .e8m0 => 0
def FFmt.bias : FFmt → Nat
  | .f64 => 1023
  | .f32 | .bf16 | .e8m0 => 127
  | .f16 | .e5m2 | .u5m3 => 15
  | .e4m3 => 7
  | .e3m2 => 3
  | .e2m3 | .e2m1 => 1
/-- Formats with an infinity; with a NaN. -/
def FFmt.hasInf : FFmt → Bool
  | .f64 | .f32 | .f16 | .bf16 | .e5m2 => true
  | _ => false
def FFmt.hasNan : FFmt → Bool
  | .e3m2 | .e2m3 | .e2m1 => false
  | _ => true
/-- The canonical NaN (R239). -/
def FFmt.nan : FFmt → Nat
  | .f64 => 0x7FF8000000000000
  | .f32 => 0x7FC00000
  | .f16 => 0x7E00
  | .bf16 => 0x7FC0
  | .e5m2 => 0x7E
  | .e4m3 => 0x7F
  | .e8m0 | .u5m3 => 0xFF
  | _ => 0
/-- The code of the largest finite value. -/
def FFmt.maxCode : FFmt → Nat
  | .f64 => 0x7FEFFFFFFFFFFFFF
  | .f32 => 0x7F7FFFFF
  | .f16 => 0x7BFF
  | .bf16 => 0x7F7F
  | .e5m2 => 0x7B
  | .e4m3 => 0x7E
  | .e3m2 | .e2m3 => 0x1F
  | .e2m1 => 0x7
  | .e8m0 | .u5m3 => 0xFE
/-- The place of the sign bit; the unsigned formats have none. -/
def FFmt.signBit (f : FFmt) (neg : Bool) : Nat := if neg then 2 ^ (f.width - 1) else 0

/-! ### Values -/

/-- A value: NaN (signalling or quiet), infinity, or the exact number (-1)^neg m 2^e. -/
inductive FVal where
  | nan (sig : Bool)
  | inf (neg : Bool)
  | num (neg : Bool) (m : Nat) (e : Int)
  deriving DecidableEq, Repr

def FVal.sig : FVal → Bool
  | .nan s => s
  | _ => false
def FVal.isNan : FVal → Bool
  | .nan _ => true
  | _ => false
def FVal.isZero : FVal → Bool
  | .num _ 0 _ => true
  | _ => false
def FVal.isInf : FVal → Bool
  | .inf _ => true
  | _ => false
def FVal.neg : FVal → Bool
  | .nan _ => false
  | .inf n => n
  | .num n _ _ => n
def FVal.negate : FVal → FVal
  | .nan s => .nan s
  | .inf n => .inf !n
  | .num n m e => .num (!n) m e

/-- The value of a code (R231 to R233). -/
def FFmt.value (f : FFmt) (code : Nat) : FVal :=
  let c := code % 2 ^ f.width
  match f with
  | .e8m0 => if c = 255 then .nan false else .num false 1 (c - 127)
  | .u5m3 =>
    if c = 255 then .nan false
    else if c < 8 then .num false c (-17) else .num false (8 + c % 8) (c / 8 - 18)
  | _ =>
    let neg := decide (2 ^ (f.width - 1) ≤ c)
    let mag := c % 2 ^ (f.width - 1)
    let mm := mag % 2 ^ f.mbits
    let ee := mag / 2 ^ f.mbits
    let top := 2 ^ (f.width - 1 - f.mbits) - 1
    if f.hasInf && ee == top then
      if mm = 0 then .inf neg else .nan (decide (mm < 2 ^ (f.mbits - 1)))
    else if f = .e4m3 ∧ mag = 0x7F then .nan false
    else if ee = 0 then .num neg mm (1 - f.bias - f.mbits)
    else .num neg (2 ^ f.mbits + mm) (ee - f.bias - f.mbits)

/-! ### Rounding (R235 to R237) -/

/-- m 2^e as a multiple of 2^q: the rounded multiple, and whether it differs. -/
def roundAt (rm : Round) (neg : Bool) (m : Nat) (e q : Int) : Nat × Bool :=
  if q ≤ e then (m * 2 ^ (e - q).toNat, false)
  else
    let sh := (q - e).toNat
    let n := m / 2 ^ sh
    let r := m % 2 ^ sh
    let half := 2 ^ (sh - 1)
    let up := match rm with
      | .rne => decide (half < r) || (r == half && n % 2 == 1)
      | .rz => false
      | .ru => !neg && r != 0
      | .rd => neg && r != 0
    (if up then n + 1 else n, r != 0)

/-- The code of n 2^q, with q at the least a subnormal's exponent and n at most 2^(mbits + 1). -/
def FFmt.pack (f : FFmt) (n : Nat) (q : Int) : Nat :=
  let n' := if n = 2 ^ (f.mbits + 1) then n / 2 else n
  let q' := if n = 2 ^ (f.mbits + 1) then q + 1 else q
  if n' < 2 ^ f.mbits then n' else ((q' + f.mbits + f.bias).toNat) * 2 ^ f.mbits + (n' - 2 ^ f.mbits)

/-- The delivery of an overflow (R236). -/
def FFmt.overflow (f : FFmt) (rm : Round) (sat neg : Bool) : Nat :=
  let toward := match rm with
    | .rne => false
    | .rz => true
    | .ru => neg
    | .rd => !neg
  if sat || toward then f.maxCode
  else if f.hasInf then (2 ^ (f.width - 1 - f.mbits) - 1) * 2 ^ f.mbits
  else if f = .e4m3 then 0x7F else f.maxCode

/-- A non-zero exact number rounded into a format, with OF, UF and NX. -/
def FFmt.roundNum (f : FFmt) (rm : Round) (sat neg : Bool) (m : Nat) (e : Int) : Nat × FFlags :=
  let top := (Nat.log2 m : Int) + e
  let emin : Int := 1 - f.bias
  let q := max (top - f.mbits) (emin - f.mbits)
  let (n, inexact) := roundAt rm neg m e q
  let code := f.pack n q
  if f.maxCode < code then (f.signBit neg + f.overflow rm sat neg, flagOF ||| flagNX)
  else
    let tiny := decide (top < emin) &&
      !(decide (top = emin - 1) && (roundAt rm neg m e (top - f.mbits)).1 == 2 ^ (f.mbits + 1))
    (f.signBit neg + code, flagIf inexact flagNX ||| flagIf (tiny && inexact) flagUF)

/-- The delivery of a result (R236, R239): NaN, infinity with the saturation attribute, or one rounding. -/
def FFmt.deliver (f : FFmt) (rm : Round) (sat : Bool) : FVal → Nat × FFlags
  | .nan _ => (f.nan, 0)
  | .inf neg =>
    if f.hasInf && !sat then (f.signBit neg + (2 ^ (f.width - 1 - f.mbits) - 1) * 2 ^ f.mbits, 0)
    else (f.signBit neg + f.maxCode, 0)
  | .num neg 0 _ => (f.signBit neg, 0)
  | .num neg m e => f.roundNum rm sat neg m e

/-! ### Exact operations -/

/-- A signed integer multiple of 2^e as a value; an exact zero takes the sign given. -/
def ofInt (x e : Int) (zneg : Bool) : FVal := if x = 0 then .num zneg 0 0 else .num (decide (x < 0)) x.natAbs e
def FVal.toInt (lo : Int) : FVal → Int
  | .num n m e => (if n then -1 else 1) * ((m * 2 ^ (e - lo).toNat : Nat) : Int)
  | _ => 0

/-- The exact sum of values (R239): NaN wins, opposite infinities are invalid beside a NaN too (R308), and an exact zero is +0, -0 under RD, or the common
sign of zeros. Flags: IV. -/
def sumVals (rm : Round) (xs : List FVal) : FVal × FFlags :=
  let iv := xs.any FVal.sig || (xs.contains (.inf false) && xs.contains (.inf true))
  if xs.any FVal.isNan then (.nan false, flagIf iv flagIV)
  else if xs.contains (.inf false) then
    if xs.contains (.inf true) then (.nan false, flagIV) else (.inf false, 0)
  else if xs.contains (.inf true) then (.inf true, 0)
  else
    let nz := xs.filter fun x => !x.isZero
    let lo := nz.foldl (fun a x => match x with
      | .num _ _ e => min a e
      | _ => a) (match nz.headD (.num false 0 0) with
      | .num _ _ e => e
      | _ => 0)
    let v := nz.foldl (fun a x => a + x.toInt lo) 0
    let zneg := if nz.isEmpty ∧ xs.all (·.neg) = true then true
      else if nz.isEmpty ∧ xs.all (fun x => !x.neg) = true then false else rm == .rd
    (ofInt v lo zneg, 0)

/-- The exact product; 0 times infinity is invalid. -/
def mulVals (x y : FVal) : FVal × FFlags :=
  let iv := x.sig || y.sig
  match x, y with
  | .nan _, _ => (.nan false, flagIf iv flagIV)
  | _, .nan _ => (.nan false, flagIf iv flagIV)
  | .inf a, .inf b => (.inf (a != b), 0)
  | .inf a, .num b m _ => if m = 0 then (.nan false, flagIV) else (.inf (a != b), 0)
  | .num a m _, .inf b => if m = 0 then (.nan false, flagIV) else (.inf (a != b), 0)
  | .num a m e, .num b n g => (.num (a != b) (m * n) (e + g), 0)

/-- x × y + z, one rounding to come (R301). -/
def fmaVals (rm : Round) (x y z : FVal) : FVal × FFlags :=
  let p := mulVals x y
  let s := sumVals rm [p.1, z]
  (s.1, p.2 ||| s.2)

/-- The order of two values that are no NaN. -/
def ltVals (x y : FVal) : Bool :=
  match x, y with
  | .inf a, .inf b => a && !b
  | .inf a, _ => a
  | _, .inf b => !b
  | _, _ => match (sumVals .rne [x, y.negate]).1 with
    | .num n m _ => n && m != 0
    | _ => false
def eqVals (x y : FVal) : Bool := !x.isNan && !y.isNan && !ltVals x y && !ltVals y x

/-- FMIN and FMAX on NaN-free values: -0 lies below +0. -/
def leMin (x y : FVal) : Bool := ltVals x y || (eqVals x y && (x.neg || !y.neg))
def minVals (x y : FVal) : FVal × FFlags :=
  if x.isNan || y.isNan then (.nan false, flagIf (x.sig || y.sig) flagIV) else (if leMin x y then x else y, 0)
def maxVals (x y : FVal) : FVal × FFlags :=
  if x.isNan || y.isNan then (.nan false, flagIf (x.sig || y.sig) flagIV) else (if leMin x y then y else x, 0)

/-! ### Roots and reciprocals: enough bits, and a sticky bit below them -/

/-- The integer square root of a number below 4^k. -/
def isqrt (n : Nat) : Nat → Nat
  | 0 => 0
  | k + 1 =>
    -- the root's high bits are those of the root of n / 4^k at each place
    let r := 2 * isqrt (n / 4) k
    if (r + 1) * (r + 1) ≤ n then r + 1 else r

/-- A quotient n 2^e as a value with its remainder folded into a last bit. -/
def sticky (neg : Bool) (n : Nat) (exact : Bool) (e : Int) : FVal :=
  if exact then .num neg n e else .num neg (2 * n + 1) (e - 1)

def rcpVal : FVal → FVal × FFlags
  | .nan s => (.nan false, flagIf s flagIV)
  | .inf n => (.num n 0 0, 0)
  | .num n 0 _ => (.inf n, flagDZ)
  | .num n m e =>
    let k : Nat := Nat.log2 m + 80
    (sticky n (2 ^ k / m) (2 ^ k % m == 0) (-(k : Int) - e), 0)

def sqrtVal : FVal → FVal × FFlags
  | .nan s => (.nan false, flagIf s flagIV)
  | .inf true => (.nan false, flagIV)
  | .inf false => (.inf false, 0)
  | .num n 0 _ => (.num n 0 0, 0)
  | .num true _ _ => (.nan false, flagIV)
  | .num false m e =>
    let sh := 160 + (e % 2).toNat
    let x := m * 2 ^ sh
    let r := isqrt x 112
    (sticky false r (r * r == x) ((e - sh) / 2), 0)

def rsqVal : FVal → FVal × FFlags
  | .nan s => (.nan false, flagIf s flagIV)
  | .inf true => (.nan false, flagIV)
  | .inf false => (.num false 0 0, 0)
  | .num n 0 _ => (.inf n, flagDZ)
  | .num true _ _ => (.nan false, flagIV)
  | .num false m e =>
    let x := m * 2 ^ (e % 2).toNat
    let g := e - e % 2
    let k : Nat := 160
    let r := isqrt (2 ^ (2 * k) / x) 164
    (sticky false r (r * r * x == 2 ^ (2 * k)) (-(k : Int) - g / 2), 0)

/-- x rounded to an integral value (R301). -/
def rintVal (rm : Round) : FVal → FVal × FFlags
  | .nan s => (.nan false, flagIf s flagIV)
  | .inf n => (.inf n, 0)
  | .num n m e =>
    let r := roundAt rm n m e 0
    if 0 ≤ e then (.num n m e, 0) else (.num n r.1 0, flagIf r.2 flagNX)

/-- x 2^y (R301); counts beyond every format's range act as the nearest ones kept. -/
def ldexpVal (y : Int) : FVal → FVal × FFlags
  | .nan s => (.nan false, flagIf s flagIV)
  | .inf n => (.inf n, 0)
  | .num n m e => (.num n m (e + max (-6000) (min 6000 y)), 0)

end Sys2Proof
end

