-- ==== Sys2Proof/Machine/Addr.lean ====
section
/-!
DEFINITION. What an address names (R7 to R43): tags, local windows, regions and ranks, the page-table walk, the poison bitmap, and
the checks of R11 in their order. A translation is used from the translation cache; a miss whose walk succeeds is fetched by the
walker (PAGE_WALK) while the access waits.
-/

namespace Sys2Proof.Machine

/-- Cause codes (R397). -/
def causeIllegal : Nat := 0x01
def causeReserved : Nat := 0x02
def causePrivilege : Nat := 0x03
def causeAddrTag : Nat := 0x04
def causeNotPresent : Nat := 0x05
def causePermission : Nat := 0x06
def causeAlignment : Nat := 0x07
def causePoison : Nat := 0x08
def causeUncorrected : Nat := 0x09
def causeRankRegion : Nat := 0x0A
def causeFabricFail : Nat := 0x0B
def causeAccLeak : Nat := 0x0C
def causeEngine : Nat := 0x0D
def causeBarrier : Nat := 0x0E
def causeScope : Nat := 0x0F
def causeFp : Nat := 0x10
def causeLatch : Nat := 0x11
def causeLogFull : Nat := 0x12
def causeHalt : Nat := 0x13
def causeBreak : Nat := 0x14
def causeWatch : Nat := 0x15
def causeSoftware : Nat := 0x16
def causeAudit : Nat := 0x17
def causeStage : Nat := 0x18
def causeOverflow : Nat := 0x19

/-- A failed check: cause and detail (R10). -/
structure AddrErr where
  cause : Nat
  detail : Nat
  deriving DecidableEq, Repr

/-- The place of a failure in the order of R11. -/
def AddrErr.order (e : AddrErr) : Nat :=
  if e.cause = causeAddrTag then 1
  else if e.cause = causeScope then if e.detail = 3 then 5 else 2
  else if e.cause = causeAlignment then 3
  else if e.cause = causeRankRegion then 4
  else if e.cause = causeNotPresent then 6
  else if e.cause = causePermission then 7
  else 8

/-- What an access does at its target (R18, R28). -/
inductive Acc where
  | read | write | atomic | red | fetch
  deriving DecidableEq, Repr

def Acc.reads : Acc → Bool
  | .read | .atomic => true
  | _ => false
def Acc.writes : Acc → Bool
  | .write | .atomic | .red => true
  | _ => false

def Scope.num : Scope → Nat
  | .wv => 0 | .wg => 1 | .cl => 2 | .chip => 3 | .sys => 4 | .near => 5 | .pod => 6 | .fab => 7

/-! ### The page-table walk -/

/-- A valid memory window of a tenant with TGT `tgt` that covers a 2 MiB unit (R170). -/
def windowCovers (tgt unit : Nat) (w : W64 × W64) : Bool :=
  w.1.getLsbD 63 && bits w.1 62 61 == tgt && bits w.1 60 41 == 0 && bits w.1 20 0 == 0
    && bits w.2 63 41 == 0 && bits w.2 20 0 == 0
    && decide (bits w.1 40 21 ≤ unit) && decide (unit < bits w.1 40 21 + bits w.2 40 21)

/-- Every byte of `size` bytes at `pa` of a target lies within the tenant's windows and the installed memory (R17, R170). -/
def Tenant.owns (t : Tenant) (tgt pa size : Nat) : Bool :=
  decide (pa + size ≤ if tgt = 0 then 512000000000 else 2048000000000)
    && (List.range ((pa % 2097152 + size + 2097151) / 2097152)).all fun i =>
      t.windows.any (windowCovers tgt (pa / 2097152 + i))

/-- A pool extent entry in use (R162): base, length, PID and DPA. -/
def extentOf (e : List W64) : Option (Nat × Nat × Nat × Nat) :=
  let a := e.getD 0 0
  let l := e.getD 1 0
  let d := e.getD 2 0
  if a.getLsbD 63 && !a.getLsbD 62 && bits a 61 41 == 0 && bits a 20 0 == 0 && bits l 63 41 == 0 && bits l 20 0 == 0
      && bits d 20 0 == 0 && bits l 40 21 != 0
  then some (bits a 40 21 * 2097152, bits l 40 21 * 2097152, bits d 63 52, bits d 51 21 * 2097152) else none
/-- The pool device and its DPA for a pool address. -/
def Tenant.pool (t : Tenant) (pa : Nat) : Option (Nat × Nat) :=
  (t.extents.filterMap extentOf).findSome? fun (b, l, p, d) => if b ≤ pa ∧ pa < b + l then some (p, d + (pa - b)) else none
def Tenant.poolOwns (t : Tenant) (pa size : Nat) : Bool :=
  (List.range ((pa % 2097152 + size + 2097151) / 2097152)).all fun i => (t.pool (pa / 2097152 * 2097152 + i * 2097152)).isSome

/-- A malformed entry at a level (R15). -/
def pteBad (level : Nat) (e : W64) : Bool :=
  bits e 63 52 != 0 || bits e 11 10 != 0 || (level == 3 && !e.getLsbD 1) || (level == 0 && e.getLsbD 1)
    || (level != 0 && e.getLsbD 5) || (level != 0 && e.getLsbD 1 && bits e 7 6 != 0)
    || (!e.getLsbD 1 && level == 2 && bits e 29 12 != 0) || (!e.getLsbD 1 && level == 1 && bits e 20 12 != 0)

/-- The bit of a bitmap that covers granule n (R39, R150). -/
def bitmapBit (s : State) (base n : Nat) : Bool := (Tab.get 0 s.mem (base + n / 8)).getLsbD (n % 8)
/-- Granule n of memory is poisoned by the bitmap at a base, for some n of a run (R39). A run of more than 16 granules is aligned to
its size. -/
def anyPoison (s : State) (base n count : Nat) : Bool :=
  if count ≤ 16 then (List.range count).any fun i => bitmapBit s base (n + i)
  else s.mem.any fun c => decide (base + n / 8 ≤ c.1) && decide (c.1 < base + (n + count) / 8) && c.2 != 0

/-- The leaf as a translation (R14, R17). -/
def leafOf (s : State) (t : Nat) (va size : Nat) (e : W64) : Except Nat Tlb :=
  let tgt := bits e 7 6
  let pa := bits e 51 12 * 4096
  let ten := s.tenant t
  let ok := if tgt < 2 then ten.owns tgt pa size else if tgt = 2 then true else s.cxl && ten.poolOwns pa size
  if ok then
    .ok { home := .l1 0, tenant := t, va := va / size * size, size := size, tgt := BitVec.ofNat 2 tgt, pa := pa, r := e.getLsbD 2,
          w := e.getLsbD 3, x := e.getLsbD 4, coh := e.getLsbD 8 && s.cxl, cnt := e.getLsbD 9,
          poison := tgt < 2 && anyPoison s s.poisonBase.toNat (((if tgt = 0 then 0 else tierBase) + pa) / 4096) (size / 4096) }
  else .error 0x30

/-- The level-0 entry of an address, 64 KiB groups included (R16). -/
def walk0 (s : State) (t : Nat) (table va : Nat) : Except Nat Tlb :=
  let idx := va / 4096 % 512
  let g := s.ld64 (table + 8 * (idx / 16 * 16))
  if g.getLsbD 0 && g.getLsbD 5 then
    if pteBad 0 g || bits g 15 12 != 0 then .error 0x20 else leafOf s t va 65536 g
  else
    let e := s.ld64 (table + 8 * idx)
    if !e.getLsbD 0 then .error 0x10
    else if pteBad 0 e || e.getLsbD 5 then .error 0x20
    else leafOf s t va 4096 e

/-- The entry that a walk of a half reads for an address at a level (R38): what its page-walk cache holds, or what memory holds. -/
def State.walkEntry (s : State) (h t level va at_ : Nat) : W64 :=
  match s.walkCache.find? fun w => w.half == h && w.tenant == t && w.level == level && w.unit == va / 2 ^ (12 + 9 * level) with
  | some w => w.entry
  | none => s.ld64 at_

/-- The walk from a table of a level down (R15): the translation, or the detail of NOT_PRESENT. DESIGN CHOICE: a table in a poisoned
granule is read as it stands (log entry 51). -/
def walkFrom (s : State) (h t va : Nat) : Nat → Nat → Except Nat Tlb
  | 0, table => walk0 s t table va
  | level + 1, table =>
    let l := level + 1
    let e := s.walkEntry h t l va (table + 8 * (va / 2 ^ (12 + 9 * l) % (if l = 3 then 262144 else 512)))
    if !e.getLsbD 0 then .error (0x10 + l)
    else if pteBad l e then .error (0x20 + l)
    else if e.getLsbD 1 then
      let next := bits e 51 12 * 4096
      if (s.tenant t).owns 0 next 4096 then walkFrom s h t va level next else .error 0x30
    else leafOf s t va (2 ^ (12 + 9 * l)) e

/-- The entries of levels 3 to 1 on the path of an address. -/
def walkPath (s : State) (h t va : Nat) : Nat → Nat → List WalkEntry
  | 0, _ => []
  | level + 1, table =>
    let l := level + 1
    let e := s.walkEntry h t l va (table + 8 * (va / 2 ^ (12 + 9 * l) % (if l = 3 then 262144 else 512)))
    ⟨h, t, l, va / 2 ^ (12 + 9 * l), e⟩ :: if e.getLsbD 1 then walkPath s h t va level (bits e 51 12 * 4096) else []

/-- The walk of a virtual address by a half (R13, R15). -/
def walk (s : State) (h t va : Nat) : Except Nat Tlb :=
  let root := (s.tenant t).cur.ptRoot.toNat
  if (s.tenant t).owns 0 root 2097152 then walkFrom s h t va 3 root else .error 0x30

/-- A translation held by a cache (R37). -/
def tlbFind (s : State) (h : TlbHome) (t va : Nat) : Option Tlb :=
  s.tlb.find? fun e => e.home == h && e.tenant == t && va / e.size * e.size == e.va

/-- Entries of a cache, its half, and the cache that a miss looks in next (R37, R38). -/
def tlbSize : TlbHome → Nat
  | .l1 _ => 64
  | .l2 _ => 2048
  | .inbound _ => 512
def tlbHalf : TlbHome → Nat
  | .l1 c => c / 128
  | .l2 c => c / 16
  | .inbound d => d
def tlbNext : TlbHome → Option TlbHome
  | .l1 c => some (.l2 (c / 8))
  | _ => none

/-- A translation, or one to wait for, or a failed walk. -/
inductive Tr where
  | hit (e : Tlb)
  | miss
  | fail (detail : Nat)
  deriving DecidableEq, Repr

/-- The translation that an access finds. DESIGN CHOICE: until TLBINV a held entry is used as long as its cache holds it, never the
changed one (R19 allows either, log entry 50). -/
def translate (s : State) (h : TlbHome) (t va : Nat) : Tr :=
  match tlbFind s h t va with
  | some e => .hit e
  | none =>
    match (tlbNext h).bind (tlbFind s · t va), walk s (tlbHalf h) t va with
    | some _, _ | none, .ok _ => .miss
    | none, .error d => .fail d

/-! ### Poison -/

def State.poisoned (s : State) (dpa : Nat) : Bool := bitmapBit s s.poisonBase.toNat (dpa / 4096)
/-- A bitmap bit set or cleared. -/
def State.setBitmap (s : State) (base n : Nat) (v : Bool) : State :=
  let a := base + n / 8
  let b := Tab.get 0 s.mem a
  let m : Byte := 1#8 <<< (n % 8)
  { s with mem := Tab.put 0 s.mem a (if v then b ||| m else b &&& ~~~m) }

/-- A translation of device memory covers a granule. -/
def Tlb.covers (e : Tlb) (page : Nat) : Bool :=
  let base := (if e.tgt = 0 then 0 else tierBase) + e.pa
  decide (e.tgt.toNat < 2) && decide (base ≤ 4096 * page) && decide (4096 * page < base + e.size)
/-- The translation with its poison summary as the bitmap stands (R39). -/
def Tlb.summed (s : State) (e : Tlb) : Tlb :=
  { e with poison := decide (e.tgt.toNat < 2)
      && anyPoison s s.poisonBase.toNat (((if e.tgt = 0 then 0 else tierBase) + e.pa) / 4096) (e.size / 4096) }
/-- The poison bit of a granule, and the summaries of the translations that cover it (R39, R40). -/
def State.setPoison (s : State) (page : Nat) (v : Bool) : State :=
  let s := s.setBitmap s.poisonBase.toNat page v
  { s with tlb := s.tlb.map fun e => if e.covers page then e.summed s else e }

/-! ### Regions and ranks -/

/-- A region descriptor (R27): base, length, and AT, WR, RD; none when V counts as 0. -/
structure Region where
  base : Nat
  len : Nat
  at_ : Bool
  wr : Bool
  rd : Bool
  deriving DecidableEq, Repr

def regionOf (s : State) (t r : Nat) : Option Region :=
  let a := (s.tenant t).cur.rgnBase.toNat + 16 * r
  let lo := (s.tenant t).tables.ld64 a
  let hi := (s.tenant t).tables.ld64 (a + 8)
  if lo.getLsbD 0 && bits lo 63 57 == 0 && bits lo 11 4 == 0 && bits hi 63 41 == 0 && bits hi 11 0 == 0
  then some { base := bits lo 56 12 * 4096, len := min (bits hi 40 12 * 4096) (2 ^ 40), at_ := lo.getLsbD 3, wr := lo.getLsbD 2,
              rd := lo.getLsbD 1 }
  else none

/-- The region permission an access needs (R28). -/
def Region.permits (r : Region) : Acc → Bool
  | .read => r.rd
  | .write | .red => r.wr
  | .atomic => r.at_
  | .fetch => false

/-- A rank-run leaf as found: fabric address, Ethernet port, path set. -/
structure RankLeaf where
  fabric : W64
  ether : Bool
  pset : Nat
  deriving DecidableEq, Repr

/-- FIRST of run i of a list. -/
def runFirst (m : Memory) (list i : Nat) : Nat := bits (m.ld64 (list + 32 * i)) 16 0

/-- A malformed run (R31). -/
def runBad (m : Memory) (a : Nat) : Bool :=
  let w0 := m.ld64 a
  let w1 := m.ld64 (a + 8)
  let w2 := m.ld64 (a + 16)
  let w3 := m.ld64 (a + 24)
  let kind := bits w0 63 62
  bits w0 61 42 != 0 || bits w0 23 17 != 0 || bits w0 41 24 == 0 || decide (131072 < bits w0 41 24) || decide (2 ≤ kind)
    || bits w2 13 0 != 0 || (kind == 0 && (decide (2 ≤ bits w2 15 14) || w3 != 0))
    || (kind == 1 && (bits w1 63 12 != 0 || bits w1 11 0 == 0 || bits w3 4 0 != 0))

/-- The rank lookup (R32), with the detail of RANK_REGION on failure. `fuel` is 3 less the level. DESIGN CHOICE: of two runs with the
same greatest FIRST it takes the later one (log entry 52). -/
def rankFind (m : Memory) (n : Nat) : Nat → Nat → Nat → Except Nat RankLeaf
  | 0, _, _ => .error 0x05
  | fuel + 1, list, count =>
    match ((List.range count).filter fun i => runFirst m list i ≤ n).foldl
        (fun b i => match b with
          | none => some i
          | some j => if runFirst m list j ≤ runFirst m list i then some i else some j) none with
    | none => .error 0x02
    | some i =>
      let a := list + 32 * i
      let w0 := m.ld64 a
      let first := bits w0 16 0
      if first + bits w0 41 24 ≤ n then .error 0x02
      else if runBad m a || (bits w0 63 62 == 1 && fuel == 0) then .error 0x05
      else
        let w1 := m.ld64 (a + 8)
        let w2 := m.ld64 (a + 16)
        if bits w0 63 62 = 0 then
          .ok { fabric := w1 + BitVec.ofNat 64 (n - first) * ((w2.extractLsb' 32 32).signExtend 64),
                ether := bits w2 15 14 == 1, pset := bits w2 31 16 }
        else rankFind m n fuel (m.ld64 (a + 24)).toNat (bits w1 11 0)

def rankLookup (s : State) (t n : Nat) : Except Nat RankLeaf :=
  let c := (s.tenant t).cur
  rankFind (s.tenant t).tables n 3 c.rankBase.toNat c.rankCount.toNat

/-- The level of a rank (R99): 5 near, 6 pod, 7 fabric. -/
def rankLevel (s : State) (l : RankLeaf) : Nat :=
  let id := bits l.fabric 9 0
  if l.ether then 7
  else if bitmapBit s (bits s.scopeCfg 51 7 * 128) id then 5 else 6

/-- A path-set entry (R124): enabled paths, level, sibling group, timeout; none fails with RANK_REGION 0x05. -/
structure PathSet where
  en : W64
  level : Nat
  sib : Nat
  tmo : Nat
  deriving DecidableEq, Repr

def pathSet (s : State) (t n : Nat) : Option PathSet :=
  let c := (s.tenant t).cur
  let m := (s.tenant t).tables
  let a := c.psetBase.toNat + 64 * n
  let en := m.ld64 a
  let w := m.ld64 (a + 8)
  if n < c.psetCount.toNat ∧ en ≠ 0 ∧ bits w 41 40 ≠ 0 ∧ bits w 37 32 ≠ 63 ∧ bits w 47 42 = 0 ∧ bits w 39 38 = 0
      ∧ bits w 31 0 = 0 ∧ ((List.range 6).all fun i => m.ld64 (a + 16 + 8 * i) == 0) = true
  then some { en := en, level := bits w 41 40, sib := bits w 37 32, tmo := if bits w 63 48 = 0 then 2000 else bits w 63 48 }
  else none

/-! ### Resolution of an access (R11, R315) -/

/-- An access that passed the checks: where its bytes lie, whether it is far, and whether its page is counted (R42). -/
structure Resolved where
  target : FarTarget
  far : Bool
  cnt : Bool
  deriving DecidableEq, Repr

/-- A failed check, a walk to wait for, or the place. -/
inductive Res where
  | ok (r : Resolved)
  | miss (va : Nat)
  | err (e : AddrErr)
  deriving DecidableEq, Repr

def Res.fail (cause detail : Nat) : Res := .err ⟨cause, detail⟩

/-- Page permission and poison of an access (R18, R39): with a summary of 0 the bitmap is not read. DESIGN CHOICE: an atomic that lacks
both RD and WR reports detail 0x01 (log entry 53). -/
def pageCheck (s : State) (e : Tlb) (va size : Nat) (acc : Acc) : Option AddrErr :=
  if acc.reads && !e.r then some ⟨causePermission, 1⟩
  else if acc.writes && !e.w then some ⟨causePermission, 2⟩
  else if acc == .fetch && !e.x then some ⟨causePermission, 3⟩
  else if e.tgt.toNat < 2 ∧ e.poison ∧ s.poisoned ((if e.tgt = 0 then 0 else tierBase) + e.pa + (va - e.va)) ∧ 0 < size then
    some ⟨causePoison, if acc == .fetch then 2 else 1⟩
  else none

/-- The target of `size` bytes at a translated address. -/
def pageTarget (s : State) (t : Nat) (e : Tlb) (va size : Nat) : FarTarget :=
  let pa := e.pa + (va - e.va)
  match e.tgt.toNat with
  | 0 => .chip ((List.range size).map fun i => .mem (pa + i))
  | 1 => .chip ((List.range size).map fun i => .mem (tierBase + pa + i))
  | 2 => .host pa e.coh 4
  | _ =>
    match (s.tenant t).pool pa with
    | some (p, d) => .pool p d 4
    | none => .pool 0 0 4
/-- The same for an access through the private window: its words lie 256 bytes apart (R67). -/
def FarTarget.spread : FarTarget → FarTarget
  | .host pa coh _ => .host pa coh 256
  | .pool p d _ => .pool p d 256
  | t => t

/-- A tag-0b00 or own-rank access at virtual address `va`; `perm` is the failed region permission, checked with the page's. -/
def resolveVa (s : State) (h : TlbHome) (t va size : Nat) (sc : Scope) (acc : Acc) (perm : Bool) : Res :=
  match translate s h t va with
  | .miss => .miss va
  | .fail d => .fail causeNotPresent d
  | .hit e =>
    if perm then .fail causePermission 6
    else match pageCheck s e va size acc with
      | some x => .err x
      | none => .ok { target := pageTarget s t e va size, far := decide (2 ≤ e.tgt.toNat ∨ 4 ≤ Scope.num sc), cnt := e.cnt }

/-- The thread's flat index in the grid, or in its stage slot (R67, R205). -/
def Wg.threadIndex (g : Wg) (tid : Nat) : Nat :=
  if g.stage = 0 then g.index * g.threads + tid else g.slotNo * (64 * g.nwaves) + tid
/-- The virtual address of private offset o of thread t (R67). -/
def Wg.privVa (g : Wg) (t o : Nat) : Nat :=
  g.privBase.toNat + t / 64 * (g.privSize * 64) + o / 4 * 256 + t % 64 * 4 + o % 4

/-- Local windows (R20 to R24) as wave k and lane l of a workgroup name them. -/
def resolveWindow (s : State) (k l : Nat) (ea : W64) (size : Nat) (sc : Scope) (acc : Acc) : Res :=
  let w := s.wave k
  let g := s.wg w.wg
  let code := bits ea 61 56
  let hi := fun n => bits ea 55 n
  if 4 ≤ code then .fail causeAddrTag 2
  else if hi (if code = 0 then 24 else if code = 1 then 19 else if code = 2 then 32 else 18) ≠ 0 then .fail causeAddrTag 3
  else if 4 ≤ Scope.num sc then .fail causeScope 1
  else if ea.toNat % size ≠ 0 then .fail causeAlignment 1
  else match code with
  | 0 =>
    let off := bits ea 23 0
    let odd := off / 2 ^ 23 = 1
    let part := off % 2 ^ 23
    -- bit 23 names the partner core's part (R21); the model keys the odd core's part by bit 23
    let mineOdd := s.coreOf k ≠ g.core
    let key := if (odd ∧ ¬ mineOdd) ∨ (¬ odd ∧ mineOdd) then 2 ^ 23 + part else part
    if (odd ∧ ¬ g.pair) ∨ g.scrUnits * 2048 < part + size then .fail causePermission 4
    else if Tab.get false g.spoiled (key / 128) then .fail causePoison 1
    else .ok { target := .chip ((List.range size).map fun i => .scr w.wg (key + i)), far := false, cnt := false }
  | 1 =>
    let n := bits ea 18 15
    let v := bits ea 14 8
    let here := if g.pair then g.nwaves / 2 else g.nwaves
    let idx := if s.coreOf k ≠ g.core then here + n else n
    if here ≤ n ∨ g.alloc ≤ v ∨ 120 ≤ v then .fail causePermission 4
    else if acc.reads && (List.range size).any fun i =>
        ((s.wave (32 * w.wg + idx)).badLanes v).getLsbD ((bits ea 7 0 + i) / 4) then .fail causeUncorrected 1
    else .ok { target := .chip ((List.range size).map fun i => .reg (32 * w.wg + idx) (bits ea 14 0 + i)), far := false, cnt := false }
  | 2 =>
    let o := bits ea 31 0
    let th := g.threadIndex (64 * w.idx + l)
    if g.privSize < o + size then .fail causePermission 4
    else
      let va := g.privVa th o
      if 2 ^ 57 ≤ va then .fail causeAddrTag 3
      else match translate s (.l1 (s.coreOf k)) g.tenant va with
        | .miss => .miss va
        | .fail d => .fail causeNotPresent d
        | .hit e =>
          match pageCheck s e va size acc with
          | some x => .err x
          | none =>
            if 2 ≤ e.tgt.toNat then .ok { target := (pageTarget s g.tenant e va size).spread, far := true, cnt := e.cnt }
            else
              let base := (if e.tgt = 0 then 0 else tierBase) + e.pa
              .ok { target := .chip ((List.range size).map fun i => .mem (base + (g.privVa th (o + i) - e.va))), far := false,
                    cnt := e.cnt }
  | _ =>
    let bank := bits ea 17 11
    if acc.writes then .fail causePermission 5
    else if !g.held.getLsbD bank then .fail causePermission 7
    else if (s.core (s.coreOf k)).badBanks.contains bank then .fail causeUncorrected 2
    else .ok { target := .chip ((List.range size).map fun i => .acc (s.coreOf k) (bits ea 17 0 + i)), far := false, cnt := false }

/-- A global address (R26 to R30). -/
def resolveGlobal (s : State) (h : TlbHome) (t : Nat) (ea : W64) (size : Nat) (sc : Scope) (acc : Acc) : Res :=
  let c := (s.tenant t).cur
  let rank := bits ea 61 45
  let off := bits ea 39 0
  if ea.toNat % size ≠ 0 then .fail causeAlignment 1
  else if c.jobSize.toNat ≤ rank then .fail causeRankRegion 1
  else match regionOf s t (bits ea 44 40) with
  | none => .fail causeRankRegion 3
  | some r =>
    if r.len < off + size then .fail causeRankRegion 4
    else if rank = c.jobRank.toNat then
      if 2 ^ 57 ≤ r.base + off then .fail causeAddrTag 3
      else resolveVa s h t (r.base + off) size sc acc (!r.permits acc)
    else match rankLookup s t rank with
    | .error d => .fail causeRankRegion d
    | .ok leaf =>
      if leaf.ether && (pathSet s t leaf.pset).isNone then .fail causeRankRegion 5
      else if Scope.num sc < rankLevel s leaf then .fail causeScope 3
      else if !r.permits acc then .fail causePermission 6
      else if leaf.ether then
        .ok { target := .remote rank (bits ea 44 40) off (c.jobPrefix ++ leaf.fabric) leaf.pset, far := true, cnt := false }
      else
        .ok { target := .pod ⟨rank, bits ea 44 40, off / 128⟩ (off % 128) (bits leaf.fabric 9 0), far := true, cnt := false }

/-- The checks of R11 on one lane's access of `size` bytes. -/
def resolve (s : State) (k l : Nat) (ea : W64) (size : Nat) (sc : Scope) (acc : Acc) : Res :=
  let t := (s.wg (s.wave k).wg).tenant
  match bits ea 63 62 with
  | 0 =>
    if bits ea 61 57 ≠ 0 then .fail causeAddrTag 3
    else if 5 ≤ Scope.num sc then .fail causeScope 2
    else if ea.toNat % size ≠ 0 then .fail causeAlignment 1
    else resolveVa s (.l1 (s.coreOf k)) t (bits ea 56 0) size sc acc false
  | 1 => resolveWindow s k l ea size sc acc
  | 2 => .fail causeAddrTag 1
  | _ => resolveGlobal s (.l1 (s.coreOf k)) t ea size sc acc

/-- The translation that an access of a wave and lane to this device uses, and the virtual address (R23, R26): none for the wave's own
storage, nor where no cache of its core holds one. -/
def pageOf (s : State) (k l : Nat) (ea : W64) : Option (Tlb × Nat) :=
  let g := s.wg (s.wave k).wg
  let va := match bits ea 63 62 with
    | 0 => some (bits ea 56 0)
    | 1 => if bits ea 61 56 = 2 then some (g.privVa (g.threadIndex (64 * (s.wave k).idx + l)) (bits ea 31 0)) else none
    | _ => (regionOf s g.tenant (bits ea 44 40)).map fun (r : Region) => r.base + bits ea 39 0
  va.bind fun va => (tlbFind s (.l1 (s.coreOf k)) g.tenant va).map fun e => (e, va)
/-- The granule of device memory that it names. -/
def granuleOf (s : State) (k l : Nat) (ea : W64) : Option Nat :=
  (pageOf s k l ea).bind fun (e, va) =>
    if e.tgt.toNat < 2 then some (((if e.tgt = 0 then 0 else tierBase) + e.pa + (va - e.va)) / 4096) else none
/-- Its page is counted (R42). -/
def countedAt (s : State) (k l : Nat) (ea : W64) : Bool := (pageOf s k l ea).any fun x => x.1.cnt
/-- Poisoned granules that a tenant has consumed (R36). -/
def State.consume (s : State) (t n : Nat) : State :=
  if n = 0 then s else s.modTenant t fun x => { x with poisonStat := min (2 ^ 64 - 1) (x.poisonStat + n) }

/-- An entry takes a free place of its cache, or that of a free victim (R37). -/
def State.holdTlb (s : State) (e : Tlb) : State :=
  let mine := s.tlb.filter (·.home == e.home)
  if mine.length < tlbSize e.home then { s with tlb := s.tlb ++ [e] }
  else { s with fresh := s.fresh + 1, tlb := s.tlb.erase (mine.getD (Config.victim s.fresh % mine.length) e) ++ [e] }
/-- The same for an entry of a walk; one that is held already stays. -/
def State.holdWalk (s : State) (w : WalkEntry) : State :=
  let mine := s.walkCache.filter (·.half == w.half)
  if s.walkCache.contains w then s
  else if mine.length < 4096 then { s with walkCache := s.walkCache ++ [w] }
  else { s with fresh := s.fresh + 1, walkCache := s.walkCache.erase (mine.getD (Config.victim s.fresh % mine.length) w) ++ [w] }
/-- A miss is filled from the next cache, or by a walk that succeeds (R37, R38): its entries of levels 3 to 1 and its translation
enter the caches. -/
def State.fillTlb (s : State) (h : TlbHome) (t va : Nat) : State :=
  if (tlbFind s h t va).isSome then s
  else match (tlbNext h).bind (tlbFind s · t va) with
  | some e => s.holdTlb { e with home := h }
  | none =>
    match walk s (tlbHalf h) t va with
    | .error _ => s
    | .ok e =>
      let s := (walkPath s (tlbHalf h) t va 3 (s.tenant t).cur.ptRoot.toNat).foldl State.holdWalk s
      (h :: (tlbNext h).toList).foldl (fun s h => s.holdTlb { e with home := h }) s

/-- A device-virtual address of system software's making (completion blocks, tables), as device memory: its DPA (R193, R208). The
device walks for it and keeps no translation. -/
def deviceVa (s : State) (t va size : Nat) (w : Bool) : Option Nat :=
  match walk s 0 t va with
  | .error _ => none
  | .ok e =>
    if e.tgt.toNat < 2 ∧ e.r = true ∧ (w = true → e.w = true) ∧ va + size ≤ e.va + e.size then
      some ((if e.tgt = 0 then 0 else tierBase) + e.pa + (va - e.va))
    else none

end Sys2Proof.Machine
end

