-- ==== Sys2Proof/Machine/Stall.lean ====
section
/-!
DEFINITION. What an access of the device to its own memory waits for at the home (R118, R150 to R155): the recall of a pod line owned
elsewhere, the back-invalidation of a 64-byte line that the host may hold, a page whose bias flips.
-/

namespace Sys2Proof.Machine

/-- What an access waits for. -/
inductive Stall where
  | engine | commit | local_
  /-- back-invalidation of a 64-byte line, for a write or not (R151) -/
  | inv (line : Nat) (write : Bool)
  /-- the recall of a pod line owned elsewhere (R118) -/
  | recall (line : Nat)
  deriving DecidableEq, Repr

def State.hostBias (s : State) (dpa : Nat) : Bool := bitmapBit s s.biasBase.toNat (dpa / 4096)

/-- The 64-byte line whose back-invalidation must come before a device access: for a write a BISnpInv (R151). -/
def State.invNeed (s : State) (dpa : Nat) (write : Bool) : Option Nat :=
  let line := dpa / 64
  if !s.cxl then none
  else if s.hostBias dpa then (if s.invDone.any fun d => d.1 == line && (d.2 || !write) then none else some line)
  else if s.snoop.contains line then some line else none
/-- Answers used up by the accesses they were made for. -/
def State.invUse (s : State) (ls : List Loc) : State :=
  let used := ls.filterMap fun l => match l with
    | .mem a => some (a / 64)
    | _ => none
  { s with invDone := s.invDone.filter fun d => !used.contains d.1 }
/-- A back-invalidation sent for an access, unless one that serves it is under way. -/
def State.askInv (s : State) (line : Nat) (write : Bool) : State :=
  if s.invWaits.any fun w => w.1 == line && (w.2.1 || !write) then s
  else { s with invWaits := s.invWaits ++ [(line, write, false)] }.send (.backInval line write)

/-- The recall of a line from its owner is sent (R116), once. -/
def State.askRecall (s : State) (line : Nat) : State :=
  let e := Tab.get {} s.dir line
  match e.owner with
  | some o =>
    if e.recalling then s
    else { s with dir := Tab.put {} s.dir line { e with recalling := true } }.send (.recall o e.tenant e.name (s.tenant e.tenant).podClock)
  | none => s
/-- What is asked for while something waits. -/
def State.askFor (s : State) : Stall → State
  | .inv l w => s.askInv l w
  | .recall l => s.askRecall l
  | _ => s

/-- What a device access to a byte of memory waits for, flips aside. -/
def State.memStall (s : State) (dpa : Nat) (write : Bool) : Option Stall :=
  match (Tab.get {} s.dir (dpa / 128)).owner, s.invNeed dpa write with
  | some _, _ => some (.recall (dpa / 128))
  | none, some l => some (.inv l write)
  | none, none => none
/-- The same, flips among it: what a write at its home, or a new access, waits for. -/
def State.memWait (s : State) (write : Bool) : Loc → Option Stall
  | .mem a => if s.flips.any (·.page == a / 4096) then some .local_ else s.memStall a write
  | _ => none

end Sys2Proof.Machine
end

