-- ==== Sys2Proof/Machine/Cache.lean ====
section
/-!
DEFINITION. The level-1 caches of the cores, fused by cluster (R64, R65), as far as they can be seen: which lines they hold, so that a
line request that they satisfy does not enter the access record (R43). Their data are those of the home slices, at every moment.
-/

namespace Sys2Proof.Machine

/-- Units of the unified store that a workgroup holds on a core (R45). -/
def Wg.unitsOn (g : Wg) (c : Nat) : Nat :=
  let n := ((List.range g.nwaves).filter fun i => g.coreOf i == c).length
  n * ((g.regs + 7) / 8 + 4) + (if c = g.core ∨ (g.pair ∧ c = g.core + 1) then g.scrUnits else 0)
/-- Units left to the level-1 cache of a core, each 16 lines: one set of 16 ways (R44, R45, R65). -/
def State.l1Units (s : State) (c : Nat) : Nat :=
  768 - ((s.wgs.filter fun p => p.2.live && !p.2.saved).map fun p => p.2.unitsOn c).sum

/-- The one core of a core's cluster whose cache may hold the line of a key (R65). -/
def l1Core (c : Nat) (key : W64) : Nat :=
  c / 8 * 8 + (bits key 2 0 ^^^ bits key 5 3 ^^^ bits key 8 6 ^^^ bits key 11 9)

/-- A line request of a core: true where the fused cache holds the line; else the home slice serves it, and it is filled into its core
alone. DESIGN CHOICE: the set of a line is its number modulo the number of sets, and the victim is free (log entry 55). -/
def State.l1Request (s : State) (c : Nat) (key : W64) : State × Bool :=
  let q := l1Core c key
  let x := s.core q
  if x.storeOff then (s, false)
  else if x.l1.contains key then (s.modCore q fun x => { x with storeUsed := s.cycle }, true)
  else
    let s := s.modCore q fun x => { x with storeUsed := s.cycle }
    let sets := max 1 (s.l1Units q)
    let set := x.l1.filter fun k => k.toNat % sets == key.toNat % sets
    if set.length < 16 then (s.modCore q fun x => { x with l1 := x.l1 ++ [key] }, false)
    else
      let victim := set.getD (Config.victim s.fresh % set.length) key
      (({ s with fresh := s.fresh + 1 } : State).modCore q fun x => { x with l1 := x.l1.erase victim ++ [key] }, false)

/-- Lines written leave the caches (R64). -/
def State.l1Drop (s : State) (keys : List W64) : State :=
  (s.cores.filter fun p => p.2.l1.any keys.contains).foldl (fun s p =>
    s.modCore p.1 fun x => { x with l1 := x.l1.filter fun k => !keys.contains k }) s
/-- A core's part gives up its lines: its units are allocated or freed (R45), or its store is turned off (R75). -/
def State.l1Clear (s : State) (c : Nat) : State := s.modCore c fun x => { x with l1 := [] }

/-- Counted requests of a page (R43). -/
def State.countLine (s : State) (l : Loc) (write remote : Bool) : State :=
  match l with
  | .mem a =>
    let c := Tab.get (0, 0, 0) s.counts (a / 65536)
    let c := if write then (c.1, c.2.1 + 1, c.2.2) else (c.1 + 1, c.2.1, c.2.2)
    let c := if remote then (c.1, c.2.1, c.2.2 + 1) else c
    { s with counts := Tab.put (0, 0, 0) s.counts (a / 65536) c }
  | _ => s

/-- Reads of lines of device memory by a core, each with whether its page is counted: each line is asked for once (R43, R65). A line of a
host-bias page is not retained (R151). -/
def State.readLines (s : State) (c : Nat) (ls : List (Loc × Bool)) : State :=
  ((ls.map fun x => (x.1.line, x.2)).eraseDups).foldl (fun s (l, cnt) =>
    match l, s.lineKey l with
    | .mem a, some key =>
      let (s, hit) := if s.cxl && s.hostBias a then (s, false) else s.l1Request c key
      if cnt && !hit then s.countLine l false false else s
    | _, _ => s) s

end Sys2Proof.Machine
end

