-- ==== Sys2Proof/Machine/Log.lean ====
section
/-!
DEFINITION. Records the device writes about its own running: tenant interrupts (R172), the Sepia log's entries and room (R441 to
R450), the trace ring (R439, R440).
-/

namespace Sys2Proof.Machine

/-! ### The Sepia ring -/

def Tenant.logN (t : Tenant) : Nat := bits t.logCtl 4 0
def Tenant.logSize (t : Tenant) : Nat := 2 ^ t.logN
/-- Entries that fit beside the two kept free (R450). -/
def Tenant.logFree (t : Tenant) : Nat := t.logSize - (t.logTail - t.logHead) - 2
/-- The address of entry i. -/
def Tenant.logAddr (t : Tenant) (i : Nat) : Nat := t.logBase.toNat + 32 * (i % t.logSize)

/-- One entry written at the tail. -/
def State.logWrite (s : State) (t : Nat) (e : List W64) : State :=
  let x := s.tenant t
  let s := (e.zipIdx).foldl (fun s (v, i) => s.st64 (x.logAddr x.logTail + 8 * i) v) s
  s.setTenant t { x with logTail := x.logTail + 1 }

def kindWord (kind : Nat) : W64 := BitVec.ofNat 64 (kind * 2 ^ 58)

/-- Logging ends with a final marker (R441, R450). -/
def State.logStop (s : State) (t : Nat) : State :=
  let x := s.tenant t
  let s := s.logWrite t [kindWord 2 ||| BitVec.ofNat 64 x.logWin, 0, BitVec.ofNat 64 s.lastTs, 0]
  s.modTenant t fun x => { x with logCtl := x.logCtl &&& ~~~(1#64 <<< 63), past := [], admits := [], revTarget := none, revExtra := none }

/-! ### The context as it was (log entry 30) -/

/-- A tenant's part of the device, memory aside, as it stands now. -/
def State.capture (s : State) (t : Nat) : Past :=
  let mine := fun (g : Nat) => (s.wg g).tenant == t
  let x := s.tenant t
  { at_ := x.logTail, waves := s.waves.filter fun p => mine p.2.wg, wgs := s.wgs.filter fun p => p.2.tenant == t,
    launches := s.launches.filter fun p => p.2.tenant == t, cmds := s.cmds.filter fun c => c.tenant == t,
    cores := s.cores.filter fun p => p.2.assigned && p.2.tenant == t,
    packets := s.packets.filter fun p => mine (s.wave p.wave).wg,
    slots := x.slotsUsed.map fun i =>
      let base := x.cur.saveBase.toNat + 2097152 * i
      (base, s.mem.filter fun c => decide (base ≤ c.1) && decide (c.1 < base + 2097152)),
    progcnt := x.progcnt, lastLaunch := x.lastLaunch, slotsUsed := x.slotsUsed }
/-- It is kept with the entry written next; what lies before LOG_HEAD goes. -/
def State.journal (s : State) (t : Nat) : State :=
  let p := s.capture t
  s.modTenant t fun x => { x with past := p :: x.past.filter fun q => decide (x.logHead ≤ q.at_),
                                  admits := x.admits.filter fun a => decide (x.logHead ≤ a.1) }
/-- The log entries after the target of a completed reverse command are discarded; those of a chunk that it replayed in part follow
(R455). -/
def State.truncate (s : State) (t : Nat) : State :=
  let x := s.tenant t
  match x.revTarget with
  | none => s
  | some n =>
    let ms := x.markers.filter fun m => decide (m.1 < n)
    let s := s.setTenant t { x with
      logTail := n, markers := ms, logWin := ((ms.getLast?).map (·.2)).getD x.logWin, fixedUndo := x.fixedUndo.filter (· < n),
      past := (x.revExtra.map (·.1)).toList ++ x.past.filter fun p => decide (p.at_ < n),
      admits := x.admits.filter fun a => decide (a.1 ≤ n), revTarget := none, revExtra := none }
    ((x.revExtra.map (·.2)).getD []).foldl (fun s e => s.logWrite t e) s

/-- Wrap mode: LOG_HEAD moves to the next window marker until `n` entries fit (R450). -/
def Tenant.logWrap (t : Tenant) (n : Nat) : Nat → Tenant
  | 0 => t
  | fuel + 1 =>
    if n ≤ t.logFree then t
    else match t.markers.filter fun m => t.logHead < m.1 with
      | [] => t
      | (i, w) :: ms => Tenant.logWrap { t with logHead := i, logOldest := w, markers := (i, w) :: ms } n fuel

/-- The vector of a source of R172, where INT_MAP enables it. DESIGN CHOICE: every function has all 64 vectors that R167 allows (log entry
63). -/
def Tenant.vectorOf (t : Tenant) (src : Nat) : Option Nat :=
  let m := bits (t.intMap >>> (8 * src)) 7 0
  if m / 128 = 1 then some (m % 64) else none
/-- Source 2 tells of the full log itself, which can then take no seal. -/
def State.interruptFull (s : State) (t : Nat) : State :=
  match (s.tenant t).vectorOf 2 with
  | some v => s.send (.interrupt (t + 1) v)
  | none => s

/-- Entries appended in one piece: none when the log is full in stall mode (R450). Nothing is appended while a chunk is replayed
(R454). -/
def State.logTry (s : State) (t : Nat) (es : List (List W64)) : Option State :=
  if !(s.tenant t).logging || (s.tenant t).reverse.isSome || es.isEmpty then some s
  else
    let s := s.truncate t
    let x := s.tenant t
    let put := fun (s : State) => es.foldl (fun s e => s.logWrite t e) (s.journal t)
    if es.length ≤ x.logFree then some (put s)
    else if x.logMode = 0 then none
    else
      let y := if x.logMode = 1 then x.logWrap es.length x.markers.length else x
      if es.length ≤ y.logFree then some (put (s.setTenant t y)) else some (s.logStop t)

/-- Entries of an act that cannot wait: a full log in stall mode ends as in stop mode (R450). -/
def State.logForce (s : State) (t : Nat) (es : List (List W64)) : State :=
  match s.logTry t es with
  | some s => s
  | none => (s.interruptFull t).logStop t

/-- An interrupt on a vector of a tenant, sealed in the log (R447); with the log full in stall mode it waits (R450). -/
def State.vector (s : State) (t v : Nat) : State :=
  match s.logTry t [[kindWord 7, 0, 0, BitVec.ofNat 64 v]] with
  | some s => s.send (.interrupt (t + 1) v)
  | none => (s.modTenant t fun x => { x with intWait := x.intWait ++ [v] }).interruptFull t
/-- The interrupt of a source of R172. -/
def State.interrupt (s : State) (t src : Nat) : State :=
  if src = 2 then s.interruptFull t
  else match (s.tenant t).vectorOf src with
  | some v => s.vector t v
  | none => s
/-- Waiting interrupts tried again once entries are free. -/
def State.retryInterrupts (s : State) (t : Nat) : State :=
  let vs := (s.tenant t).intWait
  vs.foldl (fun s v => s.vector t v) (s.modTenant t fun x => { x with intWait := [] })

/-! ### Entries -/

def widthCode (n : Nat) : Nat := if n ≤ 1 then 0 else if n ≤ 2 then 1 else if n ≤ 4 then 2 else if n ≤ 8 then 3 else 4

/-- LAUNCH in [63:32] and the workgroup in [31:0]. -/
def wgTag (s : State) (g : Nat) : W64 :=
  BitVec.ofNat 64 ((s.launch (s.wg g).launch).num * 2 ^ 32 + (s.wg g).index % 2 ^ 32)

/-- TGT and ADDR of a place (R444). -/
def logPlace (s : State) : Loc → Nat × Nat
  | .mem a => if a < tierBase then (0, a) else (1, a - tierBase)
  | .scr _ o => (2, o)
  | .reg k o => (2, 2 ^ 24 + (s.wave k).idx * 2 ^ 15 + o)
  | .acc _ o => (2, 3 * 2 ^ 24 + o)

/-- An undo entry (kind 4) or input placement (kind 6) for `bytes` at a place; `ts` is the timestamp or the workgroup tag. -/
def placeEntry (s : State) (kind : Nat) (l : Loc) (bytes : List Byte) (ts : W64) : List W64 :=
  let p := logPlace s l
  let v := leNat bytes
  [kindWord kind ||| BitVec.ofNat 64 (widthCode bytes.length * 2 ^ 55 + p.1 * 2 ^ 53 + p.2),
   BitVec.ofNat 64 v, BitVec.ofNat 64 (v / 2 ^ 64), ts]
/-- A run of n bytes cut into pieces of 16, 8, 4, 2 and 1 bytes: offset and length of each (the widths of R444). -/
def cuts (off n : Nat) : List (Nat × Nat) :=
  let k := n / 16
  (List.range k).map (fun i => (off + 16 * i, 16)) ++
  ([8, 4, 2, 1].foldl (fun (acc : List (Nat × Nat) × Nat × Nat) w =>
    if w ≤ acc.2.2 then (acc.1 ++ [(acc.2.1, w)], acc.2.1 + w, acc.2.2 - w) else acc) ([], off + 16 * k, n - 16 * k)).1
/-- The TS word of an undo entry. -/
def undoTs (s : State) (l : Loc) (g ts : Nat) : W64 :=
  match l with
  | .mem _ => BitVec.ofNat 64 ts
  | _ => wgTag s g

/-- Bytes 0 to 15 of a record that names a wave (R445). -/
def waveWord0 (s : State) (kind extra k : Nat) : W64 :=
  let w := s.wave k
  kindWord kind ||| BitVec.ofNat 64 (extra + w.idx * 2 ^ 39 + (s.wg w.wg).index % 2 ^ 32)
def waveWord1 (s : State) (k : Nat) : W64 :=
  let w := s.wave k
  BitVec.ofNat 64 ((s.launch (s.wg w.wg).launch).num * 2 ^ 32 + w.nchk % 2 ^ 32)

/-- The lowest counter among the lanes of a chunk's start that have not exited. -/
def lowPc (ls : List Lane) : W64 :=
  match (ls.filter fun l => !l.exited).map (·.pc.toNat) with
  | [] => (ls.headD {}).pc
  | p :: ps => BitVec.ofNat 64 (ps.foldl min p)

/-- A commit record (R445). -/
def commitEntry (s : State) (k : Nat) (c : Chunk) (local_ : Bool) (ts : Nat) : List W64 :=
  [waveWord0 s 3 ((if local_ then 2 ^ 57 else 0) + c.issued * 2 ^ 44) k, waveWord1 s k,
   BitVec.ofNat 64 ((if local_ then 2 ^ 63 else 0) + ts), lowPc c.start]

/-- A seal (R447). -/
def sealEntry (s : State) (k : Nat) (addr : W64) : List W64 := [waveWord0 s 7 0 k, waveWord1 s k, 0, addr]

/-- An input value (R446) of lane l. -/
def inputEntry (s : State) (k l n : Nat) (v : Nat) : List W64 :=
  [waveWord0 s 5 (widthCode n * 2 ^ 55 + l * 2 ^ 32) k, waveWord1 s k, BitVec.ofNat 64 v, BitVec.ofNat 64 (v / 2 ^ 64)]

/-- The tenant of a wave. -/
def State.waveTenant (s : State) (k : Nat) : Nat := (s.wg (s.wave k).wg).tenant

/-- A seal appended for a wave; none while a full log in stall mode makes the act wait (R450). -/
def State.logSeal (s : State) (k : Nat) (addr : W64) : Option State := s.logTry (s.waveTenant k) [sealEntry s k addr]

/-! ### The trace ring -/

/-- A trace record of a kind, if enabled (R439, R440); dropped and counted when the ring is full. -/
def State.traceAs (s : State) (t kind : Nat) (who : W64 × Nat) (info : Nat) (pc : W64) : State :=
  let x := s.tenant t
  let size := 2 ^ bits x.traceCtl 4 0
  if !(x.traceCtl.getLsbD 8 && x.traceCtl.getLsbD (16 + kind)) || x.reverse.isSome then s
  else
    let put := fun (s : State) (i : Nat) (ws : List W64) =>
      (ws.zipIdx).foldl (fun s (v, j) => s.st64 (x.traceBase.toNat + 32 * (i % size) + 8 * j) v) s
    let time := BitVec.ofNat 64 (s.time / 756)
    let rec_ := [BitVec.ofNat 64 (kind * 2 ^ 56 + t * 2 ^ 48) ||| who.1, BitVec.ofNat 64 (who.2 * 2 ^ 32 + info % 2 ^ 32), time, pc]
    let used := x.traceTail - x.traceHead
    if size ≤ used then s.setTenant t { x with traceLost := x.traceLost + 1 }
    else if x.traceLost ≠ 0 ∧ used + 2 ≤ size then
      let lost := [BitVec.ofNat 64 (14 * 2 ^ 56 + t * 2 ^ 48), BitVec.ofNat 64 (x.traceLost % 2 ^ 32), time, 0]
      let s := put (put s x.traceTail lost) (x.traceTail + 1) rec_
      s.setTenant t { x with traceTail := x.traceTail + 2, traceLost := 0 }
    else (put s x.traceTail rec_).setTenant t { x with traceTail := x.traceTail + 1 }
/-- The record of a wave's lane, of a launch, or of neither. -/
def State.trace (s : State) (t kind : Nat) (wave : Option Nat) (lane info : Nat) (pc : W64) : State :=
  s.traceAs t kind (match wave with
    | some k => (BitVec.ofNat 64 ((s.wave k).idx * 2 ^ 40 + lane * 2 ^ 32 + (s.wg (s.wave k).wg).index % 2 ^ 32),
        (s.launch (s.wg (s.wave k).wg).launch).num)
    | none => (0, 0)) info pc
def State.traceLaunch (s : State) (n kind info : Nat) : State := s.traceAs (s.launch n).tenant kind (0, (s.launch n).num) info 0

end Sys2Proof.Machine
end

