-- ==== Sys2Proof/Machine/Ops.lean ====
section
/-!
DEFINITION. The named operations of the machine: reads and writes of a chunk (R80 to R82), squashes (R88, R90 to R92), writes that
take their own place in the commit order (R106, R149), barrier objects, completion counters and stage queues at their homes,
the waits they release, faults recorded beside a wave (R405), launch aborts and containment unwinds (R387, R406), and taking a
trap and returning from one (R395 to R404).
-/

namespace Sys2Proof.Machine

/-! ### The chunk's own reads and writes -/

/-- The byte a stash entry holds at a place. -/
def Write.at (x : Write) (l : Loc) : Option Byte :=
  match x.loc, l with
  | .mem a, .mem b => if a ≤ b then x.bytes[b - a]? else none
  | .scr g a, .scr h b => if g = h ∧ a ≤ b then x.bytes[b - a]? else none
  | .reg g a, .reg h b => if g = h ∧ a ≤ b then x.bytes[b - a]? else none
  | .acc g a, .acc h b => if g = h ∧ a ≤ b then x.bytes[b - a]? else none
  | _, _ => none

/-- A byte as committed: a register that an in-flight chunk of its wave has written reads as saved before its first write (R81). -/
def State.committed (s : State) (l : Loc) : Byte :=
  match l with
  | .reg j o =>
    let w := s.wave j
    let old := match w.com with
      | some c => if c.ts.isNone then c.saved ++ w.run.saved else w.run.saved
      | none => w.run.saved
    match old.find? (·.1 == o / 256) with
    | some (_, row) => (row.getD (o % 256 / 4) 0).extractLsb' (8 * (o % 4)) 8
    | none => s.peek l
  | _ => s.peek l

/-- A byte as the running chunk of wave k reads it (R80): its own latest store, its own registers, else the committed byte. -/
def State.chunkByte (s : State) (k : Nat) (l : Loc) : Byte :=
  match (s.wave k).run.writes.findSome? (·.at l) with
  | some b => b
  | none =>
    match l with
    | .reg j _ => if j = k then s.peek l else s.committed l
    | _ => s.peek l
def State.chunkBytes (s : State) (k : Nat) (ls : List Loc) : List Byte := ls.map (s.chunkByte k)
/-- A byte as the chunk reads it through the private window (R103): alias writes since the wave's last FENCE or acquire are not seen. -/
def State.privateByte (s : State) (k : Nat) (l : Loc) : Byte :=
  let w := s.wave k
  match l with
  | .mem d =>
    match Tab.get none w.stale d, w.run.view || w.run.writes.any fun x => (x.at l).isSome with
    | some b, false => b
    | _, _ => s.chunkByte k l
  | _ => s.chunkByte k l
/-- The bytes of one lane of a load. -/
def State.loadBytes (s : State) (k : Nat) (ea : W64) (ls : List Loc) : List Byte :=
  if isPrivate ea then ls.map (s.privateByte k) else s.chunkBytes k ls

/-- Lines read enter the chunk's read signature (R82). -/
def State.noteRead (s : State) (k : Nat) (ls : List Loc) : State :=
  let ks := s.keysOf (ls.map Loc.line)
  s.modWave k fun w =>
    { w with run := { w.run with rsig := w.run.rsig ||| sigOf ks, rkeys := (w.run.rkeys ++ ks).eraseDups } }
/-- Lines written enter its write signature. -/
def State.noteWrite (s : State) (k : Nat) (ls : List Loc) : State :=
  let ks := s.keysOf (ls.map Loc.line)
  s.modWave k fun w => { w with run := { w.run with wsig := w.run.wsig ||| sigOf ks } }
/-- Lines read and written through the private window enter the signatures apart (R77, R82, R103). -/
def State.notePrivate (s : State) (k : Nat) (rs ws : List Loc) : State :=
  let of_ := fun (ls : List Loc) => sigOf (s.keysOf (ls.map Loc.line))
  s.modWave k fun w => { w with run := { w.run with rpriv := w.run.rpriv ||| of_ rs, wpriv := w.run.wpriv ||| of_ ws } }

/-- Runs of adjoining places with their bytes: the parts of one store. -/
def pieces : List (Loc × Byte) → List (Loc × List Byte)
  | [] => []
  | (l, b) :: rest =>
    match pieces rest with
    | (m, bs) :: more => if m = l.add 1 then (l, b :: bs) :: more else (l, [b]) :: (m, bs) :: more
    | [] => [(l, [b])]

/-- Bytes put into the write stash of a running chunk. -/
def State.stash (s : State) (k : Nat) (ea : W64) (ls : List Loc) (bs : List Byte) (cnt : Bool) : State :=
  let ws := (pieces (ls.zip bs)).map fun (l, b) => Write.mk l ea b cnt
  let s := s.modWave k fun w => { w with run := { w.run with writes := ws.reverse ++ w.run.writes } }
  if isPrivate ea then s.notePrivate k [] ls else s.noteWrite k ls
/-- A store of a running chunk into its write stash (R80); a store to one of the wave's own registers is a register write (R22,
R50), which makes the whole words that it covers good (R417). -/
def State.chunkStore (s : State) (k : Nat) (ea : W64) (ls : List Loc) (bs : List Byte) (cnt : Bool) : State :=
  match ls with
  | .reg j o :: _ =>
    if j = k then
      let s := (s.modWave k fun w => (w.saveRows [o / 256]).mend [o / 256]
        (maskOf (List.range' (o % 256 / 4) (bs.length / 4)))).noteWrite k ls
      (ls.zip bs).foldl (fun s (l, b) => s.poke l b) s
    else s.stash k ea ls bs cnt
  | _ => s.stash k ea ls bs cnt

/-- The distinct lines of a stash. -/
def stashLines (ws : List Write) : List Loc := (ws.map (·.loc.line)).eraseDups

/-- Places that the closing operation of a chunk writes. -/
def Closing.places : Closing → List Loc
  | .atomic _ _ lanes _ _ => lanes.flatMap (·.locs)
  | .barrier _ obj _ _ _ => [obj]
  | .ctrset obj _ => [obj]
  | .qpush line _ _ _ => [.mem line]
  | _ => []
/-- The destination of a committing chip atomic, written when its chunk commits (R78, R327, R340). -/
def Closing.pendingRegs : Closing → List Nat
  | .atomic _ l _ (some d) true => List.range' d.val l.regs
  | .qpush _ _ true (.v d) => [d.val]
  | _ => []
/-- The lines a chunk writes, and those of them that others can meet: private-window lines conflict with no alias (R103). -/
def Chunk.lines (c : Chunk) : List Loc := (c.writes.map (·.loc.line) ++ c.closing.places.map Loc.line).eraseDups
def Chunk.openLines (c : Chunk) : List Loc :=
  ((c.writes.filter fun x => !isPrivate x.ea).map (·.loc.line) ++ c.closing.places.map Loc.line).eraseDups

/-! ### Commits on their way to their homes (R88) -/

/-- Lines that a stamped commit has not yet written at their homes: locked for commits and reads. -/
def State.pendingLine (s : State) (l : Loc) : Bool :=
  s.packets.any fun p => (p.writes.any fun x => x.loc.line == l) || p.closing.places.any fun q => q.line == l
/-- A read by a core of a line that meets the write signature of a commit its cluster has received, whose lines are not all applied. -/
def State.readWaits (s : State) (core : Nat) (l : Loc) : Bool :=
  match s.lineKey l with
  | some key => s.packets.any fun p => p.clusters.contains (core / 8) && sigMeets (sigBits key) p.sig
  | none => false

/-! ### Private windows and their aliases (R103) -/

/-- The virtual address of an access that is an alias of private memory: tag 0b00, or a global address of the own rank. -/
def State.aliasVa (s : State) (t : Nat) (ea : W64) : Option Nat :=
  if bits ea 63 62 = 0 then some (bits ea 56 0)
  else if bits ea 63 62 = 3 ∧ bits ea 61 45 = (s.tenant t).cur.jobRank.toNat then
    (regionOf s t (bits ea 44 40)).map fun r => r.base + bits ea 39 0
  else none
/-- The live wave of a tenant in whose threads' private memory a virtual address lies (R67). -/
def State.privOwner (s : State) (t va : Nat) : Option Nat :=
  s.wgs.findSome? fun (g, x) =>
    let first := x.threadIndex 0
    let span := 64 * x.privSize
    if !x.live || x.tenant != t || span == 0 || decide (va < x.privBase.toNat) then none
    else
      let th := 64 * ((va - x.privBase.toNat) / span) + (va - x.privBase.toNat) % 256 / 4
      if first ≤ th ∧ th < first + x.threads then some (32 * g + (th - first) / 64) else none
/-- Before bytes of device memory are written under an alias of private memory, their owners keep what their private-window reads go on
seeing: the bytes before the first such write since the owner's last FENCE or acquire. -/
def State.keepStale (s : State) (t : Nat) (va : Option Nat) (ls : List Loc) : State :=
  match va with
  | none => s
  | some a =>
    if s.wgs.all fun p => p.2.privSize == 0 then s
    else ls.zipIdx.foldl (fun s (l, i) => match l, s.privOwner t (a + i) with
      | .mem d, some k => s.modWave k fun w => if (Tab.get none w.stale d).isSome then w else { w with stale := Tab.put none w.stale d (some (s.peek l)) }
      | _, _ => s) s
/-- A wave's own private-window stores replace them. -/
def Wave.dropStale (w : Wave) (ls : List Loc) : Wave :=
  let drop := fun (t : Tab (Option Byte)) (l : Loc) => match l with
    | .mem d => Tab.put none t d none
    | _ => t
  if w.stale.isEmpty then w else { w with stale := ls.foldl drop w.stale }

/-! ### Squashes -/

/-- A wave of an aborted launch whose last chunk did not commit runs no more (R406). -/
def State.endAborted (s : State) (k : Nat) : State :=
  if (s.launch (s.wg (s.wave k).wg).launch).aborted then
    (s.modWave k fun w => { w with lanes := w.lanes.map fun l => { l with exited := true, pcnt := 0 }, handler := false, trapQ := [] }).push
      [.workgroupRetire (s.wave k).wg]
  else s

/-- A squash of the chunk hit (R91), counted (R92). -/
def State.squash (s : State) (k : Nat) (running : Bool) : State :=
  let s := (if running then s.discardRun k .squash else s.discardBoth k .squash).endAborted k
  let s := s.modWave k fun w => { w with squashes := w.squashes + 1 }
  if 4 ≤ (s.wave k).squashes ∧ s.resHolder ≠ some k ∧ !s.resQueue.contains k then
    { s with resQueue := s.resQueue ++ [k] }.push [.reservationGrant]
  else s

/-- An in-flight chunk of a wave that a write signature meets: the committing one unless stamped, or the running one. -/
def Wave.metBy (w : Wave) (sig : BitVec 1024) : Option Bool :=
  if w.com.any fun c => c.ts.isNone && sigMeets c.rsig sig then some false
  else if sigMeets w.run.rsig sig then some true else none

def State.squashMet (s : State) (sig : BitVec 1024) (ks : List Nat) : State :=
  ks.foldl (fun s k => match (s.wave k).metBy sig with
    | some r => s.squash k r
    | none => s) s

/-- Clusters in which an in-flight chunk has read one of the lines (R88). -/
def State.readerClusters (s : State) (keys : List W64) : List Nat :=
  ((s.liveWaves.filter fun k =>
      let w := s.wave k
      w.run.rkeys.any keys.contains || w.com.any fun c => c.rkeys.any keys.contains).map fun k => s.coreOf k / 8).eraseDups

/-- The broadcast of a chip write (R88): the lines leave the level-1 caches, and every in-flight chunk of a receiving cluster but the
writer's own is tested. -/
def State.broadcast (s : State) (me : Option Nat) (keys : List W64) : State :=
  let cl := s.readerClusters keys
  let s := s.l1Drop keys
  s.squashMet (sigOf keys) (s.liveWaves.filter fun k => some k ≠ me && cl.contains (s.coreOf k / 8))

/-- The test of a local commit or a placement in a unified store (R90): the workgroup's other waves on that core. -/
def State.localTest (s : State) (me : Option Nat) (g core : Nat) (keys : List W64) : State :=
  s.squashMet (sigOf keys) ((s.wgWaves g).filter fun k => some k ≠ me && s.coreOf k == core)

/-- Register-window writes squash a chunk of the target wave that has read or written the register (R50, R104). -/
def State.regTest (s : State) (me : Nat) (ws : List Write) : State :=
  ws.foldl (fun s x => match x.loc with
    | .reg j o =>
      let w := s.wave j
      let v := o / 256
      let hit := fun (c : Chunk) => c.regReads.getLsbD v || c.saved.any (·.1 == v)
      if j = me then s
      else if w.com.any fun c => c.ts.isNone && hit c then s.squash j false
      else if hit w.run then s.squash j true else s
    | _ => s) s

/-- A write that would squash the reservation holder waits (R92). -/
def State.resBlocks (s : State) (me : Option Nat) (sig : BitVec 1024) : Bool :=
  match s.resHolder with
  | some h => some h ≠ me && ((s.wave h).metBy sig).isSome
  | none => false

/-! ### Stage queues (R339 to R341) -/

/-- The live stage whose control line begins at a DPA. -/
def State.stageLine (s : State) (dpa : Nat) : Option (Nat × Nat) :=
  s.launches.findSome? fun (n, x) =>
    if x.live then ((x.stages.zipIdx).find? fun (g, _) => g.odepth ≠ 0 && g.oqDpa == dpa).map fun (_, i) => (n, i) else none
/-- Bytes 0 to 23 of a control line stay as the home slice holds them (R339). -/
def State.protectedByte (s : State) : Loc → Bool
  | .mem a => decide (a % 128 < 24) && (s.stageLine (a / 128 * 128)).isSome
  | _ => false

/-- TAIL, HEAD, CLOSED and DEPTH of a control line. -/
def State.queueAt (s : State) (dpa : Nat) : Nat × Nat × Bool × Nat :=
  let w := s.ld64 (dpa + 16)
  ((s.ld64 dpa).toNat, (s.ld64 (dpa + 8)).toNat, w.getLsbD 63, bits w 4 0)
/-- The place of entry i of a queue (R203): 64 bytes in one page of the queue's virtual range. -/
def State.entryAt (s : State) (line i : Nat) : Nat :=
  let o := 128 + 64 * i
  match s.stageLine line with
  | some (n, k) => (deviceVa s (s.launch n).tenant ((((s.launch n).stages.getD k {}).oq).toNat + o) 64 false).getD (line + o)
  | none => line + o
def queueOcc (q : Nat × Nat × Bool × Nat) : Nat := (q.1 + 2 ^ 64 - q.2.1) % 2 ^ 64

/-! ### Writes at a place of their own in the commit order -/

/-- A home write to a line with a directory entry is stamped (R118). -/
def State.stampHome (s : State) (dpa : Nat) : State :=
  let e := Tab.get {} s.dir (dpa / 128)
  if e.present then
    let g := max (s.tenant e.tenant).podClock e.lend + 1
    let s := s.modTenant e.tenant fun t => { t with podClock := g }
    { s with dir := Tab.put {} s.dir (dpa / 128) { e with wts := g } }
  else s

/-- The lines of a run of bytes of memory stamped. -/
def State.stampRun (s : State) (a n : Nat) : State :=
  (List.range ((a + n + 127) / 128 - a / 128)).foldl (fun s i => s.stampHome (128 * (a / 128 + i))) s
/-- Bytes stored at their places, protected bytes left (R339), pod stamps moved (R118). -/
def State.storeAt (s : State) (l : Loc) (bs : List Byte) : State :=
  let s := (bs.zipIdx).foldl (fun s (b, i) => if s.protectedByte (l.add i) then s else s.poke (l.add i) b) s
  match l with
  | .mem a => s.stampRun a bs.length
  | _ => s.useBanks ((List.range bs.length).map fun i => (l.add i).line).eraseDups

/-- Tenants with logging on whose windows hold a place (R442). -/
def State.loggers (s : State) : Loc → List Nat
  | .mem a =>
    (s.tenants.filter fun (_, t) => t.logging
      && t.owns (if a < tierBase then 0 else 1) (if a < tierBase then a else a - tierBase) 1).map (·.1)
  | .scr g _ => [(s.wg g).tenant]
  | .reg k _ => [s.waveTenant k]
  | .acc _ _ => []

/-- The undo and input-placement entries of a change from outside (R442). -/
def outsideEntries (s : State) (l : Loc) (bs : List Byte) : List (List W64) :=
  (cuts 0 bs.length).flatMap fun (o, n) =>
    let ts := BitVec.ofNat 64 s.lastTs
    [placeEntry s 4 (l.add o) (s.peekN (l.add o) n) ts, placeEntry s 6 (l.add o) ((bs.drop o).take n) ts]
def State.logOutside (s : State) (l : Loc) (bs : List Byte) : State :=
  (s.loggers l).foldl (fun s t =>
    let i := (s.tenant t).logTail
    let es := outsideEntries s l bs
    let s := s.modTenant t fun x => { x with fixedUndo := x.fixedUndo ++ (List.range es.length).map (i + ·) }
    s.logForce t es) s

/-- In-flight chunks that a write of its own place squashes: by R88 for memory, by R90 in a unified store (R106). -/
def State.testPlace (s : State) (l : Loc) : State :=
  let keys := (s.lineKey l.line).toList
  match l with
  | .mem _ => s.broadcast none keys
  | .scr g o => s.localTest none g (s.scrCore g o) keys
  | .reg k _ => s.localTest none (s.wave k).wg (s.coreOf k) keys
  | .acc _ _ => s

/-- A change of a home object or line by the device or from outside, as one step (R59, R106, R132, R149). -/
def State.placeAt (s : State) (l : Loc) (bs : List Byte) : State := (s.testPlace l).storeAt l bs
def State.placeOutside (s : State) (l : Loc) (bs : List Byte) : State := ((s.logOutside l bs).testPlace l).storeAt l bs

def State.barrierAt (s : State) (l : Loc) : Barrier := Barrier.ofBytes (s.peekN l 16)

/-! ### Completion of an instruction -/

/-- A lane goes on to the next instruction (R280), its age and skip mark cleared (R180, R438). -/
def Lane.step (x : Lane) : Lane := { x with pc := x.pc + 4, age := 0, skip := false }
/-- A pending immediate consumed (R260), the modifiers spent (R262), the run of IMMs broken. -/
def Lane.spend (x : Lane) (usesImm : Bool) : Lane :=
  { x with imm := if usesImm then 0 else x.imm, immCount := if usesImm then 0 else x.immCount, immRun := 0, rm := .rne, sat := false }

/-- The instruction of a set has issued: counted in its chunk (R77), charged (R223). -/
def State.count (s : State) (k : Nat) (pc : W64) : State :=
  let s := s.modWave k fun w =>
    { w with run := { w.run with issued := w.run.issued + 1, issues := w.run.issues ++ w.run.cand.toList, cand := none }, held := none }
  let s := match (s.tenant (s.waveTenant k)).reverse with
    | some r => s.modTenant (s.waveTenant k) fun x => { x with reverse := some { r with plan := r.plan.drop 1 } }
    | none => s
  (s.usePort .issue).issued k pc

/-- A replay ends (R452, R454): every lane of its wave halted, the result and the window reached in DBG_STAT. -/
def dbgDone (result window : Nat) : W64 := BitVec.ofNat 64 (window % 2 ^ 32 * 2 ^ 16 + result)
def State.endReverse (s : State) (t result : Nat) : State :=
  match (s.tenant t).reverse with
  | none => s
  | some r =>
    let s := (s.discardRun r.wave .halt).modWave r.wave fun w =>
      { w with lanes := w.lanes.map (fun l => { l with halted := true }), haltReason := 0x13, haltInfo := 0 }
    s.modTenant t fun x => { x with reverse := none, dbgStat := dbgDone result r.window }

/-- A waiting instruction completes: results in its lanes, which go on; its chunk ends (R78). -/
def State.completeWait (s : State) (k : Nat) (vs : List (Nat × BitVec 128)) : State :=
  let x := (s.wave k).wait
  let s := s.modWave k fun w =>
    let w := (if vs.isEmpty then w else w.writeAll x.w x.d 1 vs).modLanes (lanesOf x.mask) Lane.step
    { w with wait := {}, run := { w.run with performed := true } }
  s.endChunk k

/-! ### Faults recorded beside the wave -/

/-- The DPA of a launch's completion block. -/
def State.doneAt (s : State) (n : Nat) : Option Nat :=
  let x := s.launch n
  deviceVa s x.tenant (bits (x.record.getD 4 0) 56 6 * 64) 32 true

/-- The fault cell at its home (R208): the first fault writes all, a later one sets MORE; each raises source 0. -/
def State.cellStep (s : State) (t a cause detail wg : Nat) (info : W64) : State :=
  let w := s.ld64 (a + 16)
  let s := if w.getLsbD 63 then s.placeOutside (.mem (a + 16)) (bytes64 (w ||| 1#64 <<< 62))
    else s.placeOutside (.mem (a + 16))
      (bytes64 (BitVec.ofNat 64 (2 ^ 63 + cause * 2 ^ 48 + detail * 2 ^ 40 + wg % 2 ^ 32)) ++ bytes64 info)
  s.interrupt t 0

/-- The context fault record (R405), with source 1. -/
def State.contextFault (s : State) (t : Nat) (nested : Bool) (cause detail wg done : Nat) (info : W64) : State :=
  let r := (s.tenant t).faultRec
  let w := r.getD 0 0
  let r := if w.getLsbD 63 then r.set 0 (w ||| 1#64 <<< 62)
    else [BitVec.ofNat 64 (2 ^ 63 + (if nested then 2 ^ 61 else 0) + cause * 2 ^ 48 + detail * 2 ^ 40 + wg % 2 ^ 32),
          BitVec.ofNat 64 done, info, 0]
  (s.modTenant t fun x => { x with faultRec := r }).interrupt t 1

/-- An undo entry for a change that is no commit's, marked as one that an unwind leaves (R387, R442). -/
def State.undoFixed (s : State) (l : Loc) (n ts : Nat) (g : Nat) : State :=
  (s.loggers l).foldl (fun s t =>
    let i := (s.tenant t).logTail
    let es := (cuts 0 n).map fun (o, m) => placeEntry s 4 (l.add o) (s.peekN (l.add o) m) (undoTs s l g ts)
    let s := s.logForce t es
    s.modTenant t fun x => { x with fixedUndo := x.fixedUndo ++ (List.range es.length).map (i + ·) }) s

/-- The workgroup of a place on the chip, for the TS word of its undo entry. -/
def Loc.wg (s : State) : Loc → Nat
  | .scr g _ => g
  | .reg k _ => (s.wave k).wg
  | _ => 0

/-- The home step of a barrier change, and a failure of a command counted at an object (R59, R62). -/
def State.changeBarrier (s : State) (l : Loc) (f : Barrier → Barrier) : State :=
  (s.undoFixed l 16 s.lastTs (l.wg s)).placeAt l (f (s.barrierAt l)).toBytes

/-- COUNT of a completion counter raised (R132). -/
def State.counterAdd (s : State) (a : Nat) (n : Nat) : State :=
  s.placeOutside (.mem a) (bytes64 (s.ld64 a + BitVec.ofNat 64 n))
def State.counterMode (s : State) (a : Nat) : Bool := (s.ld64 (a + 8)).getLsbD 62
/-- A failed operation sets ERR, records its cause if none was recorded, and adds what it owed (R132). -/
def State.counterFail (s : State) (a n ecause edetail : Nat) : State :=
  let w := s.ld64 (a + 8)
  let w' := if w.getLsbD 63 then w
    else (w &&& 0x7F0000FFFFFFFFFF#64) ||| BitVec.ofNat 64 (2 ^ 63 + ecause * 2 ^ 48 + edetail * 2 ^ 40)
  s.placeOutside (.mem a) (bytes64 (s.ld64 a + BitVec.ofNat 64 n) ++ bytes64 w')

/-! ### Steps of the device at a home -/

/-- A step at its home. A barrier object with INIT = 0 takes no arrival (R61); a counter counts bytes or operations by its MODE (R132). -/
def State.homeStep (s : State) (l : Loc) (op : HomeOp) : State :=
  match op, l with
  | .start n, _ => s.changeBarrier l fun _ => Barrier.start n
  | .arrive, _ => if (s.barrierAt l).init = 0 then s else s.changeBarrier l Barrier.arriveOne
  | .expect n, _ => s.changeBarrier l (·.expect n)
  | .fail n, _ => s.changeBarrier l (·.fail n)
  | .broken, _ => s.changeBarrier l fun b => { b with broken := true }
  | .count bytes ops, .mem a =>
    let n := if s.counterMode a then ops else bytes
    if n = 0 then s else s.counterAdd a n
  | .countFail bytes ops c d, .mem a => s.counterFail a (if s.counterMode a then ops else bytes) c d
  | .cell t c d w i, .mem a => s.cellStep t a c d w i
  | .put bs, _ => (s.undoFixed l bs.length s.lastTs (l.wg s)).placeAt l bs
  | _, _ => s

/-- What a step waits for: its line on the way from a commit (R88), recalled (R118), back-invalidated or in a flip (R151, R153). -/
def State.homeWait (s : State) (l : Loc) : Option Stall := if s.pendingLine l.line then some .commit else s.memWait true l
/-- A step of the device at a home, made at once or when its line is to be had, in order on each line. -/
def State.atHome (s : State) (l : Loc) (op : HomeOp) : State :=
  match s.homeWait l, s.homeSteps.any fun p => p.1.line == l.line with
  | none, false => (s.homeStep l op).invUse [l]
  | st, _ =>
    let s := { s with homeSteps := s.homeSteps ++ [(l, op)] }
    match st with
    | some st => s.askFor st
    | none => s
/-- Steps that waited are tried again, oldest first. -/
def State.retryHome (s : State) : State :=
  if s.homeSteps.isEmpty then s else s.homeSteps.foldl (fun s p => s.atHome p.1 p.2) { s with homeSteps := [] }

/-- A fault recorded in a fault cell. -/
def State.faultCellAt (s : State) (t : Nat) (at_ : Option Nat) (cause detail wg : Nat) (info : W64) : State :=
  match at_ with
  | none => s
  | some a => s.atHome (.mem a) (.cell t cause detail wg info)
def State.faultCell (s : State) (n cause detail wg : Nat) (info : W64) : State :=
  s.faultCellAt (s.launch n).tenant (s.doneAt n) cause detail wg info

/-! ### Ownership, aborts and unwinds -/

/-- The matrix engine of a core is granted to a wave: tile scales 1.0 and an invalid latch, or what was saved with the wave, for its
first command to find (R195, R198, R354). -/
def State.grantEngine (s : State) (c k : Nat) : State :=
  let part := if c = (s.wg (s.wave k).wg).core then 0 else 1
  let eng := ((s.wave k).engs.find? (·.1 == part)).map (·.2)
  (s.modCore c fun x => { x with owner := some k, granted := some (eng.getD {}) }).modWave k fun w =>
    { w with engs := w.engs.filter (·.1 != part) }
/-- The matrix engine of a core passes to the head of its queue (R195). -/
def State.releaseEngine (s : State) (c : Nat) : State :=
  match (s.core c).queue with
  | [] => s.modCore c fun x => { x with owner := none }
  | (k, _) :: rest => (s.modCore c fun x => { x with queue := rest }).grantEngine c k
/-- A wave's ownership and its queued requests end (R197). -/
def State.dropEngine (s : State) (k : Nat) : State :=
  let c := (s.wg (s.wave k).wg).core
  let one := fun (s : State) (c : Nat) =>
    let s := s.modCore c fun x => { x with queue := x.queue.filter fun q => q.1 != k }
    if (s.core c).owner = some k then s.releaseEngine c else s
  (one (one s c) (if (s.wg (s.wave k).wg).pair then c + 1 else c)).modWave k fun w => { w with own := 0 }

/-- The object of the group at position i of a workgroup. -/
def State.groupObj (s : State) (g i : Nat) : Option Nat :=
  let x := s.wg g
  match (s.launch x.launch).groups[x.groups.getD i 256]? with
  | some e => deviceVa s x.tenant e.bar.toNat 16 true
  | none => none

/-- The workgroup's next arrival at its group at position i is due (R338): every wave that has not ended has arrived for it. -/
def State.groupDue (s : State) (g i : Nat) : Bool :=
  let q := (s.wg g).gMade.getD i 0
  let live := (s.wgWaves g).filter fun k => !(s.wave k).lanes.all (·.exited)
  !live.isEmpty && live.all fun k =>
    let w := s.wave k
    decide (q < w.gDone.getD i 0) || (w.gDone.getD i 0 == q && w.gArrived.getD i false)

/-- An entry of a list of counts or marks, the list extended as needed. -/
def bumpAt (xs : List Nat) (i : Nat) : List Nat := (xs ++ List.replicate (i + 1 - xs.length) 0).modify i (· + 1)
def setAt (xs : List Bool) (i : Nat) (v : Bool) : List Bool := (xs ++ List.replicate (i + 1 - xs.length) false).set i v

/-- Arrivals that have become due are made, each as one step at its object. -/
def State.makeArrivals (s : State) (g : Nat) : State :=
  (List.range (s.wg g).groups.length).foldl (fun s i =>
    if s.groupDue g i then
      let s := s.modWg g fun x => { x with gMade := bumpAt x.gMade i }
      match s.groupObj g i with
      | some a => s.atHome (.mem a) .arrive
      | none => s
    else s) s
/-- What the arrivals now due find at their objects (R61, R334): the first failure, with the object's address. -/
def State.arrivalFault (s : State) (g : Nat) : Option (Nat × W64) :=
  (List.range (s.wg g).groups.length).findSome? fun i =>
    match s.groupDue g i, s.groupObj g i with
    | true, some a =>
      let b := s.barrierAt (.mem a)
      let at_ := (((s.launch (s.wg g).launch).groups[(s.wg g).groups.getD i 256]?).map (·.bar)).getD 0
      if b.init = 0 then some (4, at_) else if b.over then some (1, at_) else none
    | _, _ => none

/-- BROKEN set in each sync-group object whose arrival a killed workgroup still owes (R62). -/
def State.breakGroups (s : State) (g : Nat) : State :=
  (List.range (s.wg g).groups.length).foldl (fun s i =>
    match s.groupObj g i with
    | some a =>
      if (s.barrierAt (.mem a)).phase = (s.wg g).gMade.getD i 0 % 65536 then
        s.atHome (.mem a) .broken
      else s
    | none => s) s

/-- Bits of an element that MDRAIN stores (R364): T for .cvt, else 32. -/
def drainBits (f : DrainForm) (w : W32) : Nat :=
  if f = .cvt then [32, 64, 16, 16, 8, 8, 6, 6, 4].getD (bits w 19 16) 32 else 32
def drainRow (f : DrainForm) (w : W32) : Nat := 8 * drainBits f w

/-- Bytes a command owes its completion object. -/
def Cmd.length (c : Cmd) : Nat :=
  match c.op with
  | .acopy2d | .agath | .ascat => (c.b.getD 0 0).toNat * (c.b.getD 1 0).toNat
  | .atomr => 2 ^ bits (c.b.getD 0 0) 6 4
  | .mdrain f => (if c.pair then 128 else 64) * drainRow f (c.b.getD 0 0)
  | _ => (c.b.getD 0 0).toNat

/-- Writer places and absent lines of a command given back (R51, R53). -/
def State.freeLines (s : State) (c : Cmd) (ls : List Nat) : State :=
  let dec := fun (t : Tab Nat) (l : Nat) => Tab.put 0 t l (Tab.get 0 t l - 1)
  s.modWg c.wg fun g =>
    { g with places := ls.foldl dec g.places, absent := if c.forked then ls.foldl dec g.absent else g.absent }

/-- The completion object of a command that failed with bytes owed (R62, R132, R350). -/
def State.failObject (s : State) (c : Cmd) (ecause edetail : Nat) : State :=
  match c.comp, c.compLoc with
  | .bar, some l => s.atHome l (.fail (c.length - c.placed))
  | .ctr, some l => s.atHome l (.countFail (c.length - c.placed) 1 ecause edetail)
  | _, _ => s

/-- An engine command abandoned with its workgroup (R53): its lines present again, its object marked, no fault cell. -/
def State.abandonCmd (s : State) (c : Cmd) : State := ((s.freeLines c c.lines).failObject c 0x0A 0x06).dropCmd c.id

/-- Commands of a workgroup that write its scratchpad or accumulator banks (R189): the matrix commands, and copies and gets into
its scratchpad window. -/
def Cmd.intoCore (c : Cmd) : Bool :=
  match c.op with
  | .mgath | .mmaF .. | .mmaI .. | .mscale _ | .mzero | .msnap => true
  | .mdrain _ => bits c.a 63 56 == 0x40
  | .putr => false
  | _ => bits c.c 63 56 == 0x40 || (c.op == .atomr && bits (c.b.getD 7 0) 31 24 == 0x40)

/-- The running MMA of a command's tile restored from the snapshot shadow (R366, R387). -/
def State.restoreShadow (s : State) (c : Cmd) : State :=
  match c.op with
  | .mmaF .. | .mmaI .. =>
    let bank := bits c.c 7 0
    let one := fun (s : State) (core : Nat) =>
      s.modCore core fun x => { x with acc := Tab.store x.acc (2048 * bank) (Tab.bytes x.shadow 0 16384) }
    if c.held then (if c.pair then one (one s c.core) (c.core / 2 * 2 + 1) else one s c.core) else s
  | _ => s

/-- Steps 1 and 2 of R387: chunks discarded, trap queues emptied, waits cancelled, commands abandoned, ownership and banks
released. An abort lets the committing chunks resolve (R406). -/
def State.clearWork (s : State) (g : Nat) (abort : Bool) : State :=
  let s := (s.wgWaves g).foldl (fun s k =>
    let s := if !abort && (s.wave k).com.any fun c => c.ts.isNone then s.discardBoth k .squash else s.discardRun k .squash
    ((s.releaseRes k).modWave k fun w => { w with trapQ := [], wait := {}, gArrived := [] }).dropEngine k) s
  let s := (s.cmds.filter fun c => c.wg == g && c.intoCore).foldl (fun s c => (s.restoreShadow c).abandonCmd c) s
  s.modWg g fun x => { x with held := 0 }

/-- The launch abort of R406. -/
def State.abortLaunch (s : State) (n : Nat) : State :=
  let s := s.modLaunch n fun x => { x with aborted := true }
  (s.launchWgs n).foldl (fun s g =>
    let s := (s.breakGroups g).clearWork g true
    let s := (s.wgWaves g).foldl (fun s k => s.modWave k fun w =>
      { w with lanes := w.lanes.map fun l => { l with exited := true, pcnt := 0 }, handler := false }) s
    s.push [.workgroupRetire g]) s

/-- A trap that cannot be taken aborts the launch (R401). -/
def State.trapAbort (s : State) (k : Nat) (nested : Bool) (cause detail : Nat) (fpc : W64) : State :=
  let g := s.wg (s.wave k).wg
  let s := s.faultCell g.launch cause detail g.index fpc
  let s := s.contextFault g.tenant nested cause detail g.index (bits ((s.launch g.launch).record.getD 4 0) 56 6 * 64) fpc
  s.abortLaunch g.launch

/-- Memory put back by step 4 of R387: each byte the workgroup wrote since the opening marker takes its first old value, unless a
later commit of another workgroup wrote it; writes behind a seal stay. Entries are read from the log, oldest first. -/
def State.logEntry (s : State) (t i : Nat) : List W64 :=
  (List.range 4).map fun j => s.ld64 ((s.tenant t).logAddr i + 8 * j)

/-- The place an undo entry names, in the workgroup of its TS word (R444). -/
def logLoc (s : State) (e : List W64) : Option (Loc × Nat) :=
  let w := e.getD 0 0
  let n := 2 ^ bits w 57 55
  let a := bits w 51 0
  match bits w 54 53 with
  | 0 => some (.mem a, n)
  | 1 => some (.mem (tierBase + a), n)
  | 2 =>
    let tag := e.getD 3 0
    match s.wgs.find? fun (g, x) => x.live && (s.launch x.launch).num == bits tag 63 32 && x.index == bits tag 31 0
        && decide (0 < g) with
    | none => none
    | some (g, x) =>
      let f := bits w 23 0
      match bits w 31 24 with
      | 0 => some (.scr g f, n)
      | 1 => some (.reg (32 * g + f / 2 ^ 15) (f % 2 ^ 15), n)
      | _ => some (.acc (x.core + f / 2 ^ 23) (f % 2 ^ 23), n)
  | _ => none

/-- One pass over the log for step 4 of R387: the workgroup whose commit record is the latest, the bytes to put back, the bytes
another workgroup wrote, and whether a seal of the workgroup was met. -/
structure Revert where
  mine : Bool := false
  back : List (Loc × Byte) := []
  taken : List Loc := []
  sealed : Bool := false
  deriving DecidableEq, Repr

def revertStep (s : State) (t : Nat) (tag : W64) (r : Revert) (i : Nat) : Revert :=
  let e := s.logEntry t i
  let w := e.getD 0 0
  let who := BitVec.ofNat 64 (bits (e.getD 1 0) 63 32 * 2 ^ 32 + bits w 31 0)
  match bits w 63 58 with
  | 3 | 8 => { r with mine := decide (who = tag) }
  | 7 => if who = tag then { r with sealed := true } else r
  | 4 =>
    match logLoc s e with
    | none => r
    | some (l, n) =>
      let old := leBytes n ((e.getD 1 0).toNat + 2 ^ 64 * (e.getD 2 0).toNat)
      if (s.tenant t).fixedUndo.contains i then r
      else if r.mine then
        { r with back := r.back ++ ((old.zipIdx).map fun (b, j) => (l.add j, b)).filter fun (m, _) => !r.back.any (·.1 == m) }
      else { r with taken := r.taken ++ (List.range n).map l.add }
  | _ => r

/-- The containment unwind (R387). -/
def State.unwind (s : State) (g cause detail : Nat) : State :=
  let x := s.wg g
  let t := x.tenant
  let logged := x.cntRev && (s.tenant t).logging
  let s := (s.breakGroups g).clearWork g false
  let from_ := ((s.tenant t).markers.find? fun m => m.2 == bits x.cntStat 31 0).map (·.1)
  let r := match logged, from_ with
    | true, some i =>
      (List.range ((s.tenant t).logTail - i)).foldl (fun r j => revertStep s t (wgTag s g) r (i + j)) {}
    | _, _ => {}
  let s := (r.back.filter fun (m, _) => !r.taken.contains m).foldl (fun s (m, b) => s.placeAt m [b]) s
  let stat := BitVec.ofNat 64 (2 ^ 63 + (if r.back.isEmpty then 0 else 2 ^ 62) + (if r.sealed then 2 ^ 61 else 0) + cause * 2 ^ 48
    + detail * 2 ^ 40 + bits x.cntStat 31 0)
  let s := s.modWg g fun x => { x with cntOpen := false, cntStat := stat }
  (s.wgWaves g).foldl (fun s k => s.modWave k fun w =>
    (Wave.freshRun { w with handler := false, replays := 0, lanes := w.lanes.map fun l => if l.exited then l else { l with
      pc := x.cntH, pcnt := 0, imm := 0, immCount := 0, immRun := 0, rm := .rne, sat := false } })) s

/-- An unwind follows (R387, R425): at once; for an error of an issue, once the cycle is over, with the cause of the lowest wave that has one
in it; for a workgroup that is saved or moving, at its restore. The first error's cause stays. -/
def State.unwindFor (s : State) (g idx cause detail : Nat) : State :=
  let x := s.wg g
  let first : Bool := match x.unwindDue with
    | none => true
    | some (c, i, _) => c == s.cycle && decide (idx < i)
  if s.cycleOf.isSome || x.saved || x.saving || x.restoring then
    s.modWg g fun x => { x with unwindDue := if first then some (s.cycle, idx, cause, detail) else x.unwindDue, ready := x.ready || x.saved }
  else s.unwind g cause detail
/-- The unwind that a workgroup still owes. -/
def State.settleUnwind (s : State) (g : Nat) : State :=
  match (s.wg g).unwindDue with
  | some (_, _, c, d) => (s.modWg g fun x => { x with unwindDue := none }).unwind g c d
  | none => s
/-- The unwinds for the errors of the cycle that is over. -/
def State.settleUnwinds (s : State) : State :=
  ((s.wgs.filter fun p => p.2.live && !p.2.saved && !p.2.saving && !p.2.restoring).map (·.1)).foldl State.settleUnwind s

/-! ### Taking a trap, and returning from one -/

/-- A trap raised at a wave (R395, R398, R401): inside an open containment region the causes of R387 unwind the workgroup; a trap
in handler mode, or a ninth entry, aborts the launch; any other enters the queue and its chunk is doomed unless NEXT = 1. -/
def State.raise (s : State) (k : Nat) (e : TrapEntry) : State :=
  let w := s.wave k
  let g := s.wg w.wg
  let c := e.cause.toNat
  if (s.tenant g.tenant).reverse.isSome then s.endReverse g.tenant 0x06 else
  -- poison consumed by the tenant is reported (R172)
  let s := if c = causePoison then s.interrupt g.tenant 5 else s
  if g.cntOpen && (c == causePoison || c == causeUncorrected || (c == causeEngine && e.detail.toNat == 7)) then
    (s.modWave k fun w => { w with run := { w.run with doomed := some .unwind } }).unwindFor w.wg w.idx c e.detail.toNat
  else if w.handler && !e.async then s.trapAbort k true c e.detail.toNat e.fpc
  else if 8 ≤ w.trapQ.length then s.trapAbort k false causeOverflow 0 e.fpc
  else
    let s := s.modWave k fun w =>
      { w with trapQ := w.trapQ ++ [e],
               run := if e.async then w.run
                 else { w.run with doomed := if e.next then w.run.doomed else some .trap, raised := w.run.raised ++ [e] } }
    s.push [.trapDelivery k]

/-- A trap of the issuing set with %tfpc at the instruction. -/
def State.trap (s : State) (cause detail : Nat) (mask : LaneMask) (info : W64) : State :=
  (s.wasteSlot .squash).raise s.cur.wave
    { cause := BitVec.ofNat 8 cause, detail := BitVec.ofNat 8 detail, fpc := s.cur.pc, mask := mask, info := info }
/-- A trap whose instruction's effects are final: lanes resume after it (NEXT = 1). -/
def State.trapNext (s : State) (k : Nat) (pc : W64) (cause detail : Nat) (mask : LaneMask) (info : W64) : State :=
  s.raise k { cause := BitVec.ofNat 8 cause, detail := BitVec.ofNat 8 detail, next := true, fpc := pc, mask := mask, info := info }

/-- A trap that an engine, a far target or a home reports after the issuing chunk has ended (ASYNC = 1, R395). -/
def State.trapAsync (s : State) (k : Nat) (pc : W64) (cause detail : Nat) (next : Bool) (mask : LaneMask) (info : W64) : State :=
  s.raise k { cause := BitVec.ofNat 8 cause, detail := BitVec.ofNat 8 detail, next := next, async := true, fpc := pc, mask := mask,
              info := info }

/-- Room for `n` entries of a commit, or a mode in which the log gives it (R450). -/
def State.logRoom (s : State) (k n : Nat) : Bool :=
  let t := s.tenant (s.waveTenant k)
  !t.logging || t.logMode != 0 || decide (n ≤ t.logFree)

/-- A commit that waits for room in the log: of a wave in handler mode (R402), or of a chunk already performed (R78). Source 2 is raised
once. -/
def State.commitWaits (s : State) (k : Nat) : State :=
  let s' := s.modWave k fun w => { w with held := some (if w.handler then .trap else .commit), refused := true }
  if (s.wave k).refused then s' else s'.interrupt (s.waveTenant k) 2
/-- LOG_FULL (R397), or in handler mode a wait that raises source 2 (R402). -/
def State.refuseLogAt (s : State) (k : Nat) (fpc : W64) (mask : LaneMask) : State :=
  let t := s.waveTenant k
  if (s.wave k).handler then s.commitWaits k
  else
    (s.interrupt t 2).raise k
      { cause := BitVec.ofNat 8 causeLogFull, fpc := fpc, mask := mask, info := BitVec.ofNat 64 (s.tenant t).logOldest }
/-- A commit that the full log refuses (R93): LOG_FULL at the lowest counter of the chunk's start. -/
def State.refuseLog (s : State) (k : Nat) (start : List Lane) : State :=
  s.refuseLogAt k (lowPc start) (maskOf ((List.range 64).filter fun l => !(start.getD l {}).exited))

/-- Bytes 0 to 7 of an entry, V aside: %tcause (R396). -/
def TrapEntry.word (e : TrapEntry) : W64 :=
  BitVec.ofNat 64 (e.cause.toNat + e.detail.toNat * 256 + (if e.next then 65536 else 0) + (if e.async then 131072 else 0))

/-- Delivery (R400): the doomed or overtaken chunk is discarded, the lanes' issue and chunk start state saved, the trap registers
loaded, and all 64 lanes start at %tvec in handler mode. -/
def State.deliver (s : State) (k : Nat) (e : TrapEntry) (rest : List TrapEntry) : State :=
  let s := (s.releaseRes k).discardRun k .squash
  let t := s.waveTenant k
  let tv := (s.tenant t).cur.tvec
  s.modWave k fun w =>
    let hl := (List.range 64).map fun l => { pc := tv, exited := false, halted := (w.lane l).halted, age := 0 : Lane }
    { w with trapQ := rest, savedLanes := w.lanes, savedLimit := w.limit, tcause := e.word, tfpc := e.fpc, tmask := e.mask, tinfo := e.info,
             tpc := w.lanes.map (·.pc), lanes := hl, handler := true, run := Chunk.fresh hl w.limit, squashes := 0, replays := 0, refused := false }

/-- The head entry is taken once the committing chunk has resolved, outside handler mode and outside far waits (R400, R403). -/
def State.takeTrap (s : State) (k : Nat) : State :=
  let w := s.wave k
  match w.trapQ with
  | [] => s
  | e :: rest =>
    if w.handler || w.com.isSome || w.wait.kind == .far || (w.run.ended && w.run.raised.contains e) || w.lanes.all (fun l => l.exited || l.halted) then s
    else if (s.tenant (s.waveTenant k)).cur.tvec = 0 then s.trapAbort k true e.cause.toNat e.detail.toNat e.fpc
    else
      let t := s.waveTenant k
      let s := s.logForce t [[waveWord0 s 9 0 k, waveWord1 s k, e.word ||| 1#64 <<< 63, e.fpc]]
      let s := s.deliver k e rest
      s.trace t 5 (some k) (leading e.mask) (e.word.toNat % 2 ^ 32) e.fpc

/-- TRET (R382): each lane at its own %tpc with the saved start state, latches invalid; the matrix command held for this wave is
released; a held halt, then the next queued trap, comes first (R404). -/
def State.trapReturn (s : State) (k : Nat) : State :=
  -- after an ENGINE_FAULT of R366 that did not abandon its command
  let replay := let c := (s.wave k).tcause
    bits c 7 0 == causeEngine && bits c 15 8 != 0x0D && c.getLsbD 17
  let s := s.modWave k fun w =>
    let ls := (List.zipWith (fun (x : Lane) pc => { x with pc := pc }) w.savedLanes w.tpc).map Lane.noLatch
    let w := { w with lanes := ls, handler := false, savedLanes := [], limit := w.savedLimit }.takeHalt
    { w with run := Chunk.fresh w.lanes w.savedLimit, replays := 0 }
  let s := if replay then
      (s.cmds.filter fun c => c.wave == k && c.held).foldl
        (fun s (c : Cmd) => (s.modCmd c.id fun c => { c with held := false }).push [.matrixCommandDone c.id]) s
    else s
  if (s.wave k).trapQ.isEmpty then s else s.push [.trapDelivery k]

end Sys2Proof.Machine
end

