-- ==== Sys2Proof/Machine/Match.lean ====
section
/-!
DEFINITION. What a lane selector covers (R430), and when a breakpoint or watchpoint matches an issue (R436 to R438).
-/

namespace Sys2Proof.Machine

def LaneSel.level (x : LaneSel) : Nat := bits x.hi 63 61

/-- A selector covers lane l of wave k of its tenant. -/
def State.covers (s : State) (x : LaneSel) (k l : Nat) : Bool :=
  let w := s.wave k
  let g := s.wg w.wg
  decide (x.level ≤ 4) && (x.level == 0 || (bits x.lo 63 32 == (s.launch g.launch).num % 2 ^ 32
    && (x.level == 1 || (bits x.lo 31 0 == g.index
      && (x.level == 2 || (bits x.hi 12 8 == w.idx && (x.level == 3 || bits x.hi 5 0 == l)))))))

/-- The address operand, offset, size and whether it reads and writes, of an instruction that a watchpoint sees (R437). -/
structure Watched where
  a : Operand
  off : Nat
  size : Nat
  reads : Bool
  writes : Bool
  deriving DecidableEq, Repr

def watchedOf : Instr → Option Watched
  | .ld _ _ a _ l o | .ldSigned _ _ a _ l o | .ldAcq _ _ a _ l o => some ⟨a, o.toNat * l.bytes, l.bytes, true, false⟩
  | .st _ a _ l o | .stRel _ a _ l o => some ⟨a, o.toNat * l.bytes, l.bytes, false, true⟩
  | .aadd _ a _ l _ | .aaddF _ a _ l _ | .aminS _ a _ l _ | .aminW _ a _ l _ | .amaxS _ a _ l _ | .amaxW _ a _ l _
  | .aand _ a _ l _ | .aor _ a _ l _ | .axor _ a _ l _ | .axchg _ a _ l _ | .acas _ a _ l _ => some ⟨a, 0, l.bytes, true, true⟩
  | .redAdd _ a _ l _ | .redAddF _ a _ l _ | .redMinS _ a _ l _ | .redMinW _ a _ l _ | .redMaxS _ a _ l _ | .redMaxW _ a _ l _
  | .redAnd _ a _ l _ | .redOr _ a _ l _ | .redXor _ a _ l _ => some ⟨a, 0, l.bytes, true, true⟩
  | .binit a _ | .barr a | .bexp a _ => some ⟨a, 0, 16, true, true⟩
  | .bwait _ _ a _ | .btest _ _ a _ => some ⟨a, 0, 16, true, false⟩
  | _ => none

/-- The lanes of a set that a breakpoint entry stops. -/
def State.breakLanes (s : State) (k : Nat) (pc : W64) (ls : List Nat) (e : DebugEntry) : List Nat :=
  if e.w0.getLsbD 63 && bits e.w0 54 0 == bits pc 56 2 then ls.filter fun l => s.covers e.filter k l && !((s.wave k).lane l).skip
  else []

/-- The lanes of a set that a watchpoint entry stops, with the effective address of each. -/
def State.watchLanes (s : State) (k : Nat) (ls : List Nat) (x : Watched) (e : DebugEntry) : List (Nat × W64) :=
  let kind := bits e.w0 61 60
  let size := bits e.w0 59 56
  let lo := e.w3.toNat / 2 ^ size * 2 ^ size
  if e.w0.getLsbD 63 && decide (size ≤ 12) && ((kind.testBit 0 && x.reads) || (kind.testBit 1 && x.writes)) then
    (ls.map fun l => (l, (s.wave k).read64 l x.a + BitVec.ofNat 64 x.off)).filter fun (l, ea) =>
      s.covers e.filter k l && !((s.wave k).lane l).skip && decide (ea.toNat < lo + 2 ^ size) && decide (lo < ea.toNat + x.size)
  else []

/-- An issue as it is kept for a search backwards (R453). -/
def State.noteIssue (s : State) (k : Nat) (pc : W64) (ls : List Nat) (i : Instr) : Issued :=
  match watchedOf i with
  | none => { pc := pc, mask := maskOf ls }
  | some x => { pc := pc, mask := maskOf ls, size := x.size, reads := x.reads, writes := x.writes,
                eas := ls.map fun l => (s.wave k).read64 l x.a + BitVec.ofNat 64 x.off }
/-- An enabled breakpoint or watchpoint of the tenant would match a kept issue. -/
def State.wouldMatch (s : State) (k : Nat) (x : Issued) : Bool :=
  let t := s.tenant (s.waveTenant k)
  let ls := lanesOf x.mask
  let range := fun (e : DebugEntry) (ea : W64) =>
    let size := bits e.w0 59 56
    let lo := e.w3.toNat / 2 ^ size * 2 ^ size
    decide (ea.toNat < lo + 2 ^ size) && decide (lo < ea.toNat + x.size)
  (t.breaks.any fun e => e.w0.getLsbD 63 && bits e.w0 54 0 == bits x.pc 56 2 && ls.any (s.covers e.filter k))
    || t.watches.any fun e =>
      let kind := bits e.w0 61 60
      e.w0.getLsbD 63 && decide (bits e.w0 59 56 ≤ 12) && ((kind.testBit 0 && x.reads) || (kind.testBit 1 && x.writes))
        && (ls.zip x.eas).any fun (l, ea) => s.covers e.filter k l && range e ea

/-- A match: entry number, routed to the debugger, breakpoint, lanes, information word. -/
structure Match where
  entry : Nat
  debugger : Bool
  isBreak : Bool
  lanes : List Nat
  info : W64
  deriving DecidableEq, Repr

/-- The match of an issue (R437, R438): the lowest-numbered breakpoint, else the lowest-numbered watchpoint. -/
def State.matchOf (s : State) (k : Nat) (pc : W64) (ls : List Nat) (i : Instr) : Option Match :=
  let t := s.tenant (s.waveTenant k)
  if (s.wave k).handler || t.reverse.isSome then none
  else
    match t.breaks.zipIdx.find? fun (e, _) => !(s.breakLanes k pc ls e).isEmpty with
    | some (e, n) => some ⟨n, e.w0.getLsbD 62, true, s.breakLanes k pc ls e, BitVec.ofNat 64 n⟩
    | none =>
      match watchedOf i with
      | none => none
      | some x =>
        match t.watches.zipIdx.find? fun (e, _) => !(s.watchLanes k ls x e).isEmpty with
        | some (e, n) =>
          let m := s.watchLanes k ls x e
          some ⟨n, e.w0.getLsbD 62, false, m.map (·.1), (m.headD (0, 0)).2⟩
        | none => none

/-- A match taken (R438): a BREAKPOINT or WATCHPOINT trap, or a halt of the wave with source 7. -/
def State.takeMatch (s : State) (k : Nat) (pc : W64) (m : Match) : State :=
  let t := s.waveTenant k
  let s := (s.wasteSlot .squash).modWave k fun w => w.modLanes m.lanes fun l => { l with skip := true }
  let s := s.trace t (if m.isBreak then 3 else 4) (some k) (m.lanes.headD 0) m.entry pc
  if m.debugger then
    let s := s.discardRun k .squash
    let s := s.releaseRes k
    (s.modWave k fun w =>
      { w with lanes := w.lanes.map (fun l => { l with halted := true }), squashes := 0,
               haltReason := if m.isBreak then 0x14 else 0x15, haltInfo := m.info, haltNew := true }).interrupt t 7
  else
    s.raise k { cause := if m.isBreak then 0x14 else 0x15, fpc := pc, mask := maskOf m.lanes, info := m.info }

end Sys2Proof.Machine
end

