-- ==== Sys2Proof/Machine/Issue.lean ====
section
/-!
DEFINITION. The issue of an instruction by a set (R175, R280): the gate every instruction passes (decode checks 6 to 8 of R264,
its place in the chunk, breakpoints, latches, the first-write checkpoint, handler mode) and what follows its own effect (counters,
pending immediates and modifiers, the read mask, the end of the chunk).
-/

namespace Sys2Proof.Machine

/-- The set still stands where the picker chose it: every lane votes at the set's counter (R174, R175), and the wave does not wait
(R344). -/
def State.setStands (s : State) : Bool :=
  let w := s.me
  w.live && !s.myLanes.isEmpty
    && s.myLanes.all (fun l =>
      let x := w.lane l
      x.pc == s.cur.pc && !x.exited && !x.halted && x.pcnt == 0)
    && w.wait.kind == .none && !(w.com.any fun c => c.step.isSome)

/-- The detail of ILLEGAL_INSTR that checks 6 to 8 of R264 give, if one fails. IMM and HINT take modifiers along (R262). -/
def State.dynamicCheck (s : State) (i : Instr) : Option Nat :=
  let w := s.me
  let hint := match i with
    | .imm _ | .hintMod _ _ | .hintChunksz _ | .hintIpref _ | .hintStick _ => true
    | _ => false
  let third := match i with
    | .imm _ => s.myLanes.any fun l => 2 ≤ (w.lane l).immRun
    | _ => false
  if !i.units.all (Use.within s.myWg.alloc) then some 0x04
  else if third || (i.namesImm && s.myLanes.any fun l => (w.lane l).immCount == 0) then some 0x06
  else if !hint && s.myLanes.any (fun l =>
      ((w.lane l).rm != .rne && !i.acceptsRm) || ((w.lane l).sat && !i.acceptsSat)) then some 0x09
  else none

/-- Registers this instruction would write for the first time in the chunk (R81). -/
def State.newRows (s : State) (i : Instr) : Nat :=
  (i.written.eraseDups.filter fun v => !s.me.run.saved.any (·.1 == v)).length

/-- The running chunk ends before the instruction, which waits for its commit (R77, R78). -/
def State.endBefore (s : State) : State :=
  let s := if 0 < s.me.run.issued then s.endChunk s.cur.wave else s
  s.hold .commit

/-- The instruction stands first in its chunk with nothing committing. -/
def State.alone (s : State) : Bool := s.me.run.issued == 0 && s.me.com.isNone

/-- A breakpoint or watchpoint match (R93): the chunk re-executed and ended before the instruction, then the match taken. -/
def State.stopAt (s : State) (m : Match) : State :=
  let k := s.cur.wave
  if s.alone then s.takeMatch k s.cur.pc m
  else if s.me.run.issued = 0 ∨ s.me.run.shorten = some s.cur.pc then s.endBefore
  else
    let step := s.me.run.step
    let s := (s.wasteSlot .squash).modWave k fun w => { w with run := { w.run with step := none } }
    (s.discardRun k .squash).modWave k fun w => { w with run := { w.run with shorten := some s.cur.pc, step := step }, squashes := 0 }

/-- A latch read that is not valid (R184): the chunk is replayed; a third consecutive replay is LATCH_INVALID instead. -/
def State.latchBreak (s : State) (bad : List Nat) : State :=
  let k := s.cur.wave
  if 2 ≤ s.me.replays then s.trap causeLatch 0 (maskOf bad) (s.cur.word.setWidth 64)
  else ((s.wasteSlot .replay).discardRun k .replay).modWave k fun w => { w with replays := w.replays + 1, squashes := 0 }

/-- The store lines of the registers an instruction names. -/
def State.namedRows (s : State) (i : Instr) : List Loc := rowLocs s.cur.wave (i.readRegs ++ i.written).eraseDups
/-- A named register is still to be written by an earlier commit (R78, R88, R104): the result of a closing operation, a register-window
write of another wave on its way to its home, or one of the wave's own closing operations on its register window. -/
def State.rowWaits (s : State) (i : Instr) : Bool :=
  (s.me.com.any fun c =>
      (c.closing.pendingRegs.any fun v => i.readRegs.contains v || i.written.contains v)
        || c.closing.places.any fun l => (s.namedRows i).contains l.line)
    || (s.namedRows i).any s.pendingLine

/-- An instruction with a chunk of its own that the full log refuses: at a LOGMARK and a CNTOPEN.r the instruction itself (R397). -/
def State.refuseIssue (s : State) (i : Instr) : State :=
  match i with
  | .logmark .. | .cntopen _ true => s.refuseLogAt s.cur.wave s.cur.pc s.cur.mask
  | _ => s.refuseLog s.cur.wave s.me.lanes

/-- The gate of an issue: the state in which the instruction's own effect begins, or the state in which this step ends. -/
def State.gate (s : State) (i : Instr) : Except State State :=
  if !s.setStands then .error s
  else if s.me.run.ended then .error (s.hold .commit)
  else match s.dynamicCheck i with
  | some d => .error (s.trap causeIllegal d s.cur.mask (s.cur.word.setWidth 64))
  | none =>
    if i.place == .own && !s.alone then .error s.endBefore
    else if i.issuesAlone && s.issuedBy.contains s.cur.wave then .error (s.hold .commit)
    else match s.matchOf s.cur.wave s.cur.pc s.myLanes i with
    | some m => .error (s.stopAt m)
    | none =>
      let bad := s.me.badLatch s.myLanes i.units
      if !bad.isEmpty then .error (s.latchBreak bad)
      else if let some v := i.readRegs.find? fun v => s.me.badLanes v &&& s.cur.mask != 0 then
        .error (s.trap causeUncorrected 1 (s.me.badLanes v &&& s.cur.mask) (BitVec.ofNat 64 v))
      else if s.rowWaits i then .error (s.hold .commit)
      else if 32 < s.me.run.saved.length + s.newRows i then .error s.endBefore
      else if s.me.handler && i.notInHandler then .error (s.trap causeIllegal 0x07 s.cur.mask (s.cur.word.setWidth 64))
      else if i.place == .own && !s.logRoom s.cur.wave 1 then .error ((s.wasteSlot .squash).refuseIssue i)
      else if let some t := s.wakeFor (s.namedRows i) then .error t
      else if (s.tenant (s.waveTenant s.cur.wave)).logging && !s.me.handler then
        .ok (s.modWave s.cur.wave fun w =>
          { w with run := { w.run with cand := some (s.noteIssue s.cur.wave s.cur.pc s.myLanes i) } })
      else .ok s

/-- Whether the running chunk ends after what it has issued (R77): its limit, a full stash, a full signature. -/
def Wave.chunkFull (w : Wave) : Bool :=
  decide (w.run.step.getD w.run.limit ≤ w.run.issued) || w.run.last
    || decide (64 ≤ (stashLines w.run.writes).length + (match w.com with
      | some c => (stashLines c.writes).length
      | none => 0))
    || decide (512 ≤ popCount (w.run.rsig ||| w.run.rpriv)) || decide (512 ≤ popCount (w.run.wsig ||| w.run.wpriv))

/-- Register reads recorded in the chunk (R81). -/
def Wave.noteRegs (w : Wave) (rs : List Nat) : Wave :=
  { w with run := { w.run with regReads := rs.foldl (fun m v => m ||| (1#120 <<< v)) w.run.regReads } }

/-- The pending values of a lane after an instruction (R260, R262): IMM and HINT leave the modifiers, IMM alone continues a run of
IMMs. -/
def Lane.after (x : Lane) (i : Instr) : Lane :=
  match i with
  | .imm _ => x
  | .hintMod _ _ | .hintChunksz _ | .hintIpref _ | .hintStick _ => { x with immRun := 0 }
  | _ => x.spend i.namesImm

/-- PAUSE ends the chunk of the reservation's holder (R92). -/
def State.pauseEnds (s : State) (i : Instr) : Bool :=
  match i with
  | .pause _ => s.resHolder == some s.cur.wave
  | _ => false

/-- A chunk replayed in part has come to its end (R454). -/
def State.replayed (s : State) (k : Nat) : Bool :=
  match (s.tenant (s.waveTenant k)).reverse with
  | some r => r.wave == k && r.plan.isEmpty
  | none => false

/-- An instruction that ends or forms a chunk has issued: the wave's other sets wait for the next cycle (R176). -/
def State.barOthers (s : State) : State :=
  { s with issue := s.issue.filter (·.wave != s.cur.wave),
                offered := s.offered.map fun x => if x.wave = s.cur.wave then { x with cause := some .commit } else x }

/-- What follows the instruction's own effect: the read mask, the pending values of its lanes, the issue counted and charged, and
the end of the chunk. `moved`: the instruction has set the counters itself. -/
def State.finish (s : State) (i : Instr) (moved : Bool) : State :=
  let k := s.cur.wave
  let s := s.modWave k fun w => ((w.noteRegs i.readRegs).mend i.written s.cur.mask).modLanes s.myLanes fun x =>
    let x := x.after i
    if moved then { x with age := 0, skip := false } else x.step
  let s := (s.useBanks (s.namedRows i)).count k s.cur.pc
  let s := if i.place == .own then s.modWave k fun w => { w with run := { w.run with performed := true } } else s
  let s := if i.place != .inside || s.me.run.last then s.barOthers else s
  if i.place != .inside || s.me.chunkFull || s.pauseEnds i || s.replayed k then s.endChunk k else s

/-- An instruction: the gate, its own effect (which may end the step itself, in a trap or a wait), and what follows. -/
def State.perform (s : State) (i : Instr) (moved : Bool) (body : State → Except State State) :
    Host.Outcome State Fault Refusal :=
  match s.gate i with
  | .error t => .next t
  | .ok t =>
    match body t with
    | .error u => .next u
    | .ok u => .next (u.finish i moved)

/-- An instruction whose effect always completes. -/
def State.simple (s : State) (i : Instr) (body : State → State) : Host.Outcome State Fault Refusal :=
  s.perform i false fun t => .ok (body t)

/-- One result of `n` registers in every active lane, each a function of the wave and the lane (R281, R282). -/
def State.results (s : State) (w : Bool) (d : Operand) (n : Nat) (r : Wave → Nat → BitVec 128) : State :=
  s.modWave s.cur.wave fun x => x.writeAll w d n (s.myLanes.map fun l => (l, r x l))

/-- Input values or a seal that find the log full in stall mode: the act waits (R450). -/
def State.logHold (s : State) : State :=
  let s' := s.hold .farmem
  if s.me.held = some .farmem then s' else s'.interrupt (s.waveTenant s.cur.wave) 2

/-- Input values of the active lanes, by lane: kept in the chunk with their width, for the log that its commit writes (R442, R446); a
wait while a full log in stall mode has no room for them (R450). A replay takes them from the log instead (R454). -/
def State.inputs (s : State) (n : Nat) (vs : List (Nat × Nat)) : Except State (State × List (Nat × Nat)) :=
  let k := s.cur.wave
  let t := s.tenant (s.waveTenant k)
  match t.reverse with
  | some r =>
    if r.inputs.length < vs.length then .error (s.endReverse (s.waveTenant k) 0x06)
    else .ok (s.modTenant (s.waveTenant k) fun x => { x with reverse := some { r with inputs := r.inputs.drop vs.length } },
      r.inputs.map fun x => (x.1, x.2.2))
  | none =>
    if !t.logging then .ok (s, vs)
    else if t.logMode = 0 ∧ t.logFree < s.me.run.inputs.length + vs.length then .error s.logHold
    else .ok (s.modWave k fun w => { w with run := { w.run with inputs := w.run.inputs ++ vs.map fun (l, v) => (l, n, v) } }, vs)
/-- The value of a lane among input values. -/
def inputAt (vs : List (Nat × Nat)) (l : Nat) : BitVec 128 := BitVec.ofNat 128 (((vs.find? (·.1 == l)).map (·.2)).getD 0)

/-- The status of a step's outcome: the next state of the event meanings. -/
def State.done (s : State) : Host.Outcome State Fault Refusal := .next s

end Sys2Proof.Machine
end

