-- ==== Sys2Proof/Machine/Engine.lean ====
section
/-!
DEFINITION. Engine commands in common: the rows and parts of a copy (R368, R369), the ranges that the scoreboard compares (R107), the
scratchpad lines a command makes absent (R51), the checks at issue (R347) and the fork (R105).
-/

namespace Sys2Proof.Machine

/-! ### Rows and parts -/

def Cmd.w (c : Cmd) (i : Nat) : W32 := c.b.getD i 0
/-- Bytes of a row and number of rows; a command that names no byte has no row. -/
def Cmd.rowb (c : Cmd) : Nat :=
  match c.op with
  | .mdrain f => drainRow f (c.w 0)
  | .atomr => 2 ^ bits (c.w 0) 6 4
  | .mgath | .mmaF .. | .mmaI .. | .mscale _ | .mzero | .msnap => 0
  | _ => (c.w 0).toNat
def Cmd.rows (c : Cmd) : Nat :=
  if c.rowb = 0 then 0
  else match c.op with
    | .acopy2d | .agath | .ascat => (c.w 1).toNat
    | .mdrain _ => if c.pair then 128 else 64
    | _ => 1

/-- The issuing core's part of a scratchpad as the model keys it (R21). -/
def scrKey (g : Wg) (core off : Nat) : Nat :=
  if core = g.core then off % 2 ^ 24 else (off % 2 ^ 24 + 2 ^ 23) % 2 ^ 24

/-- The .w32 at a scratchpad offset of the command's core. -/
def Cmd.scrWord (s : State) (c : Cmd) (off : Nat) : W32 := le32 (s.peekN (.scr c.wg (scrKey (s.wg c.wg) c.core off)) 4)
/-- The index vector, as it reads at one point after the fork; kept in `waiting` from then on (R369). -/
def Cmd.indices (s : State) (c : Cmd) : List Nat :=
  (List.range c.rows).map fun r => (c.scrWord s (bits (c.w 2) 23 0 + 4 * r)).toNat
def Cmd.idx (c : Cmd) (r : Nat) : W64 := BitVec.ofNat 64 (c.waiting.getD r 0)

/-- First byte of row r at the source and at the destination (R369). -/
def Cmd.srcRow (c : Cmd) (r : Nat) : W64 :=
  match c.op with
  | .acopy2d => c.a + BitVec.ofNat 64 r * (c.w 2).signExtend 64
  | .agath => c.a + c.idx r * (c.w 3).setWidth 64
  | .ascat => c.a + BitVec.ofNat 64 (r * c.rowb)
  | _ => c.a
def Cmd.dstRow (c : Cmd) (r : Nat) : W64 :=
  match c.op with
  | .acopy2d => c.c + BitVec.ofNat 64 r * (c.w 3).signExtend 64
  | .agath => c.c + BitVec.ofNat 64 (r * c.rowb)
  | .ascat => c.c + c.idx r * (c.w 3).setWidth 64
  | .mdrain _ => c.a + BitVec.ofNat 64 (r * bits (c.w 0) 15 0)
  | _ => c.c

/-- Parts of a row: one for each unit of the side that is cut, a destination line or a packet. -/
def Cmd.per (c : Cmd) : Nat := (c.rowb + c.gran - 1) / c.gran + 1
/-- The bytes of part j of a row whose first byte is at `d`, cut at multiples of `u`: from and to, within the row. -/
def partOf (d : W64) (u rowb j : Nat) : Nat × Nat :=
  (min rowb (if j = 0 then 0 else u * j - d.toNat % u), min rowb (u * (j + 1) - d.toNat % u))
def Cmd.part (c : Cmd) (n : Nat) : Nat × Nat × Nat :=
  let r := n / c.per
  let p := partOf (if c.op = .getr then c.srcRow r else c.dstRow r) c.gran c.rowb (n % c.per)
  (r, p.1, p.2)
/-- Part numbers that hold a byte. -/
def Cmd.parts (c : Cmd) : List Nat := (List.range (c.rows * c.per)).filter fun n => (c.part n).2.1 < (c.part n).2.2

/-- The named side is known at issue (R371): the source but for AGATH and AFILL, the destination but for ASCAT. -/
def Cmd.hasSrc (c : Cmd) : Bool :=
  match c.op with
  | .agath | .afill | .mzero | .mscale _ | .msnap | .mgath | .mmaF .. | .mmaI .. | .mdrain _ => false
  | _ => true
def Cmd.hasDst (c : Cmd) : Bool :=
  match c.op with
  | .ascat | .mzero | .mscale _ | .msnap | .mgath | .mmaF .. | .mmaI .. => false
  | _ => true

/-! ### Ranges (R107) -/

/-- Two byte ranges share a byte. -/
def overlap (a n b m : Nat) : Bool := decide (a < b + m) && decide (b < a + n) && decide (0 < n) && decide (0 < m)

def windowEa (off : Nat) : Nat := 0x40 * 2 ^ 56 + off % 2 ^ 24

/-- Row bytes of an MMA operand for each k-group (R355). -/
def rowGroup : CmdOp → Bool → Nat
  | .mmaF ta tb ha hb, isB =>
    if isB then (if hb then 16 else 4 * tb.width) else if ha then 16 else 4 * ta.width
  | _, _ => 32
/-- Bytes of an operand's blocks, and of its scales, for K = 32 kg (R355, R356). -/
def opBytes (op : CmdOp) (isB : Bool) (kg : Nat) : Nat := 64 * rowGroup op isB * kg
def hasScale : CmdOp → Bool → Bool
  | .mmaF ta tb _ _, isB => !(if isB then tb == .f16 || tb == .bf16 else ta == .f16 || ta == .bf16)
  | _, _ => false
def isHb4 : CmdOp → Bool → Bool
  | .mmaF _ _ ha hb, isB => if isB then hb else ha
  | _, _ => false
def scaleBytes (op : CmdOp) (isB : Bool) (kg : Nat) : Nat := (if isHb4 op isB then 512 else 64) * kg

/-- Words of a matrix command as it keeps them: c in `c`, the pair a in `a`, the words of b in `b`. -/
def Cmd.cw (c : Cmd) : W32 := c.c.setWidth 32
def Cmd.aw (c : Cmd) : W32 := c.a.setWidth 32
def Cmd.aw1 (c : Cmd) : W32 := c.a.extractLsb' 32 32
def Cmd.kg (c : Cmd) : Nat := bits c.cw 15 8 + 1
def Cmd.al (c : Cmd) : Bool := c.cw.getLsbD 16

/-- Scratchpad ranges a matrix command reads: offset and length. -/
def Cmd.scrReads (c : Cmd) : List (Nat × Nat) :=
  match c.op with
  | .mmaF .. | .mmaI .. =>
    (if c.al then [] else (bits c.aw 23 0, opBytes c.op false c.kg) ::
      (if hasScale c.op false && !c.aw1.getLsbD 31 then [(bits c.aw1 23 0, scaleBytes c.op false c.kg)] else []))
    ++ ((bits (c.w 0) 23 0, opBytes c.op true c.kg) ::
      (if hasScale c.op true && !(c.w 1).getLsbD 31 then [(bits (c.w 1) 23 0, scaleBytes c.op true c.kg)] else []))
  | .mgath => [(bits c.cw 23 0, 256)]
  | .agath | .ascat => [(bits (c.w 2) 23 0, 4 * c.rows)]
  | _ => []

/-- AGATH or ASCAT has read its index vector (R369). -/
def Cmd.indexed (c : Cmd) : Bool := (c.op == .agath || c.op == .ascat) && !c.waiting.isEmpty
/-- Ranges a command reads or writes as a whole, with which it has not finished: address, length, written. An index vector is finished
with once it has been read, the operands of ATOMR once they have been sent. -/
def Cmd.fixed (c : Cmd) : List (Nat × Nat × Bool) :=
  (if c.indexed then [] else c.scrReads.map fun (o, n) => (windowEa o, n, false)) ++
  match c.op with
  | .atomr => (if c.waiting.contains 0 then [] else [(c.a.toNat, 32, false)]) ++ (c.c.toNat, c.rowb, true)
      :: (if c.w 6 = 0 ∧ c.w 7 = 0 then [] else [((c.w 7 ++ c.w 6).toNat, c.rowb, true)])
  | .ascat => if c.indexed then [] else [(c.a.toNat, c.rowb * c.rows, false)]
  | _ => []
/-- The sides of a command that it finishes with part by part: source and destination, where they are named (R371). -/
def Cmd.bySide (c : Cmd) : Bool × Bool :=
  match c.op with
  | .acopy | .afill | .acopy2d | .acopySys | .acopyNear | .acopyPod | .putr | .getr | .mdrain _ => (c.hasSrc, true)
  | .agath => (false, true)
  | .ascat => (c.indexed, false)
  | _ => (false, false)

/-- An access to `n` bytes at `a` meets bytes the command has not finished with (R107). -/
def Cmd.touches (c : Cmd) (a n : Nat) (write : Bool) : Bool :=
  (c.fixed.any fun (b, m, w) => (w || write) && overlap a n b m)
  || ((c.bySide.1 || c.bySide.2) && c.left.any fun k =>
    let (r, lo, hi) := c.part k
    (c.bySide.2 && overlap a n ((c.dstRow r).toNat + lo) (hi - lo))
      || (write && c.bySide.1 && !(c.op == .putr && c.waiting.contains k) && overlap a n ((c.srcRow r).toNat + lo) (hi - lo)))

/-- Every named range of a command at issue. -/
def Cmd.ranges (c : Cmd) : List (Nat × Nat × Bool) :=
  c.fixed ++ (List.range c.rows).flatMap fun r =>
    (if c.bySide.2 then [((c.dstRow r).toNat, c.rowb, true)] else []) ++ (if c.bySide.1 then [((c.srcRow r).toNat, c.rowb, false)] else [])

/-- The commands on a core's scoreboard: outstanding ones, and those of chunks not yet committed (R107). -/
def Closing.cmd? : Closing → Option Cmd
  | .engine c => some c
  | _ => Option.none
def State.board (s : State) (core : Nat) : List Cmd :=
  (s.cmds.filter fun c => c.core == core) ++
  (s.liveWaves.filter fun k => s.coreOf k == core).flatMap fun k =>
    (s.wave k).run.closing.cmd?.toList ++ ((s.wave k).com.bind fun c => c.closing.cmd?).toList

/-- A wave's access waits for its own earlier commands (R107). -/
def State.boardWaits (s : State) (k a n : Nat) (write : Bool) : Bool :=
  (s.board (s.coreOf k)).any fun c => c.wave == k && c.touches a n write

/-- Banks a matrix command writes (R365). -/
def Cmd.banks (c : Cmd) : Nat × Nat :=
  match c.op with
  | .mmaF .. | .mmaI .. => (bits c.cw 7 0, 8)
  | .mzero | .msnap => (bits c.cw 7 0, bits c.cw 15 8 + 1)
  | _ => (0, 0)
def Cmd.onCore (c : Cmd) (core : Nat) : Bool := c.core == core || (c.pair && c.core / 2 == core / 2)
def State.bankBusy (s : State) (core bank : Nat) : Bool :=
  s.cmds.any fun c => c.onCore core && decide (c.banks.1 ≤ bank) && decide (bank < c.banks.1 + c.banks.2)
/-- Banks a command names, to read or to write (R200). -/
def Cmd.namesBank (c : Cmd) (bank : Nat) : Bool :=
  let within := fun (a n : Nat) => decide (a ≤ bank) && decide (bank < a + n)
  match c.op with
  | .mmaF .. | .mmaI .. | .mzero => within c.banks.1 c.banks.2
  | .msnap => within c.banks.1 c.banks.2 || within (bits c.aw 7 0) c.banks.2
  | .mdrain _ => within (bits c.cw 7 0) 8
  | _ => false

/-! ### Scratchpad lines written (R51) -/

/-- The key of a scratchpad-window address's line, if it is one. -/
def scrLineOf (g : Wg) (core : Nat) (ea : W64) : Option Nat :=
  if bits ea 63 56 = 0x40 then some (scrKey g core (bits ea 23 0) / 128) else none
/-- Lines of the scratchpad a command writes: those of its destination rows, or for ASCAT every line of the part. -/
def Cmd.scrLines (s : State) (c : Cmd) : List Nat :=
  let g := s.wg c.wg
  let spans := fun (a : W64) (n : Nat) =>
    if n = 0 then [] else
      (List.range ((a.toNat % 128 + n + 127) / 128)).filterMap fun i => scrLineOf g c.core (a + BitVec.ofNat 64 (128 * i) - BitVec.ofNat 64 (a.toNat % 128))
  match c.op with
  | .ascat =>
    match scrLineOf g c.core c.c with
    | some l => (List.range (16 * g.scrUnits)).map fun i => l / 2 ^ 16 * 2 ^ 16 + i
    | none => []
  | .putr => []
  | .atomr => if c.w 6 = 0 ∧ c.w 7 = 0 then [] else spans (c.w 7 ++ c.w 6) c.rowb
  | _ => if c.hasDst then ((List.range c.rows).flatMap fun r => spans (c.dstRow r) c.rowb).eraseDups else []

/-! ### Checks at issue (R347) -/

/-- Where an issue check ends: a trap, a wait for a cause, or a walk. -/
inductive Stop where
  | trap (cause detail : Nat) (info : W64)
  | wait (c : Cause)
  | walk (va : Nat)
  deriving DecidableEq, Repr

abbrev Check := Except Stop Unit

def demand (ok : Bool) (cause detail : Nat) (info : W64) : Check := if ok then .ok () else .error (.trap cause detail info)

/-- The first byte of each unit of a range in which every byte passes or fails alike, and its last byte. -/
def probes (ea : W64) (n : Nat) : List W64 :=
  if n = 0 then [] else
  let step := match bits ea 63 56 with
    | 0x42 => 16
    | 0x43 => 2048
    | _ => 4096
  let first := step - ea.toNat % step
  ea :: ((List.range ((n + step - 1 - min n first) / step)).map fun i => ea + BitVec.ofNat 64 (first + i * step))
    ++ [ea + BitVec.ofNat 64 (n - 1)]

/-- Where an operand may lie: chip memory; also host and pool (0xC5); another rank to a level (0xC6, 0xC7, fabric). -/
inductive Place where
  | chip | system | rank (sc : Scope)
  deriving DecidableEq, Repr

def Place.scope (p : Place) (ea : W64) : Scope :=
  match p with
  | .rank sc => if bits ea 63 62 = 3 then sc else .chip
  | _ => .chip

/-- The poison flags of scratchpad lines are found when a line is read, not by the checks of an engine command (R55, R347). -/
def State.unspoiled (s : State) (k : Nat) : State := s.modWg (s.wave k).wg fun g => { g with spoiled := [] }

/-- The target code of the page an address of this device lies in, where a translation is held. -/
def State.pageTgt (s : State) (k l : Nat) (ea : W64) : Nat :=
  let t := s.waveTenant k
  let g := s.wg (s.wave k).wg
  let va := if bits ea 63 62 = 3 then ((regionOf s t (bits ea 44 40)).map (·.base)).getD 0 + bits ea 39 0
    else if bits ea 63 62 = 1 then g.privVa (g.threadIndex (64 * (s.wave k).idx + l)) (bits ea 31 0) else bits ea 56 0
  match translate s (.l1 (s.coreOf k)) t va with
  | .hit e => e.tgt.toNat
  | _ => 0

/-- Check 6 for one byte: windows the command does not accept, another rank, host and pool memory whatever their page permits. -/
def State.placeProbe (s : State) (k lead : Nat) (p : Place) (acc : Acc) (ea : W64) : Check :=
  let outside : Check := demand (p == .system && bits ea 63 62 == 0) causeEngine 0x0B ea
  if bits ea 63 56 = 0x41 then .error (.trap causeEngine 0x0B ea)
  else match resolve (s.unspoiled k) k lead ea 1 (p.scope ea) acc with
    | .miss va => .error (.walk va)
    | .err e =>
      if e.cause = causeScope then .error (.trap e.cause e.detail ea)
      else if 6 < e.order ∧ bits ea 63 56 ≠ 0x40 ∧ bits ea 63 56 ≠ 0x43 ∧ 2 ≤ s.pageTgt k lead ea then outside else .ok ()
    | .ok r => match r.target with
      | .host .. | .pool .. => outside
      | _ => .ok ()
/-- Check 6 for a named end, which lies somewhere even where it names no byte. -/
def State.checkPlace (s : State) (k lead : Nat) (p : Place) (acc : Acc) (ea : W64) (n : Nat) : Check :=
  (if n = 0 then [ea] else probes ea n).forM (s.placeProbe k lead p acc)

/-- Check 7 for one byte. -/
def State.probe (s : State) (k lead : Nat) (p : Place) (acc : Acc) (ea : W64) : Check :=
  match resolve (s.unspoiled k) k lead ea 1 (p.scope ea) acc with
    | .miss va => .error (.walk va)
    | .err e => .error (.trap e.cause e.detail ea)
    | .ok _ => .ok ()

def State.checkRange (s : State) (k lead : Nat) (p : Place) (acc : Acc) (ea : W64) (n : Nat) : Check :=
  (probes ea n).forM (s.probe k lead p acc)

/-- A barrier object or completion counter named by a command (R330, R349): its place, or ENGINE_FAULT 0x0C. `scr`: the scratchpad
window is allowed. -/
def State.objectAt (s : State) (k lead : Nat) (ea : W64) (scr : Bool) (acc : Acc) : Except Stop Loc :=
  let tag := bits ea 63 62
  if (tag = 1 ∧ (bits ea 61 56 ≠ 0 ∨ scr = false)) ∨ tag = 2 ∨ ea.toNat % 16 ≠ 0 then .error (.trap causeEngine 0x0C ea)
  else if tag = 3 ∧ bits ea 61 45 ≠ (s.tenant (s.waveTenant k)).cur.jobRank.toNat then .error (.trap causeEngine 0x0C ea)
  else match resolve (s.unspoiled k) k lead ea 16 .chip acc with
    | .miss va => .error (.walk va)
    | .err e => .error (.trap e.cause e.detail ea)
    | .ok r => match r.target with
      | .chip (l :: _) => .ok l
      | _ => .error (.trap causeEngine 0x0C ea)

/-- The completion object of a copy or fabric command: a barrier object with the rights of R330, a counter with WR alone (log entry 34). -/
def State.completion (s : State) (k lead : Nat) (f : Comp) (ea : W64) : Except Stop (Option Loc) :=
  match f with
  | .none => .ok none
  | .bar => (s.objectAt k lead ea true .atomic).map some
  | .ctr => (s.objectAt k lead ea false .write).map some

/-- Source and destination ranges of one command overlap (check 8, R371): bounding ranges of the named sides. -/
def bounds (xs : List (Nat × Nat)) : Option (Nat × Nat) :=
  match xs.filter (0 < ·.2) with
  | [] => none
  | x :: r =>
    let lo := r.foldl (fun a y => min a y.1) x.1
    let hi := r.foldl (fun a y => max a (y.1 + y.2)) (x.1 + x.2)
    some (lo, hi - lo)
def Cmd.selfOverlap (c : Cmd) : Bool :=
  let dst := if c.hasDst then (List.range c.rows).map fun r => ((c.dstRow r).toNat, c.rowb) else []
  let src := if c.hasSrc then (List.range c.rows).map fun r => ((c.srcRow r).toNat, c.rowb) else []
  match bounds dst, bounds src with
  | some (a, n), some (b, m) => overlap a n b m
  | _, _ => false

/-- Check 9: a scoreboard entry, no overlap with an earlier command of the core, the writer limit (R51, R107). -/
def State.boardCheck (s : State) (c : Cmd) : Check :=
  let b := s.board c.core
  if 32 ≤ b.length then .error (.wait .engine)
  else if b.any fun e => c.ranges.any fun (a, n, w) => e.touches a n w then .error (.wait .engine)
  else if (c.scrLines s).any fun l => 7 ≤ Tab.get 0 (s.wg c.wg).places l then .error (.wait .engine)
  else .ok ()

/-- A stop at issue: the step ends in the trap, the wait, or the walk. -/
def State.stop (s : State) : Stop → State
  | .trap c d info =>
    let s := if c = causePoison then
        s.consume (s.waveTenant s.cur.wave) (granuleOf s s.cur.wave (leading s.cur.mask) info).toList.length else s
    s.trap c d s.cur.mask info
  | .wait c => s.hold c
  | .walk va => (s.hold .localmem).push [.pageWalk (.l1 s.myCore, s.waveTenant s.cur.wave) (BitVec.ofNat 64 va)]

/-- A command that passed its checks becomes the closing operation of its chunk (R346), its writer places reserved. -/
def State.queueCmd (s : State) (c : Cmd) : State :=
  let c := { c with id := s.nextId, lines := c.scrLines s, left := c.parts }
  let s := { s with nextId := s.nextId + 1 }
  let s := s.modWg c.wg fun g => { g with places := c.lines.foldl (fun t l => Tab.put 0 t l (Tab.get 0 t l + 1)) g.places }
  s.modWave c.wave fun w => { w with run := { w.run with closing := .engine c } }

/-- The issue of an engine command: its checks, then its place at the end of the chunk. -/
def State.command (s : State) (c : Cmd) (checks : Cmd → Check) : Except State State :=
  match checks c with
  | .error e => .error (s.stop e)
  | .ok () =>
    match s.boardCheck c with
    | .error e => .error (s.stop e)
    | .ok () => .ok (s.queueCmd c)

/-- The command that the issuing set describes, its operands those of the leading lane (R346, R262). -/
def State.newCmd (s : State) (op : CmdOp) (pair : Bool) : Cmd :=
  let l := leading s.cur.mask
  let w := s.me
  { op := op, wave := s.cur.wave, wg := w.wg, launch := s.myWg.launch, tenant := s.myWg.tenant, core := s.myCore,
    pc := s.cur.pc, mask := s.cur.mask, pair := pair, rm := (w.lane l).rm, sat := (w.lane l).sat }

/-! ### Fork (R105) and completion -/

/-- Matrix commands. -/
def CmdOp.isMatrix : CmdOp → Bool
  | .mgath | .mmaF .. | .mmaI .. | .mscale _ | .mzero | .mdrain _ | .msnap => true
  | _ => false
/-- The cores whose engine a matrix command runs on (R361). -/
def Cmd.cores (c : Cmd) : List Nat := if c.pair then [c.core / 2 * 2, c.core / 2 * 2 + 1] else [c.core]
/-- Copy and fabric commands that move bytes. -/
def CmdOp.isCopy : CmdOp → Bool
  | .acopy | .agath | .ascat | .afill | .acopy2d | .acopySys | .acopyNear | .acopyPod | .putr | .getr => true
  | _ => false

/-- A step on a completion object in a counted page is a line request of the engine (R43). -/
def State.countObject (s : State) (c : Cmd) : State :=
  match c.compLoc with
  | some l => if c.compCnt then s.countLine l.line true false else s
  | none => s
/-- A command is done (R349): lines present, 1 counted in MODE 1, its scoreboard entry free. -/
def State.finishCmd (s : State) (c : Cmd) : State :=
  let s := (s.freeLines c c.lines).dropCmd c.id
  match c.comp, c.compLoc with
  | .ctr, some (.mem a) => (if s.counterMode a then s.countObject c else s).atHome (.mem a) (.count 0 1)
  | _, _ => s

/-- A command forks: its lines are absent from here on; one that places nothing completes at once (R349), with its seal (R351). -/
def State.forkCmd (s : State) (c : Cmd) : State :=
  let mine := if c.op.isMatrix then c.cores else []
  let c := { c with forked := true, nchk := (s.wave c.wave).nchk - 1,
                    load := mine.filterMap fun k => (s.core k).granted.map fun e => (k, e) }
  let s := mine.foldl (fun s k => s.modCore k fun x => { x with granted := none }) s
  let s := s.modWg c.wg fun g => { g with absent := c.lines.foldl (fun t l => Tab.put 0 t l (Tab.get 0 t l + 1)) g.absent }
  let s := { s with cmds := s.cmds ++ [c] }
  if c.op.isMatrix then s.push [.matrixCommandDone c.id]
  else if c.op.isCopy && c.left.isEmpty then
    ((if c.farDst then s.logForce c.tenant [sealEntry s c.wave c.c] else s).finishCmd c).push [.workgroupRetire c.wg]
  else s

end Sys2Proof.Machine
end

