-- ==== Sys2Proof/Machine/Transc.lean ====
section
/-!
DEFINITION. The functions 2^x, log2 x, sin(pi x) and cos(pi x), correctly rounded (R242). Each value is enclosed between two
fixed-point bounds of 320 bits, and the rounding of both bounds is the result; should they ever differ, the result is the free
value of Config.hardCase (log entry 20).
-/

namespace Sys2Proof

open Machine (FFlags flagNX flagUF flagOF flagDZ flagIV flagIf)

/-- Fraction bits of the fixed-point bounds, and the half-width of an enclosure in units of the last place. -/
def fixBits : Nat := 320
def fixErr : Nat := 2 ^ 30

/-- pi 2^320 and ln 2 2^320, rounded down. -/
def fixPi : Nat := 6710401180212168915155840974220003240804194089427148950727106424351713218671805380099500388914039
def fixLn2 : Nat := 1480553391661173448385607439722553250922680800745876974795605978609098082859138712941075737848984

def fixMul (a b : Nat) : Nat := a * b / 2 ^ fixBits

/-- 1 + t (c1 + ...): the sum of t^n / n! up to n terms, in fixed point, from the last term back. -/
def expSeries (t : Nat) : Nat → Nat → Nat
  | 0, _ => 2 ^ fixBits
  | fuel + 1, n => 2 ^ fixBits + fixMul t (expSeries t fuel (n + 1)) / n

/-- The sum of z^(2k) / (2k + 1), for the inverse hyperbolic tangent. -/
def atanhSeries (z2 : Nat) : Nat → Nat → Nat
  | 0, _ => 0
  | fuel + 1, k => 2 ^ fixBits / (2 * k + 1) + fixMul z2 (atanhSeries z2 fuel (k + 1))

/-- The alternating sum of y^k / (2k + 1)!, y below 3. -/
def sinSeries (y : Nat) : Nat → Nat → Nat
  | 0, _ => 2 ^ fixBits
  | fuel + 1, k => 2 ^ fixBits - fixMul y (sinSeries y fuel (k + 1)) / ((2 * k + 2) * (2 * k + 3))

/-- A number just above or just below one (a tiny non-zero deviation rounds the same in every format). -/
def nearOne (above : Bool) : FVal := .num false (if above then 2 ^ 200 + 1 else 2 ^ 200 - 1) (-200)

/-- An enclosure of an irrational number: the bounds' significands at an exponent, or a value that decides every rounding. -/
inductive Enc where
  | at_ (neg : Bool) (lo hi : Nat) (e : Int)
  | val (x : FVal)
  deriving DecidableEq, Repr

/-- The rounding of an enclosure. -/
def Enc.deliver (f : FFmt) (rm : Round) (sat : Bool) (kind x : Nat) : Enc → Nat × FFlags
  | .val v => f.deliver rm sat v
  | .at_ neg lo hi e =>
    let a := f.deliver rm sat (sticky neg lo false e)
    let b := f.deliver rm sat (sticky neg hi false e)
    if a = b then a
    else (Config.hardCase kind f.width (match rm with
      | .rne => 0
      | .rz => 1
      | .ru => 2
      | .rd => 3) x % 2 ^ f.width, flagNX)

/-- The exponent of the leading bit. -/
def topOf (m : Nat) (e : Int) : Int := (Nat.log2 m : Int) + e
/-- m 2^e in fixed point, for a value with no bits below the last place. -/
def toFix (m : Nat) (e : Int) : Nat :=
  let sh := e + fixBits
  if 0 ≤ sh then m * 2 ^ sh.toNat else m / 2 ^ (-sh).toNat

/-- 2^x. -/
def exp2Enc (neg : Bool) (m : Nat) (e : Int) : Enc :=
  let top := topOf m e
  if 13 ≤ top then .val (if neg then .num false 3 (-6000) else .num false 1 6000)
  else if top < -100 then .val (nearOne (!neg))
  else
    let x := toFix m e
    let one := 2 ^ fixBits
    -- floor and fraction of the signed argument
    let k : Int := if neg then -((((x + one - 1) / one : Nat)) : Int) else ((x / one : Nat) : Int)
    let fr := if neg then (one - x % one) % one else x % one
    if fr = 0 then .val (.num false 1 k)
    else
      let v := expSeries (fixMul fr fixLn2) 72 1
      .at_ false (v - fixErr) (v + fixErr) (k - fixBits)

/-- log2 x for a positive x that is no power of two, or its exact value. -/
def log2Enc (m : Nat) (e : Int) : Enc :=
  let k := topOf m e
  if m = 2 ^ Nat.log2 m then .val (ofInt k 0 false)
  else
    let one := 2 ^ fixBits
    let y := toFix m (e - k)
    let z := (y - one) * one / (y + one)
    let ln := 2 * fixMul z (atanhSeries (fixMul z z) 110 0)
    let frac := ln * one / fixLn2
    let v : Int := k * (one : Int) + frac
    .at_ (decide (v < 0)) (v.natAbs - fixErr) (v.natAbs + fixErr) (-(fixBits : Int))

/-- sin(pi m 2^e) for 0 < m 2^e at most 1/2. -/
def sinSmall (neg : Bool) (m : Nat) (e : Int) : Enc :=
  if topOf m e = -1 ∧ m = 2 ^ Nat.log2 m then .val (.num neg 1 0)
  else
    let t := if topOf m e < -160 then 0 else let a := fixMul (toFix m e) fixPi; fixMul a a
    let s := fixMul fixPi (sinSeries t 80 0)
    .at_ neg (m * (s - fixErr)) (m * (s + fixErr)) (e - fixBits)

/-- x modulo 2 in units of 2^e, for e at most 0: x = m 2^e, and the unit. -/
def mod2 (m : Nat) (e : Int) : Nat := m % 2 ^ (1 + (-e).toNat)

/-- sin(pi x) of a finite non-integer x (R242). -/
def sinpiEnc (neg : Bool) (m : Nat) (e : Int) : Enc :=
  let u := 2 ^ (-e).toNat
  let r := mod2 m e
  -- the half turn decides the sign, the rest is folded about a quarter turn
  let half := decide (u < r)
  let a := if half then r - u else r
  let b := if u < 2 * a then u - a else a
  sinSmall (neg != half) b e

/-- cos(pi x) of a finite x that is no odd multiple of 1/2. -/
def cospiEnc (m : Nat) (e : Int) : Enc :=
  let u := 2 ^ (-e).toNat
  let r := mod2 m e
  let a := if u < r then 2 * u - r else r
  -- cos(pi a) for 0 <= a <= 1, a in units of u
  if a = 0 then .val (.num false 1 0)
  else if a = u then .val (.num true 1 0)
  else if topOf a e < -100 then .val (nearOne false)
  else
    let d := 2 * a
    if d < u then sinSmall false (u - d) (e - 1) else sinSmall true (d - u) (e - 1)

/-- A finite number is an integer; it is an odd multiple of one half. -/
def isInteger (m : Nat) (e : Int) : Bool := decide (0 ≤ e) || m % 2 ^ (-e).toNat == 0
def isHalf (m : Nat) (e : Int) : Bool := !isInteger m e && (decide (0 ≤ e + 1) || m % 2 ^ (-e - 1).toNat == 0)

/-- The functions with their special cases (R242); an infinite result is subject to the saturation attribute (R236). -/
inductive Func where
  | rcp | rsq | sqrt | exp2 | log2 | sinpi | cospi
  deriving DecidableEq, Repr

def Func.apply (g : Func) (f : FFmt) (rm : Round) (sat : Bool) (code : Nat) : Nat × FFlags :=
  let x := f.value code
  let fin := fun (r : FVal × FFlags) => let d := f.deliver rm sat r.1; (d.1, d.2 ||| r.2)
  match g with
  | .rcp => fin (rcpVal x)
  | .rsq => fin (rsqVal x)
  | .sqrt => fin (sqrtVal x)
  | .exp2 => match x with
    | .nan s => fin (.nan false, flagIf s flagIV)
    | .inf true => fin (.num false 0 0, 0)
    | .inf false => fin (.inf false, 0)
    | .num _ 0 _ => fin (.num false 1 0, 0)
    | .num n m e => (exp2Enc n m e).deliver f rm sat 0 code
  | .log2 => match x with
    | .nan s => fin (.nan false, flagIf s flagIV)
    | .inf true => fin (.nan false, flagIV)
    | .inf false => fin (.inf false, 0)
    | .num _ 0 _ => fin (.inf true, flagDZ)
    | .num true _ _ => fin (.nan false, flagIV)
    | .num false m e => (log2Enc m e).deliver f rm sat 1 code
  | .sinpi => match x with
    | .nan s => fin (.nan false, flagIf s flagIV)
    | .inf _ => fin (.nan false, flagIV)
    | .num n m e => if isInteger m e then fin (.num n 0 0, 0) else (sinpiEnc n m e).deliver f rm sat 2 code
  | .cospi => match x with
    | .nan s => fin (.nan false, flagIf s flagIV)
    | .inf _ => fin (.nan false, flagIV)
    | .num _ m e =>
      if isHalf m e then fin (.num false 0 0, 0)
      else if isInteger m e then
        fin (.num (decide (e ≤ 0) && m / 2 ^ (-e).toNat % 2 == 1) 1 0, 0)
      else (cospiEnc m e).deliver f rm sat 3 code

end Sys2Proof
end

