-- ==== Sys2Proof/Machine/FloatOps.lean ====
section
/-!
DEFINITION. The floating-point instructions (R301 to R310): element-wise arithmetic, selection and comparison, classification,
conversions and dot products. A rule gives each element's code and flags; the instruction applies it to every element of every
active lane and raises FP_EXCEPT instead of writing when an enabled flag is raised (R241, R283).
-/

namespace Sys2Proof

/-- The element type of a form, and its elements per operand (R285). -/
def FForm.fmt : FForm → FFmt
  | .f32 => .f32
  | .f64 => .f64
  | .f16 => .f16
  | .bf16 => .bf16
def FForm.count : FForm → Nat
  | .f32 | .f64 => 1
  | _ => 2
def IFmt.width : IFmt → Nat
  | .s8 | .w8 => 8
  | .s16 | .w16 => 16
  | .s32 | .w32 => 32
  | .s64 | .w64 => 64
def IFmt.signed : IFmt → Bool
  | .s8 | .s16 | .s32 | .s64 => true
  | _ => false

end Sys2Proof

namespace Sys2Proof.Machine

/-- A lane's result and flags. -/
abbrev FpRes := BitVec 128 × FFlags

/-- The results of all active lanes, or FP_EXCEPT (R241). -/
def State.fpResults (s : State) (w : Bool) (d : Operand) (n : Nat) (r : Wave → Nat → FpRes) : Except State State :=
  let x := s.me
  let rs := s.myLanes.map fun l => (l, r x l)
  let en := fpEnabled x.fpctl
  let bad := rs.filter fun (_, _, f) => f &&& en != 0
  match bad with
  | (_, _, f) :: _ => .error (s.trap causeFp 0 (maskOf (bad.map (·.1))) (f.setWidth 64))
  | [] => .ok (s.modWave s.cur.wave fun x =>
      let x := x.writeAll w d n (rs.map fun (l, v, _) => (l, v))
      { x with run := { x.run with flags := rs.foldl (fun m (_, _, f) => m ||| f) x.run.flags } })

/-- An element rule: direction, saturation, and the codes x, y, z. -/
abbrev FpOp := Round → Bool → Nat → Nat → Nat → Nat × FFlags

def fpElems (f : FForm) (rm : Round) (sat : Bool) (op : FpOp) (x y z : BitVec 128) : FpRes :=
  let n := f.fmt.width
  let rs := (List.range f.count).map fun e => op rm sat (elem x n e) (elem y n e) (elem z n e)
  (pack n (rs.map (·.1)), rs.foldl (fun m r => m ||| r.2) 0)

/-- A floating-point instruction over the elements of its form. -/
def State.fpR (s : State) (w : Bool) (d a b : Operand) (f : FForm) (op : FpOp) : Except State State :=
  s.fpResults w d f.regs fun x l =>
    fpElems f (x.lane l).rm (x.lane l).sat op (x.readN l f.regs a) (x.readN l f.regs b) (x.readN l f.regs d)

/-- A value rule with its one rounding (R301). -/
def fpRound (f : FFmt) (g : Round → FVal → FVal → FVal → FVal × FFlags) : FpOp := fun rm sat x y z =>
  let r := g rm (f.value x) (f.value y) (f.value z)
  let d := f.deliver rm sat r.1
  (d.1, d.2 ||| r.2)

def fpAdd (f : FFmt) : FpOp := fpRound f fun rm x y _ => sumVals rm [x, y]
def fpSub (f : FFmt) : FpOp := fpRound f fun rm x y _ => sumVals rm [x, y.negate]
def fpMul (f : FFmt) : FpOp := fpRound f fun _ x y _ => mulVals x y
def fpFma (f : FFmt) : FpOp := fpRound f fun rm x y z => fmaVals rm x y z
def fpFms (f : FFmt) : FpOp := fpRound f fun rm x y z => fmaVals rm x y z.negate
def fpNma (f : FFmt) : FpOp := fpRound f fun rm x y z => fmaVals rm x.negate y z
def fpMin (f : FFmt) : FpOp := fpRound f fun _ x y _ => minVals x y
def fpMax (f : FFmt) : FpOp := fpRound f fun _ x y _ => maxVals x y
def fpRint (f : FFmt) : FpOp := fpRound f fun rm x _ _ => rintVal rm x
def fpFunc (f : FFmt) (g : Func) : FpOp := fun rm sat x _ _ => g.apply f rm sat x
def fpLdexp (f : FFmt) : FpOp := fun rm sat x y _ =>
  let r := ldexpVal (sgn f.width y) (f.value x)
  let d := f.deliver rm sat r.1
  (d.1, d.2 ||| r.2)

/-- A comparison (R302): all ones where it holds; `quiet`: a signalling NaN alone raises IV. -/
def fpCmp (f : FFmt) (quiet : Bool) (c : FVal → FVal → Bool) : FpOp := fun _ _ x y _ =>
  let a := f.value x
  let b := f.value y
  (if c a b then 2 ^ f.width - 1 else 0, flagIf (if quiet then a.sig || b.sig else a.isNan || b.isNan) flagIV)
def anyNan (a b : FVal) : Bool := a.isNan || b.isNan

/-- FNEG and FABS (R303). -/
def fpNeg (f : FFmt) : FpOp := fun _ _ x _ _ => (if (f.value x).isNan then f.nan else x ^^^ 2 ^ (f.width - 1), 0)
def fpAbs (f : FFmt) : FpOp := fun _ _ x _ _ => (if (f.value x).isNan then f.nan else x % 2 ^ (f.width - 1), 0)

/-- FCLASS (R304). -/
def fpClass (f : FFmt) : FpOp := fun _ _ x _ _ =>
  (match f.value x with
    | .nan true => 1
    | .nan false => 2
    | .inf true => 4
    | .inf false => 512
    | .num n 0 _ => if n then 32 else 64
    | .num n m _ =>
      let normal := decide (2 ^ f.mbits ≤ m)
      if n then (if normal then 8 else 16) else (if normal then 256 else 128), 0)

/-! ### Conversions -/

/-- floor or ceiling of log2 of a positive number. -/
def log2Floor (m : Nat) (e : Int) : Int := (Nat.log2 m : Int) + e
def log2Ceil (m : Nat) (e : Int) : Int := log2Floor m e + (if m = 2 ^ Nat.log2 m then 0 else 1)

/-- A conversion to .e8m0 (R245). -/
def toE8m0 (rm : Round) (sat : Bool) : FVal → Nat × FFlags
  | .nan s => (0xFF, flagIf s flagIV)
  | .inf _ => if sat then (0xFE, flagOF) else (0xFF, flagIV)
  | .num _ 0 _ => (0, flagNX)
  | .num neg m e =>
    let k := (if rm = .ru then log2Ceil m e else log2Floor m e) + 127
    let k' := max 0 (min 254 k)
    let exact := !neg && m == 2 ^ Nat.log2 m && k == k'
    (k'.toNat, flagIf (!exact) flagNX ||| flagIf (decide (254 < k)) flagOF)

/-- A conversion to .u5m3 (R233). -/
def toU5m3 (rm : Round) : FVal → Nat × FFlags
  | .nan _ => (0xFF, flagIV)
  | .inf true => (0xFF, flagIV)
  | .inf false => (0xFE, flagOF)
  | .num _ 0 _ => (0, 0)
  | .num true _ _ => (0xFF, flagIV)
  | .num false m e => FFmt.u5m3.roundNum rm true false m e

/-- A conversion between float formats (R243). -/
def cvtFF (dst src : FFmt) (rm : Round) (sat : Bool) (x : Nat) : Nat × FFlags :=
  let v := src.value x
  match dst with
  | .e8m0 => toE8m0 rm sat v
  | .u5m3 => toU5m3 rm v
  | _ =>
    match v with
    | .nan s => (dst.nan, flagIf (s || !dst.hasNan) flagIV)
    | .inf n => if dst.hasInf then dst.deliver rm sat v else (dst.signBit n + dst.maxCode, flagOF)
    | _ => dst.deliver rm sat v

/-- The range of an integer type. -/
def IFmtRange (t : IFmt) : Int × Int :=
  if t.signed then (-2 ^ (t.width - 1), 2 ^ (t.width - 1) - 1) else (0, 2 ^ t.width - 1)

/-- A conversion to an integer (R244): the value, with a large magnitude taken as any value out of range. -/
def cvtFI (dst : IFmt) (src : FFmt) (rm : Round) (x : Nat) : Int × FFlags :=
  let (lo, hi) := IFmtRange dst
  match src.value x with
  | .nan _ => (0, flagIV)
  | .inf n => (if n then lo else hi, flagIV)
  | .num n m e =>
    let (r, inexact) := if 70 < (Nat.log2 m : Int) + e then (2 ^ 70, false) else roundAt rm n m e 0
    let v : Int := if n then -(r : Int) else r
    if v < lo then (lo, flagIV) else if hi < v then (hi, flagIV) else (v, flagIf inexact flagNX)

/-- The integer a conversion reads (R306). -/
def IFmtRead (t : IFmt) (v : BitVec 128) : Int :=
  let x := v.toNat % 2 ^ t.width
  if t.signed then sgn t.width x else x
def cvtIF (dst : FFmt) (rm : Round) (sat : Bool) (v : Int) : Nat × FFlags := dst.deliver rm sat (ofInt v 0 false)

/-- Stochastic rounding (R238). -/
def stochastic (dst : FFmt) (sat : Bool) (x rb : Nat) : Nat × FFlags :=
  match FFmt.f32.value x with
  | .num neg m e =>
    if m = 0 then (dst.signBit neg, 0)
    else
      let top := (Nat.log2 m : Int) + e
      let emax : Int := match dst with
        | .e5m2 => 15
        | .e4m3 => 8
        | _ => 2
      -- the spacing at |x|, no wider than that of the top binade
      let q := max (min top emax - dst.mbits) (1 - dst.bias - dst.mbits)
      let sh := (q - e).toNat
      let (lo, t, exact) := if q ≤ e then (m * 2 ^ (e - q).toNat, 0, true)
        else (m / 2 ^ sh, m % 2 ^ sh * 65536 / 2 ^ sh, m % 2 ^ sh == 0)
      let n := if 65536 ≤ t + rb then lo + 1 else lo
      -- n 2^q above the largest finite value is an overflow
      let (n', q') := if 2 ^ (dst.mbits + 1) ≤ n ∧ n % 2 = 0 then (n / 2, q + 1) else (n, q)
      let big := decide (2 ^ (dst.mbits + 1) < n') || decide (dst.maxCode < dst.pack n' q')
      if big then (dst.signBit neg + dst.overflow .rne sat neg, flagOF ||| flagNX)
      else (dst.signBit neg + dst.pack n' q',
        flagIf (!exact) flagNX ||| flagIf (!exact && decide (top < 1 - (dst.bias : Int))) flagUF)
  | _ => cvtFF dst .f32 .rne sat x

/-! ### Dot products (R308 to R310) -/

/-- Places of the elements of a register (R234): spacing in bits, number. -/
def dotPlaces : FFmt → Nat × Nat
  | .f16 | .bf16 => (16, 2)
  | .e2m1 => (4, 8)
  | _ => (8, 4)

/-- c + scale Σ a_i b_i, one rounding to .f32; `k` is the exponent of the scale, and none when a scale is NaN. -/
def dotRes (t : FFmt) (rm : Round) (sat : Bool) (k : Option Int) (a b c : Nat) : Nat × FFlags :=
  match k with
  | none => (FFmt.f32.nan, 0)
  | some k =>
    let (w, n) := dotPlaces t
    let ps := (List.range n).map fun i => mulVals (t.value (a / 2 ^ (w * i))) (t.value (b / 2 ^ (w * i)))
    let ps' := ps.map fun p => match p.1 with
      | .num s m e => FVal.num s m (e + k)
      | v => v
    let s := sumVals rm (FFmt.f32.value c :: ps')
    let d := FFmt.f32.deliver rm sat s.1
    (d.1, d.2 ||| s.2 ||| ps.foldl (fun m p => m ||| p.2) 0)

def dotScale (w : W32) : Option Int :=
  let sa := bits w 7 0
  let sb := bits w 15 8
  if sa = 255 ∨ sb = 255 then none else some ((sa : Int) - 127 + (sb - 127))

/-- A dot product; the scaled forms take c and the scales from a pair (R309). -/
def State.dot (s : State) (w : Bool) (d a b : Operand) (t : FFmt) (scaled : Bool) : Except State State :=
  s.fpResults w d 1 fun x l =>
    let k := if scaled then dotScale ((x.read64 l d).extractLsb' 32 32) else some 0
    let r := dotRes t (x.lane l).rm (x.lane l).sat k (x.read32 l a).toNat (x.read32 l b).toNat (x.read32 l d).toNat
    (BitVec.ofNat 128 r.1, r.2)

/-- IDOT4 (R310). -/
def idot4 (signed sat : Bool) (a b c : W32) : W32 :=
  let el := fun (v : W32) (i : Nat) => let x := v.toNat / 2 ^ (8 * i) % 256; if signed then sgn 8 x else (x : Int)
  let v := (List.range 4).foldl (fun s i => s + el a i * el b i) c.toInt
  BitVec.ofNat 32 (if sat then clampTo 32 v else wrapTo 32 v)

/-! ### The instructions -/

def execFadd (w : Bool) (d a b : Operand) (f : FForm) (s : State) : Host.Outcome State Fault Refusal :=
  s.perform (.fadd w d a b f) false fun t => t.fpR w d a b f (fpAdd f.fmt)
def execFsub (w : Bool) (d a b : Operand) (f : FForm) (s : State) : Host.Outcome State Fault Refusal :=
  s.perform (.fsub w d a b f) false fun t => t.fpR w d a b f (fpSub f.fmt)
def execFmul (w : Bool) (d a b : Operand) (f : FForm) (s : State) : Host.Outcome State Fault Refusal :=
  s.perform (.fmul w d a b f) false fun t => t.fpR w d a b f (fpMul f.fmt)
def execFfma (w : Bool) (d a b : Operand) (f : FForm) (s : State) : Host.Outcome State Fault Refusal :=
  s.perform (.ffma w d a b f) false fun t => t.fpR w d a b f (fpFma f.fmt)
def execFfms (w : Bool) (d a b : Operand) (f : FForm) (s : State) : Host.Outcome State Fault Refusal :=
  s.perform (.ffms w d a b f) false fun t => t.fpR w d a b f (fpFms f.fmt)
def execFnma (w : Bool) (d a b : Operand) (f : FForm) (s : State) : Host.Outcome State Fault Refusal :=
  s.perform (.fnma w d a b f) false fun t => t.fpR w d a b f (fpNma f.fmt)
def execFmin (w : Bool) (d a b : Operand) (f : FForm) (s : State) : Host.Outcome State Fault Refusal :=
  s.perform (.fmin w d a b f) false fun t => t.fpR w d a b f (fpMin f.fmt)
def execFmax (w : Bool) (d a b : Operand) (f : FForm) (s : State) : Host.Outcome State Fault Refusal :=
  s.perform (.fmax w d a b f) false fun t => t.fpR w d a b f (fpMax f.fmt)
def execFcmpeq (w : Bool) (d a b : Operand) (f : FForm) (s : State) : Host.Outcome State Fault Refusal :=
  s.perform (.fcmpeq w d a b f) false fun t => t.fpR w d a b f (fpCmp f.fmt true eqVals)
def execFcmpne (w : Bool) (d a b : Operand) (f : FForm) (s : State) : Host.Outcome State Fault Refusal :=
  s.perform (.fcmpne w d a b f) false fun t => t.fpR w d a b f (fpCmp f.fmt true fun x y => !eqVals x y)
def execFcmplt (w : Bool) (d a b : Operand) (f : FForm) (s : State) : Host.Outcome State Fault Refusal :=
  s.perform (.fcmplt w d a b f) false fun t => t.fpR w d a b f (fpCmp f.fmt false fun x y => !anyNan x y && ltVals x y)
def execFcmple (w : Bool) (d a b : Operand) (f : FForm) (s : State) : Host.Outcome State Fault Refusal :=
  s.perform (.fcmple w d a b f) false fun t => t.fpR w d a b f (fpCmp f.fmt false fun x y => !anyNan x y && !ltVals y x)
def execFcmpun (w : Bool) (d a b : Operand) (f : FForm) (s : State) : Host.Outcome State Fault Refusal :=
  s.perform (.fcmpun w d a b f) false fun t => t.fpR w d a b f (fpCmp f.fmt true anyNan)
def execFldexp (w : Bool) (d a b : Operand) (f : FForm) (s : State) : Host.Outcome State Fault Refusal :=
  s.perform (.fldexp w d a b f) false fun t => t.fpR w d a b f (fpLdexp f.fmt)
def execFneg (w : Bool) (d a : Operand) (f : FForm) (s : State) : Host.Outcome State Fault Refusal :=
  s.perform (.fneg w d a f) false fun t => t.fpR w d a .zero f (fpNeg f.fmt)
def execFabs (w : Bool) (d a : Operand) (f : FForm) (s : State) : Host.Outcome State Fault Refusal :=
  s.perform (.fabs w d a f) false fun t => t.fpR w d a .zero f (fpAbs f.fmt)
def execFrcp (w : Bool) (d a : Operand) (f : FForm) (s : State) : Host.Outcome State Fault Refusal :=
  s.perform (.frcp w d a f) false fun t => t.fpR w d a .zero f (fpFunc f.fmt .rcp)
def execFrsq (w : Bool) (d a : Operand) (f : FForm) (s : State) : Host.Outcome State Fault Refusal :=
  s.perform (.frsq w d a f) false fun t => t.fpR w d a .zero f (fpFunc f.fmt .rsq)
def execFsqrt (w : Bool) (d a : Operand) (f : FForm) (s : State) : Host.Outcome State Fault Refusal :=
  s.perform (.fsqrt w d a f) false fun t => t.fpR w d a .zero f (fpFunc f.fmt .sqrt)
def execFexp2 (w : Bool) (d a : Operand) (f : FForm) (s : State) : Host.Outcome State Fault Refusal :=
  s.perform (.fexp2 w d a f) false fun t => t.fpR w d a .zero f (fpFunc f.fmt .exp2)
def execFlog2 (w : Bool) (d a : Operand) (f : FForm) (s : State) : Host.Outcome State Fault Refusal :=
  s.perform (.flog2 w d a f) false fun t => t.fpR w d a .zero f (fpFunc f.fmt .log2)
def execFsinpi (w : Bool) (d a : Operand) (f : FForm) (s : State) : Host.Outcome State Fault Refusal :=
  s.perform (.fsinpi w d a f) false fun t => t.fpR w d a .zero f (fpFunc f.fmt .sinpi)
def execFcospi (w : Bool) (d a : Operand) (f : FForm) (s : State) : Host.Outcome State Fault Refusal :=
  s.perform (.fcospi w d a f) false fun t => t.fpR w d a .zero f (fpFunc f.fmt .cospi)
def execFrint (w : Bool) (d a : Operand) (f : FForm) (s : State) : Host.Outcome State Fault Refusal :=
  s.perform (.frint w d a f) false fun t => t.fpR w d a .zero f (fpRint f.fmt)
def execFclass (w : Bool) (d a : Operand) (f : FForm) (s : State) : Host.Outcome State Fault Refusal :=
  s.perform (.fclass w d a f) false fun t => t.fpR w d a .zero f (fpClass f.fmt)
def execCvtFf (w : Bool) (d a : Operand) (t u : FFmt) (s : State) : Host.Outcome State Fault Refusal :=
  s.perform (.cvtFf w d a t u) false fun x => x.fpResults w d t.regs fun v l =>
    let r := cvtFF t u (v.lane l).rm (v.lane l).sat (v.readN l u.regs a).toNat
    (BitVec.ofNat 128 r.1, r.2)
def execCvtFi (w : Bool) (d a : Operand) (t : IFmt) (u : FFmt) (s : State) : Host.Outcome State Fault Refusal :=
  s.perform (.cvtFi w d a t u) false fun x => x.fpResults w d t.regs fun v l =>
    let r := cvtFI t u (v.lane l).rm (v.readN l u.regs a).toNat
    (BitVec.ofNat 128 (wrapTo (32 * t.regs) r.1), r.2)
def execCvtIf (w : Bool) (d a : Operand) (t : FFmt) (u : IFmt) (s : State) : Host.Outcome State Fault Refusal :=
  s.perform (.cvtIf w d a t u) false fun x => x.fpResults w d t.regs fun v l =>
    let r := cvtIF t (v.lane l).rm (v.lane l).sat (IFmtRead u (v.readN l u.regs a))
    (BitVec.ofNat 128 r.1, r.2)
def execCvtSr (w : Bool) (d a b : Operand) (f : FFmt) (s : State) : Host.Outcome State Fault Refusal :=
  s.perform (.cvtSr w d a b f) false fun x => x.fpResults w d 1 fun v l =>
    let r := stochastic f (v.lane l).sat (v.read32 l a).toNat (bits (v.read32 l b) 15 0)
    (BitVec.ofNat 128 r.1, r.2)
def execDot2 (w : Bool) (d a b : Operand) (f : FFmt) (s : State) : Host.Outcome State Fault Refusal :=
  s.perform (.dot2 w d a b f) false fun t => t.dot w d a b f false
def execDot4 (w : Bool) (d a b : Operand) (f : FFmt) (s : State) : Host.Outcome State Fault Refusal :=
  s.perform (.dot4 w d a b f) false fun t => t.dot w d a b f false
def execDot8 (w : Bool) (d a b : Operand) (f : FFmt) (s : State) : Host.Outcome State Fault Refusal :=
  s.perform (.dot8 w d a b f) false fun t => t.dot w d a b f false
def execDot4x (w : Bool) (d a b : Operand) (f : FFmt) (s : State) : Host.Outcome State Fault Refusal :=
  s.perform (.dot4x w d a b f) false fun t => t.dot w d a b f true
def execDot8x (w : Bool) (d a b : Operand) (f : FFmt) (s : State) : Host.Outcome State Fault Refusal :=
  s.perform (.dot8x w d a b f) false fun t => t.dot w d a b f true
def execIdot4 (w : Bool) (d a b : Operand) (sg : Bool) (s : State) : Host.Outcome State Fault Refusal :=
  s.simple (.idot4 w d a b sg) fun t => t.results w d 1 fun x l =>
    (idot4 sg (x.lane l).sat (x.read32 l a) (x.read32 l b) (x.read32 l d)).setWidth 128

end Sys2Proof.Machine
end

