-- ==== Sys2Proof/Machine/Commit.lean ====
section
/-!
DEFINITION. Commit (R86 to R94): the closing operations at their homes (R326, R334, R340, R376), the log entries of a commit
(R442 to R445), local and chip commits, the waits that a change of memory releases, and what the end of a wave's last chunk brings.
-/

namespace Sys2Proof.Machine

/-! ### Atomics (R325, R252) -/

/-- The new value of a location of `n` bits; none when nothing is written. -/
def atomVal (op : AtomOp) (n old x y : Nat) : Option Nat :=
  match op with
  | .add => some ((old + x) % 2 ^ n)
  | .addF => some (fpAdd (if n = 64 then .f64 else .f32) .rne false old x 0).1
  | .minS => some (if sgn n old ≤ sgn n x then old else x)
  | .minW => some (min old x)
  | .maxS => some (if sgn n old ≤ sgn n x then x else old)
  | .maxW => some (max old x)
  | .and => some (old &&& x)
  | .or => some (old ||| x)
  | .xor => some (old ^^^ x)
  | .xchg => some x
  | .cas => if old = x then some y else none

/-- Audit of bytes written at an effective address (R428), for the workgroups of auditable launches. -/
def auditByte (sig ea : W64) (v : Byte) : W64 :=
  let t := ea * 0x9E3779B97F4A7C15 + v.setWidth 64 * 0xC2B2AE3D27D4EB4F
  let t := t ^^^ (t >>> 31)
  sig + t * 0x94D049BB133111EB
def State.auditable (s : State) (g : Nat) : Bool := ((s.launch (s.wg g).launch).record.getD 0 0).getLsbD 2
def State.audit (s : State) (g : Nat) (ea : W64) (bs : List Byte) : State :=
  if s.auditable g then
    s.modWg g fun x => { x with sig := (bs.zipIdx).foldl (fun a (b, i) => auditByte a (ea + BitVec.ofNat 64 i) b) x.sig }
  else s

/-- Bytes stored at scattered places. -/
def State.scatter (s : State) (ls : List Loc) (bs : List Byte) : State :=
  (pieces (ls.zip bs)).foldl (fun s (l, b) => s.storeAt l b) s

/-- One lane of an atomic at its home: the state after it, and the old value. -/
def State.atomLane (s : State) (op : AtomOp) (l : Width) (a : AtomLane) : State × Nat :=
  let old := leNat (a.locs.map s.peek)
  match atomVal op (8 * l.bytes) old (a.x.toNat % 2 ^ (8 * l.bytes)) (a.y.toNat % 2 ^ (8 * l.bytes)) with
  | some v => (s.scatter a.locs (leBytes l.bytes v), old)
  | none => (s, old)

/-- The lanes of an atomic in increasing order; with a result, the old values go to the destination (R327); each line counts as one
request (R43). -/
def State.applyAtomic (s : State) (k : Nat) (op : AtomOp) (l : Width) (lanes : List AtomLane) (dest : Option VReg) (ret : Bool) :
    State :=
  let s := ((lanes.filter (·.cnt)).flatMap fun a => (a.locs.take 1).map Loc.line).eraseDups.foldl (fun s l => s.countLine l true false) s
  lanes.foldl (fun s a =>
    let r := ((s.keepStale (s.waveTenant k) (s.aliasVa (s.waveTenant k) a.ea) a.locs).atomLane op l a)
    let g := (s.wave k).wg
    let s := r.1.audit g a.ea (a.locs.map r.1.peek)
    let s := if s.auditable g then s.modWg g fun x => { x with readBytes := x.readBytes + l.bytes } else s
    match dest, ret with
    | some d, true => s.modWave k fun w => w.putRegs a.lane (.v d) l.regs (BitVec.ofNat 128 r.2)
    | _, _ => s) s

/-! ### Barriers, counters and queues at their homes -/

/-- A change of a barrier object by a chunk, with the detail of BARRIER_BROKEN it finds (R334). -/
def barrierChange (op : BarOp) (b : Barrier) : Barrier × Option Nat :=
  match op with
  | .init n => (Barrier.start n, none)
  | .arrive => if b.init = 0 then (b, some 4) else (b.arriveOne, if b.over then some 1 else none)
  | .expect n => if b.init = 0 then (b, some 4) else (b.expect n, none)

/-- CTRSET (R376). -/
def ctrSetBytes (old : List Byte) (v : W64) : List Byte :=
  bytes64 v ++ bytes64 (le64 (old.drop 8) &&& ~~~(1#64 <<< 63 ||| 0x00FFFF0000000000#64))

/-- QPUSH at the control line (R340): entries in lane order, and each lane's status. -/
def State.pushEntries (s : State) (line : Nat) (entries : List (Nat × List W32)) : State × List (Nat × BitVec 128) :=
  entries.foldl (fun (s, st) (l, ws) =>
    let q := s.queueAt line
    if queueOcc q < 2 ^ q.2.2.2 then
      let e := s.entryAt line (q.1 % 2 ^ q.2.2.2)
      let s := s.placeAt (.mem e) (ws.flatMap bytes32)
      ((s.st64 line (BitVec.ofNat 64 (q.1 + 1))).stampHome line, st ++ [(l, 0)])
    else (s, st ++ [(l, 1)])) (s, [])

/-! ### Launch records (R169, R212, R379) -/

/-- A record appended to a queue of a tenant: the status of R379. -/
def State.appendRecord (s : State) (t q : Nat) (rec : List W64) : State × Nat :=
  let x := (s.tenant t).queues.getD q {}
  if !x.en then (s, 3)
  else if 64 ≤ x.recs.length then (s, 2)
  else
    ((({ s with nextId := s.nextId + 1 } : State).modTenant t fun y => { y with queues := y.queues.modify q fun z =>
        { z with recs := z.recs ++ [rec], stamps := z.stamps ++ [s.nextId], accepted := (z.accepted + 1) % 2 ^ 32 } }).push
        [.launchValidate t q], 1)

/-- The status word of a LAUNCH, written once as an engine write. -/
def State.launchStatus (s : State) (l : Option Loc) (code : Nat) : State :=
  match l with
  | some l => s.atHome l (.put (bytes64 (BitVec.ofNat 64 code)))
  | none => s

/-- The record of a LAUNCH whose chunk commits (R379). -/
def State.launchNow (s : State) (k q : Nat) (rank : Option Nat) (rec : List Loc) (status : Option Loc) : State :=
  let t := s.waveTenant k
  let dead := rec.any fun l => match l with
    | .mem a => s.poisoned a
    | .scr g o => Tab.get false (s.wg g).spoiled (o / 128)
    | _ => false
  if dead then s.launchStatus status 5
  else
    let ws := (List.range 8).map fun i => le64 (((rec.drop (8 * i)).take 8).map s.peek)
    match rank with
    | none => let r := s.appendRecord t q ws; r.1.launchStatus status r.2
    | some n =>
      let c := (s.tenant t).cur
      if c.jobSize.toNat ≤ n then s.launchStatus status 4
      else if n = c.jobRank.toNat then let r := s.appendRecord t q ws; r.1.launchStatus status r.2
      else match rankLookup s t n with
        | .error _ => s.launchStatus status 4
        | .ok leaf =>
          let tag := s.nextId
          { s with nextId := tag + 1, launchTags := match status with
            | some l => s.launchTags ++ [(tag, l)]
            | none => s.launchTags }.send (.launchRecord n q ws tag (!leaf.ether))

/-- The closing operation applied at its home. Failures of a barrier change are found here (R334). -/
def State.applyClosing (s : State) (k : Nat) (c : Closing) : State :=
  match c with
  | .none => s
  | .atomic op l lanes dest ret => s.applyAtomic k op l lanes dest ret
  | .barrier op obj ea pc mask =>
    let (b, bad) := barrierChange op (s.barrierAt obj)
    let s := if bad = some 4 then s else (s.storeAt obj b.toBytes).audit (s.wave k).wg ea b.toBytes
    match bad with
    | some d => s.trapAsync k pc causeBarrier d true mask ea
    | none => s
  | .ctrset obj v => s.storeAt obj (ctrSetBytes (s.peekN obj 16) v)
  | .qpush line entries w d =>
    let r := s.pushEntries line entries
    if w then r.1.modWave k fun x => r.2.foldl (fun x (l, v) => x.putRegs l d 1 v) x else r.1
  | .qpop _ _ => s
  | .engine _ => s
  | .launch q n rec st => s.launchNow k q n rec st

/-! ### Waits that a change releases (R335, R338, R341, R377, R407) -/

/-- The pop step of QPOP for the lanes of a set (R341): entries and statuses. -/
def State.popEntries (s : State) (line : Nat) (lanes : List Nat) : State × List (Nat × Option (List W32) × BitVec 128) :=
  lanes.foldl (fun (s, st) l =>
    let q := s.queueAt line
    if 0 < queueOcc q then
      let e := s.entryAt line (q.2.1 % 2 ^ q.2.2.2)
      let ws := (List.range 16).map fun i => le32 (s.peekN (.mem (e + 4 * i)) 4)
      ((s.st64 (line + 8) (BitVec.ofNat 64 (q.2.1 + 1))).stampHome line, st ++ [(l, some ws, 0)])
    else (s, st ++ [(l, none, if q.2.2.1 then 2 else 1)])) (s, [])

/-- A wait looks at an object in a line owned elsewhere: that is recalled first (R118). -/
def Waiting.recalls (x : Waiting) (s : State) : Option Nat :=
  match x.obj with
  | some (.mem a) => if (Tab.get {} s.dir (a / 128)).owner.isSome then some (a / 128) else none
  | _ => none
/-- Whether the object of a wait meets its condition now. -/
def State.waitMet (s : State) (x : Waiting) : Bool :=
  match x.kind, x.obj with
  | .bwait, some l => (s.barrierAt l).released (bits x.val 15 0)
  | .gsync, some l => (s.barrierAt l).released (bits x.val 15 0)
  | .qpop, some (.mem a) => let q := s.queueAt a; decide (0 < queueOcc q) || q.2.2.1
  | .ctrwait, some (.mem a) => decide ((s.ld64 a - x.val).toNat < 2 ^ 63)
  | _, _ => false

/-- A wave whose wait is met goes on. -/
def State.release (s : State) (k : Nat) : State :=
  let x := (s.wave k).wait
  let lanes := lanesOf x.mask
  match x.kind, x.obj with
  | .bwait, some l =>
    let st := ((s.barrierAt l).status (bits x.val 15 0)).setWidth 128
    s.completeWait k (lanes.map fun i => (i, st))
  | .gsync, some l =>
    let st := ((s.barrierAt l).status (bits x.val 15 0)).setWidth 128
    let pos := bits x.val 31 16
    (s.modWave k fun w => { w with gDone := bumpAt w.gDone pos, gArrived := setAt w.gArrived pos false }).completeWait k
      (lanes.map fun i => (i, st))
  | .qpop, some (.mem a) =>
    if !s.logRoom k 2 then s.refuseLog k (s.wave k).run.start
    else
      let head := s.ld64 (a + 8)
      let q := s.queueAt a
      let n := min lanes.length (queueOcc q)
      let s := if countedAt s k (leading x.mask) x.ea then
          ((List.range n).map fun i => (Loc.mem (s.entryAt a ((q.2.1 + i) % 2 ^ q.2.2.2))).line).eraseDups.foldl
            (fun s l => s.countLine l false false) (s.countLine (.mem a) true false)
        else s
      let (s, r) := (s.broadcast (some k) (s.lineKey (.mem a)).toList).popEntries a lanes
      let s := s.modWave k fun w =>
        let w := w.saveRows (destRegs x.b 16)
        let w := r.foldl (fun w (l, e, _) => match e with
          | some ws => (ws.zipIdx).foldl (fun w (v, i) => w.putRegs l (match x.b with
              | .v b => if h : b.val + i < 120 then .v ⟨b.val + i, h⟩ else .zero
              | o => o) 1 (v.setWidth 128)) w
          | none => w) w
        { w with run := { w.run with closing := .qpop a head } }
      s.completeWait k (r.map fun (l, _, v) => (l, v))
  | .ctrwait, some (.mem a) =>
    let w := s.ld64 (a + 8)
    let s := if w.getLsbD 63 then s.trapNext k x.pc (bits w 55 48) (bits w 47 40) x.mask x.ea else s
    s.completeWait k []
  | _, _ => s

/-- After any change of memory: resident waiters whose condition now holds go on; a saved workgroup becomes ready (R407, R217). -/
def State.wakeAll (s : State) : State :=
  s.liveWaves.foldl (fun s k =>
    let w := s.wave k
    if w.wait.kind == .none || w.wait.kind == .far then s
    else if let some l := w.wait.recalls s then s.askRecall l
    else if !s.waitMet w.wait then s
    else
      let g := s.wg w.wg
      if g.saved || g.saving || g.restoring then s.modWg w.wg fun g => { g with ready := true }
      else if w.lanes.all (fun l => l.exited || l.halted) then s
      else s.release k) s

/-! ### The log entries of a commit (R442 to R445) -/

/-- Undo entries of a change of `n` bytes at a place. -/
def undoEntries (s : State) (g ts : Nat) (l : Loc) (n : Nat) : List (List W64) :=
  (cuts 0 n).map fun (o, m) => placeEntry s 4 (l.add o) (s.peekN (l.add o) m) (undoTs s l g ts)

/-- The undo entries of a chunk's stores, oldest first, each before its own write; the state in which its closing operation will
find memory comes back with them. -/
def undoWrites (s : State) (g ts : Nat) (ws : List Write) : State × List (List W64) :=
  ws.foldl (fun (s, es) x => (s.storeAt x.loc x.bytes, es ++ undoEntries s g ts x.loc x.bytes.length)) (s, [])

/-- The undo entries of a closing operation, and whether an unwind leaves them (R387). -/
def undoClosing (s : State) (g ts : Nat) (c : Closing) : List (List W64) × Bool :=
  match c with
  | .atomic op l lanes _ _ =>
    ((lanes.foldl (fun (p : State × List (List W64)) a =>
      let old := leNat (a.locs.map p.1.peek)
      let writes := (atomVal op (8 * l.bytes) old (a.x.toNat % 2 ^ (8 * l.bytes)) 0).isSome
      let es := if writes then (pieces (a.locs.map fun q => (q, (0 : Byte)))).flatMap fun (q, b) => undoEntries p.1 g ts q b.length else []
      ((p.1.atomLane op l a).1, p.2 ++ es)) (s, [])).2, false)
  | .barrier op obj _ _ _ =>
    (if (barrierChange op (s.barrierAt obj)).2 = some 4 then [] else undoEntries s g ts obj 16, true)
  | .ctrset obj _ => (undoEntries s g ts obj 16, true)
  | .qpush line entries _ _ =>
    let q := s.queueAt line
    let free := 2 ^ q.2.2.2 - queueOcc q
    let es := (List.range (min free entries.length)).flatMap fun i =>
      undoEntries s g ts (.mem (s.entryAt line ((q.1 + i) % 2 ^ q.2.2.2))) 64
    (es ++ (if es.isEmpty then [] else undoEntries s g ts (.mem line) 8), false)
  | .qpop line head =>
    ([placeEntry s 4 (.mem (line + 8)) (bytes64 head) (BitVec.ofNat 64 ts)], false)
  | _ => ([], false)

/-- The entries of a commit appended in one piece; none when the full log refuses it. A window is wanted after 65,536 commits
(R448). -/
def State.logCommit (s : State) (k : Nat) (c : Chunk) (local_ : Bool) (ts : Nat) : Option State :=
  let t := s.waveTenant k
  if !(s.tenant t).logging then some s
  else
    let g := (s.wave k).wg
    let ins := c.inputs.map fun (l, n, v) => inputEntry s k l n v
    let (v, es) := undoWrites s g ts c.writes.reverse
    let (cs, fixed) := undoClosing v g ts c.closing
    let all := ins ++ commitEntry s k c local_ ts :: es ++ cs
    if (s.tenant t).reverse.isSome then
      some (s.modTenant t fun x => { x with revExtra := some ({ s.capture t with wave := some k, at_ := x.revTarget.getD x.logTail }, all) })
    else match s.logTry t all with
    | none => none
    | some s =>
      let n := (s.tenant t).commitsInWin + 1
      let first := (s.tenant t).logTail - cs.length
      let s := s.modTenant t fun x =>
        { x with commitsInWin := n, windowWanted := x.windowWanted || n == 65536, past := x.past.modifyHead fun p => { p with wave := some k },
                 fixedUndo := if fixed then x.fixedUndo ++ (List.range cs.length).map (first + ·) else x.fixedUndo }
      some (if n = 65536 then s.push [.logWindowOpen t] else s)

/-! ### Commit -/

/-- Store lines of the registers a chunk wrote (R90). -/
def State.regKeys (s : State) (k : Nat) (c : Chunk) : List W64 :=
  s.keysOf (c.saved.flatMap fun (v, _) => [Loc.reg k (256 * v), .reg k (256 * v + 128)])

/-- The test of other waves' reads of the registers a chunk wrote, and of registers its window stores wrote (R90, R104). -/
def State.registerTests (s : State) (k : Nat) (c : Chunk) : State :=
  (s.localTest (some k) (s.wave k).wg (s.coreOf k) (s.regKeys k c)).regTest k
    (c.writes ++ c.closing.places.map fun l => { loc := l, ea := 0, bytes := [] })

/-- Home objects that a closing operation asks for (R43): its object, and of a push the entries written. Atomics count at their homes. -/
def State.closingObjects (s : State) (c : Closing) : List Loc :=
  match c with
  | .barrier _ obj _ _ _ | .ctrset obj _ => [obj]
  | .qpush line entries _ _ =>
    let q := s.queueAt line
    let n := min entries.length (2 ^ q.2.2.2 - queueOcc q)
    Loc.mem line :: (List.range n).map fun i => Loc.mem (s.entryAt line ((q.1 + i) % 2 ^ q.2.2.2))
  | _ => []
def State.closingLines (s : State) (c : Closing) : List Loc := ((s.closingObjects c).map Loc.line).eraseDups
/-- What every commit brings at once: sticky flags, progress points, counts, the reservation, the slots (R92, R223, R240, R389). -/
def State.commitMarks (s : State) (k : Nat) (c : Chunk) : State :=
  let t := s.waveTenant k
  let s := if c.closingCnt then (s.closingLines c.closing).foldl (fun s l => s.countLine l true false) s else s
  let s := s.chargeSlots k c.slots .issue
  let s := s.modTenant t fun x =>
    { x with progcnt := c.prog.foldl (fun ps (n, m) => ps.modify n (· + BitVec.ofNat 64 m)) x.progcnt }
  let s := s.modWave k fun w =>
    { w with fpctl := fpSticky w.fpctl c.flags, squashes := 0, replays := 0, refused := false, nchk := w.nchk + 1,
             stale := if c.view then [] else w.stale,
             bad := (w.bad.map fun (v, m) => (v, c.mended.foldl (fun m (r, k) => if r = v then m &&& ~~~k else m) m)).filter (·.2 != 0) }
  let s := if s.auditable (s.wave k).wg then
      c.writes.reverse.foldl (fun s x => s.audit (s.wave k).wg x.ea x.bytes)
        (s.modWg (s.wave k).wg fun g => { g with readBytes := g.readBytes + c.rbytes })
    else s
  s.releaseRes k

/-- A wave or workgroup whose last lanes exited (R197, R292, R386): ownership released, the region closed, retirement due. -/
def State.afterExit (s : State) (k : Nat) : State :=
  let w := s.wave k
  if !w.handler && w.lanes.all (·.exited) then
    let s := s.dropEngine k
    if (s.wgWaves w.wg).all fun j => (s.wave j).lanes.all (·.exited) then
      (s.modWg w.wg fun g => { g with cntOpen := false }).push [.workgroupRetire w.wg]
    -- no entry is queued for a wave that has ended (R405)
    else s.makeArrivals w.wg
  else s

/-- The committing chunk is done: the running one may follow, a trap or halt that waited is taken (R79, R400); a STEP or a replay ends
with it (R433, R454). -/
def State.commitDone (s : State) (k : Nat) : State :=
  let step := (s.wave k).com.any fun c => c.step.isSome
  let s := (s.modWave k fun w => { w with com := none }).afterExit k
  let s := if step then (s.discardRun k .halt).modWave k Wave.endStep else s
  let s := match (s.tenant (s.waveTenant k)).reverse with
    | some r => if r.wave = k then s.endReverse (s.waveTenant k) r.result else s
    | none => s
  let s := (s.takeTrap k).advance k
  let s := if (s.wave k).trapQ.isEmpty then s else s.push [.trapDelivery k]
  s.wakeAll

/-- A refused commit (R93, R402): in handler mode, or with its effect performed already (R78), the chunk waits, else it and the younger one are discarded and LOG_FULL raised. -/
def State.refuseCommit (s : State) (k : Nat) (c : Chunk) : State :=
  if (s.wave k).handler || c.performed then s.commitWaits k
  else
    let t := s.discardBoth k .squash
    if (s.launch (s.wg (s.wave k).wg).launch).aborted then t.endAborted k else t.refuseLog k c.start

/-- Places that a commit writes in device memory, byte by byte for stores and atomics, object by object for others. -/
def State.commitPlaces (s : State) (c : Chunk) : List Loc :=
  (c.writes.flatMap fun x => (List.range x.bytes.length).map x.loc.add) ++ c.closing.places ++ s.closingObjects c.closing
/-- What a commit waits for at the homes of what it writes, and of the record that a LAUNCH reads: a line owned elsewhere (R118), a
back-invalidation (R151), a page whose bias flips (R153). -/
def State.commitStallAt (s : State) (c : Chunk) : Option Stall :=
  ((s.commitPlaces c).findSome? (s.memWait true)).orElse fun _ => match c.closing with
    | .launch _ _ rec _ => rec.findSome? (s.memWait false)
    | _ => none

/-- A local commit of another wave on the holder's core that the holder's reads meet waits (R92). -/
def State.localBlocked (s : State) (k : Nat) (sig : BitVec 1024) : Bool :=
  match s.resHolder with
  | some h => h != k && (s.wave h).wg == (s.wave k).wg && s.coreOf h == s.coreOf k && s.resBlocks (some k) sig
  | none => false

/-- Stores of a wave's commit at their homes, with their counts (R43) and what the owners of private memory go on seeing (R103). -/
def State.commitWrites (s : State) (k : Nat) (ws : List Write) : State :=
  let t := s.waveTenant k
  let s := ws.foldl (fun (s : State) x =>
    let ls := (List.range x.bytes.length).map x.loc.add
    let s := s.invUse ls
    let s := if isPrivate x.ea then s.modWave k fun w => w.dropStale ls else s.keepStale t (s.aliasVa t x.ea) ls
    s.storeAt x.loc x.bytes) s
  ((ws.filter (·.cnt)).map (·.loc.line)).eraseDups.foldl (fun s l => s.countLine l true false) s

/-- Local commit (R86, R90): it waits for the lines it writes that an earlier commit has locked; a command on no chip memory forks. -/
def State.localCommit (s : State) (k : Nat) : State :=
  let w := s.wave k
  match w.com with
  | none => s
  | some c =>
    let sig := c.wsig ||| sigOf (s.regKeys k c)
    if !w.live || s.localBlocked k sig || (c.lines ++ rowLocs k (c.saved.map (·.1))).any s.pendingLine then s
    else match s.commitStallAt c, s.logCommit k c true s.lastTs with
      | some st, _ => s.askFor st
      | none, none => s.refuseCommit k c
      | none, some s =>
        let s := s.squashMet c.wsig ((s.wgWaves w.wg).filter fun j => j != k && s.coreOf j == s.coreOf k)
        let s := s.registerTests k c
        let s := (s.l1Drop (s.keysOf (c.writes.map (·.loc.line)))).commitWrites k c.writes.reverse
        let s := (s.applyClosing k c.closing).commitMarks k c
        (match c.closing with
          | .engine cmd => s.forkCmd cmd
          | _ => s).commitDone k

/-- The closing operation's part at one home (R88): an atomic acts at each home on the lanes whose location lies there. -/
def State.closingAt (s : State) (home : Nat) : Closing → Closing
  | .atomic op l lanes d r =>
    match lanes.filter fun a => s.homeOf (a.locs.headD (.mem 0)) == home with
    | [] => .none
    | ls => .atomic op l ls d r
  | .engine _ => .none
  | c => if (c.places.map s.homeOf).contains home then c else .none

/-- The operation packets of a chip commit, one for each home (R88). -/
def State.packetsOf (s : State) (k ts : Nat) (c : Chunk) (sig : BitVec 1024) (clusters : List Nat) : List OpPacket :=
  let homes := ((c.writes.reverse.map fun x => s.homeOf x.loc) ++ c.closing.places.map s.homeOf).eraseDups
  homes.map fun h =>
    { home := h, ts := ts, wave := k, writes := c.writes.reverse.filter fun x => s.homeOf x.loc == h, closing := s.closingAt h c.closing,
      sig := sig, clusters := clusters }

/-- Chip commit (R87, R88): waits for locked lines and for the reservation's holder; stamps, broadcasts, sends the packets. -/
def State.chipCommit (s : State) (k : Nat) : State :=
  let w := s.wave k
  match w.com with
  | none => s
  | some c =>
    if !w.live || c.ts.isSome || s.resBlocks (some k) c.wsig || c.lines.any s.pendingLine then s
    else
      let ts := s.lastTs + 1
      match s.commitStallAt c, s.logCommit k c false ts with
      | some st, _ => s.askFor st
      | none, none => s.refuseCommit k c
      | none, some s =>
        let keys := s.keysOf c.openLines
        let cl := s.readerClusters keys
        let s := ({ s with lastTs := ts }.l1Drop (s.keysOf c.lines))
        let s := (s.broadcast (some k) keys).registerTests k c
        let ps := s.packetsOf k ts c (sigOf keys) cl
        let s := { s with packets := s.packets ++ ps }
        let s := s.commitMarks k c
        let s := match c.closing with
          | .engine cmd => s.forkCmd cmd
          | _ => s
        if ps.isEmpty then s.commitDone k
        else (s.modWave k fun w => { w with com := some { c with ts := some ts } }).push (ps.map fun p => .lineApplied p.home)

/-- The oldest packet of a home is applied (R87, R88). -/
def State.lineApplied (s : State) (home : Nat) : State :=
  match s.packets.find? (·.home == home) with
  | none => s
  | some p =>
    let s := { s with packets := s.packets.erase p }
    let s := (s.commitWrites p.wave p.writes).applyClosing p.wave p.closing
    if (s.packets.any fun q => q.wave == p.wave && q.ts == p.ts) || ((s.wave p.wave).com.bind (·.ts)) ≠ some p.ts then s.wakeAll
    else s.commitDone p.wave

def execLocalCommit (wave : Nat) (s : State) : Host.Outcome State Fault Refusal := (s.localCommit wave).done
def execChipCommit (wave : Nat) (s : State) : Host.Outcome State Fault Refusal := (s.chipCommit wave).done
def execLineApplied (home : Nat) (s : State) : Host.Outcome State Fault Refusal := (s.lineApplied home).done

/-- The reservation is granted in request order (R92). -/
def execReservationGrant (s : State) : Host.Outcome State Fault Refusal :=
  match s.resHolder, s.resQueue with
  | none, k :: rest => ({ s with resHolder := some k, resQueue := rest } : State).done
  | _, _ => s.done

end Sys2Proof.Machine
end

