-- ==== Sys2Proof/WellFormed.lean ====
section
/-!
DEFINITION. The checked conditions of an instruction beyond its syntax: the enumerated values each row defines (check 3 of
R264), the codes each field may name (check 4) and the alignment of pairs, quads and groups (check 5).
-/

namespace Sys2Proof

/-- LIMIT of HINT CHUNKSZ: 0, or 16 to 4,096 (R261). -/
def limitOk (l : BitVec 13) : Bool := l == 0 || (16 ≤ l.toNat && l.toNat ≤ 4096)

/-- The conversions of code 0x69 (R305). -/
def cvtPair (t u : FFmt) : Bool :=
  t != u && (match u with
    | .e8m0 | .u5m3 => t == .f32
    | _ => t != .u5m3 || u == .f32)

/-- Float types of codes 0x6A and 0x6B: 0 to 8 (R305). -/
def cvtNum (t : FFmt) : Bool := t != .e8m0 && t != .u5m3

/-- Enumerated values in range (check 3 of R264, R265 to R269, R353). -/
def Instr.fieldsOk : Instr → Bool
  | .pause n => n != 0
  | .andI _ _ _ _ f | .orI _ _ _ _ f | .xorI _ _ _ _ f => f == .w32 || f == .w64
  | .and _ _ _ _ f | .or _ _ _ _ f | .xor _ _ _ _ f | .andn _ _ _ _ f | .rotl _ _ _ _ f | .bfeW _ _ _ _ f
  | .bfeS _ _ _ _ f | .bfi _ _ _ _ f | .sel _ _ _ _ f => f == .w32 || f == .w64
  | .popc _ _ _ f | .clz _ _ _ f | .brev _ _ _ f => f == .w32 || f == .w64
  | .shlI _ _ _ i _ | .shrI _ _ _ i _ | .sarI _ _ _ i _ => !i.msb
  | .rotlI _ _ _ i f => !i.msb && (f == .w32 || f == .w64)
  | .fldexp _ _ _ _ f => f == .f32 || f == .f64
  | .fclass _ _ _ f => f == .f32 || f == .f64
  | .cvtFf _ _ _ t u => cvtPair t u
  | .cvtFi _ _ _ _ u => cvtNum u
  | .cvtIf _ _ _ t _ => cvtNum t
  | .cvtSr _ _ _ _ f => f == .e5m2 || f == .e4m3 || f == .e2m1
  | .dot2 _ _ _ _ f => f == .f16 || f == .bf16
  | .dot4 _ _ _ _ f | .dot4x _ _ _ _ f => f == .e4m3 || f == .e5m2 || f == .e3m2 || f == .e2m3
  | .dot8 _ _ _ _ f | .dot8x _ _ _ _ f => f == .e2m1
  | .shflup _ _ _ i | .shfldn _ _ _ i | .shflx _ _ _ i | .bcast _ _ _ i => !i.msb
  | .ldSigned _ _ _ _ l _ => l == .b1 || l == .b2
  | .aadd _ _ _ l _ | .aaddF _ _ _ l _ | .aminS _ _ _ l _ | .aminW _ _ _ l _ | .amaxS _ _ _ l _ | .amaxW _ _ _ l _
  | .aand _ _ _ l _ | .aor _ _ _ l _ | .axor _ _ _ l _ | .axchg _ _ _ l _ => l == .b4 || l == .b8
  | .acas _ _ _ l _ => l == .b4 || l == .b8 || l == .b16
  | .redAdd _ _ _ l _ | .redAddF _ _ _ l _ | .redMinS _ _ _ l _ | .redMinW _ _ _ l _ | .redMaxS _ _ _ l _
  | .redMaxW _ _ _ l _ | .redAnd _ _ _ l _ | .redOr _ _ _ l _ | .redXor _ _ _ l _ => l == .b4 || l == .b8
  | .aballoc _ _ n | .abfree _ n => 1 ≤ n.toNat && n.toNat ≤ 128
  | .mmaF16 _ _ _ _ f | .mmaFp4 _ _ _ _ f => f.toNat < 2
  | .hintChunksz l => limitOk l
  | .hintStick n => n != 0
  | _ => true

/-- A well-formed instruction: one that the decode checks 1 to 5 accept. -/
def Instr.wf (i : Instr) : Bool := i.fieldsOk && i.units.all Use.named && i.units.all Use.aligned

end Sys2Proof
end

