-- ==== Sys2Proof/Decode.lean ====
section
/-!
DEFINITION. The instruction word (R254 to R269): its fields, the decode checks 1 to 5 of R264 in their order, the decoder, total
on every word, the encoder, and the host's view of the decoder.
-/

namespace Sys2Proof

/-! ### Codes of the enumerated fields -/

/-- Operand codes (R257). -/
def Operand.code : Operand → BitVec 7
  | .v n => BitVec.ofNat 7 n.val
  | .x k => BitVec.ofNat 7 (120 + k.val)
  | .zero => 124
  | .lane => 125
  | .imm => 126
  | .tid => 127
def Operand.ofCode (c : BitVec 7) : Operand :=
  if h : c.toNat < 120 then .v ⟨c.toNat, h⟩
  else if h : c.toNat < 124 then .x ⟨c.toNat - 120, by omega⟩
  else if c = 124 then .zero
  else if c = 125 then .lane
  else if c = 126 then .imm
  else .tid
/-- A register named by an E-format field. -/
def vcode (v : VReg) : BitVec 7 := BitVec.ofNat 7 v.val
def VReg.ofCode (c : BitVec 7) : Option VReg := if h : c.toNat < 120 then some ⟨c.toNat, h⟩ else none

/-- f of class W (R265). -/
def IForm.code : IForm → BitVec 2
  | .w32 => 0
  | .w64 => 1
  | .h16 => 2
  | .b8 => 3
def IForm.of (c : BitVec 2) : IForm :=
  match c.toNat with
  | 0 => .w32
  | 1 => .w64
  | 2 => .h16
  | _ => .b8

/-- f of class T (R265). -/
def FForm.code : FForm → BitVec 2
  | .f32 => 0
  | .f64 => 1
  | .f16 => 2
  | .bf16 => 3
def FForm.of (c : BitVec 2) : FForm :=
  match c.toNat with
  | 0 => .f32
  | 1 => .f64
  | 2 => .f16
  | _ => .bf16

/-- f of WADD and WSCAN (R313). -/
def SumForm.code : SumForm → BitVec 2
  | .b32 => 0
  | .b64 => 1
  | .f32 => 2
  | .f64 => 3
def SumForm.of (c : BitVec 2) : SumForm :=
  match c.toNat with
  | 0 => .b32
  | 1 => .b64
  | 2 => .f32
  | _ => .f64

/-- f of WMIN and WMAX (R313). -/
def MinForm.code : MinForm → BitVec 2
  | .s32 => 0
  | .w32 => 1
  | .f32 => 2
def MinForm.ofCode (c : BitVec 2) : Option MinForm :=
  match c.toNat with
  | 0 => some .s32
  | 1 => some .w32
  | 2 => some .f32
  | _ => Option.none

/-- f of VOTE (R314). -/
def VoteForm.code : VoteForm → BitVec 2
  | .any => 0
  | .all => 1
  | .ballot => 2
def VoteForm.ofCode (c : BitVec 2) : Option VoteForm :=
  match c.toNat with
  | 0 => some .any
  | 1 => some .all
  | 2 => some .ballot
  | _ => Option.none

/-- f of copy and fabric rows (R269). -/
def Comp.code : Comp → BitVec 2
  | .none => 0
  | .bar => 1
  | .ctr => 2
def Comp.ofCode (c : BitVec 2) : Option Comp :=
  match c.toNat with
  | 0 => some .none
  | 1 => some .bar
  | 2 => some .ctr
  | _ => Option.none

/-- f of MDRAIN (R364). -/
def DrainForm.code : DrainForm → BitVec 2
  | .replace => 0
  | .add => 1
  | .cvt => 2
def DrainForm.ofCode (c : BitVec 2) : Option DrainForm :=
  match c.toNat with
  | 0 => some .replace
  | 1 => some .add
  | 2 => some .cvt
  | _ => Option.none

/-- RM of HINT MOD (R261). -/
def Round.code : Round → BitVec 2
  | .rne => 0
  | .rz => 1
  | .ru => 2
  | .rd => 3
def Round.of (c : BitVec 2) : Round :=
  match c.toNat with
  | 0 => .rne
  | 1 => .rz
  | 2 => .ru
  | _ => .rd

/-- The scope field (R316). -/
def Scope.code : Scope → BitVec 3
  | .wv => 0
  | .wg => 1
  | .cl => 2
  | .chip => 3
  | .sys => 4
  | .near => 5
  | .pod => 6
  | .fab => 7
def Scope.of (c : BitVec 3) : Scope :=
  match c.toNat with
  | 0 => .wv
  | 1 => .wg
  | 2 => .cl
  | 3 => .chip
  | 4 => .sys
  | 5 => .near
  | 6 => .pod
  | _ => .fab

/-- The width field (R268). -/
def Width.code : Width → BitVec 3
  | .b1 => 0
  | .b2 => 1
  | .b4 => 2
  | .b8 => 3
  | .b16 => 4
def Width.ofCode (c : BitVec 3) : Option Width :=
  match c.toNat with
  | 0 => some .b1
  | 1 => some .b2
  | 2 => some .b4
  | 3 => some .b8
  | 4 => some .b16
  | _ => Option.none

/-- ORD (R268). -/
def Order.code : Order → BitVec 3
  | .none => 0
  | .acq => 1
  | .rel => 2
  | .acqrel => 3
def Order.ofCode (c : BitVec 3) : Option Order :=
  match c.toNat with
  | 0 => some .none
  | 1 => some .acq
  | 2 => some .rel
  | 3 => some .acqrel
  | _ => Option.none

/-- Float types (R267). -/
def FFmt.code : FFmt → BitVec 4
  | .f32 => 0
  | .f64 => 1
  | .f16 => 2
  | .bf16 => 3
  | .e5m2 => 4
  | .e4m3 => 5
  | .e3m2 => 6
  | .e2m3 => 7
  | .e2m1 => 8
  | .e8m0 => 9
  | .u5m3 => 10
def FFmt.ofCode (c : BitVec 4) : Option FFmt :=
  match c.toNat with
  | 0 => some .f32
  | 1 => some .f64
  | 2 => some .f16
  | 3 => some .bf16
  | 4 => some .e5m2
  | 5 => some .e4m3
  | 6 => some .e3m2
  | 7 => some .e2m3
  | 8 => some .e2m1
  | 9 => some .e8m0
  | 10 => some .u5m3
  | _ => Option.none

/-- Integer types (R267). -/
def IFmt.code : IFmt → BitVec 4
  | .s8 => 0
  | .s16 => 1
  | .s32 => 2
  | .s64 => 3
  | .w8 => 4
  | .w16 => 5
  | .w32 => 6
  | .w64 => 7
def IFmt.ofCode (c : BitVec 4) : Option IFmt :=
  match c.toNat with
  | 0 => some .s8
  | 1 => some .s16
  | 2 => some .s32
  | 3 => some .s64
  | 4 => some .w8
  | 5 => some .w16
  | 6 => some .w32
  | 7 => some .w64
  | _ => Option.none

/-- f of CVT .sr (R307). -/
def SrFmt.of (c : BitVec 2) : Option FFmt :=
  match c.toNat with
  | 0 => some .e5m2
  | 1 => some .e4m3
  | 2 => some .e2m1
  | _ => Option.none
def SrFmt.code (f : FFmt) : BitVec 2 :=
  match f with
  | .e5m2 => 0
  | .e4m3 => 1
  | .e2m1 => 2
  | _ => 0

/-- f of DOT2 (R308). -/
def Dot2Fmt.of (c : BitVec 2) : Option FFmt :=
  match c.toNat with
  | 2 => some .f16
  | 3 => some .bf16
  | _ => Option.none
def Dot2Fmt.code (f : FFmt) : BitVec 2 :=
  match f with
  | .f16 => 2
  | .bf16 => 3
  | _ => 0

/-- f of DOT4 and DOT4X (R308). -/
def Dot4Fmt.of (c : BitVec 2) : Option FFmt :=
  match c.toNat with
  | 0 => some .e4m3
  | 1 => some .e5m2
  | 2 => some .e3m2
  | 3 => some .e2m3
  | _ => Option.none
def Dot4Fmt.code (f : FFmt) : BitVec 2 :=
  match f with
  | .e4m3 => 0
  | .e5m2 => 1
  | .e3m2 => 2
  | .e2m3 => 3
  | _ => 0

/-- f of DOT8 and DOT8X (R308). -/
def Dot8Fmt.of (c : BitVec 2) : Option FFmt :=
  match c.toNat with
  | 0 => some .e2m1
  | _ => Option.none
def Dot8Fmt.code (f : FFmt) : BitVec 2 :=
  match f with
  | .e2m1 => 0
  | _ => 0

/-- The registers of R384. -/
def Csr.code : Csr → BitVec 15
  | .ptRoot => 0x100 | .rgnBase => 0x101 | .rankBase => 0x102 | .rankCount => 0x103 | .jobRank => 0x104 | .jobSize => 0x105
  | .jobPrefix => 0x106 | .poisonStat => 0x107 | .scopeCfg => 0x108 | .podCfg => 0x109 | .psetBase => 0x10A
  | .psetCount => 0x10B | .podTime => 0x10C | .fpctl => 0x110 | .tvec => 0x120 | .tcause => 0x121 | .tpc => 0x122
  | .tfpc => 0x123 | .tmask => 0x124 | .tinfo => 0x125 | .cntStat => 0x130 | .progcnt n => BitVec.ofNat 15 (0x140 + n.val)
def Csr.ofCode (c : BitVec 15) : Option Csr :=
  if h : 0x140 ≤ c.toNat ∧ c.toNat < 0x150 then some (.progcnt ⟨c.toNat - 0x140, by omega⟩)
  else match c.toNat with
    | 0x100 => some .ptRoot | 0x101 => some .rgnBase | 0x102 => some .rankBase | 0x103 => some .rankCount
    | 0x104 => some .jobRank | 0x105 => some .jobSize | 0x106 => some .jobPrefix | 0x107 => some .poisonStat
    | 0x108 => some .scopeCfg | 0x109 => some .podCfg | 0x10A => some .psetBase | 0x10B => some .psetCount
    | 0x10C => some .podTime | 0x110 => some .fpctl | 0x120 => some .tvec | 0x121 => some .tcause | 0x122 => some .tpc
    | 0x123 => some .tfpc | 0x124 => some .tmask | 0x125 => some .tinfo | 0x130 => some .cntStat
    | _ => none

/-! ### Fields of a word (R255) -/

def fOp (w : W32) : BitVec 8 := w.extractLsb' 24 8
/-- W, L or P. -/
def fW (w : W32) : Bool := w.getLsbD 23
def fDbits (w : W32) : BitVec 7 := w.extractLsb' 16 7
def fAbits (w : W32) : BitVec 7 := w.extractLsb' 9 7
def fBbits (w : W32) : BitVec 7 := w.extractLsb' 2 7
def fF (w : W32) : BitVec 2 := w.extractLsb' 0 2
def fD (w : W32) : Operand := Operand.ofCode (fDbits w)
def fA (w : W32) : Operand := Operand.ofCode (fAbits w)
def fB (w : W32) : Operand := Operand.ofCode (fBbits w)
def fOff (w : W32) : BitVec 16 := w.extractLsb' 0 16
def fN (w : W32) : BitVec 15 := w.extractLsb' 0 15
def fSbits (w : W32) : BitVec 3 := w.extractLsb' 6 3
def fWbits (w : W32) : BitVec 3 := w.extractLsb' 3 3
def fLow (w : W32) : BitVec 3 := w.extractLsb' 0 3
def fScope (w : W32) : Scope := Scope.of (fSbits w)
def fI (w : W32) : Option IForm := some (IForm.of (fF w))
def fT (w : W32) : Option FForm := some (FForm.of (fF w))
/-- The forms of the W 0–1 and T 0–1 rows. -/
def fI1 (w : W32) : Option IForm := if fF w < 2 then some (IForm.of (fF w)) else none
def fT1 (w : W32) : Option FForm := if fF w < 2 then some (FForm.of (fF w)) else none
def fSum (w : W32) : Option SumForm := some (SumForm.of (fF w))
def fMin (w : W32) : Option MinForm := MinForm.ofCode (fF w)
def fVote (w : W32) : Option VoteForm := VoteForm.ofCode (fF w)
def fComp (w : W32) : Option Comp := Comp.ofCode (fF w)
def fWidth (w : W32) : Option Width := Width.ofCode (fWbits w)
/-- The widths of LD .s8 and .s16, of the atomics, and of ACAS (R268). -/
def fNarrow (w : W32) : Option Width := (fWidth w).filter fun l => l == .b1 || l == .b2
def fWord (w : W32) : Option Width := (fWidth w).filter fun l => l == .b4 || l == .b8
def fCas (w : W32) : Option Width := (fWidth w).filter fun l => l == .b4 || l == .b8 || l == .b16
/-- RED admits none and release (R329). -/
def redOrder (o : BitVec 3) : Option Bool := if o = 0 then some false else if o = 2 then some true else none

/-! ### Decode -/

/-- The first decode check that fails (R264, checks 1 to 5). -/
inductive DecErr where
  | unassigned | reserved | undefined | badCode | misaligned
  deriving DecidableEq, Repr

abbrev Dec := Except DecErr Instr

/-- An enumerated value that must be defined for the row (check 3). -/
def need {α : Type} (o : Option α) (k : α → Dec) : Dec :=
  match o with
  | some x => k x
  | none => .error .undefined
def w0 (w : W32) (k : Dec) : Dec := if fW w then .error .undefined else k
def w1 (w : W32) (k : Dec) : Dec := if fW w then k else .error .undefined
def f0 (w : W32) (i : Instr) : Dec := if fF w = 0 then .ok i else .error .undefined
def f0E (w : W32) (k : Dec) : Dec := if fF w = 0 then k else .error .undefined
/-- S rows: bit 15 reserved; without D, with D read, with D a result. -/
def sAny (w : W32) (k : Dec) : Dec := if w.getLsbD 15 then .error .reserved else k
def sRead (w : W32) (k : Dec) : Dec := sAny w (w0 w k)
def sNone (w : W32) (k : Dec) : Dec := if w.getLsbD 15 ∨ fDbits w ≠ 0 then .error .reserved else w0 w k
def sN (w : W32) (n : BitVec 15) (i : Instr) : Dec := if fN w = n then .ok i else .error .undefined
/-- R rows with three operands, with B zero, and I rows (`riu`: no negative immediate, R265). -/
def rrr {α : Type} (w : W32) (c : Bool → Operand → Operand → Operand → α → Instr) (f : Option α) : Dec :=
  need f fun f => .ok (c (fW w) (fD w) (fA w) (fB w) f)
def rr {α : Type} (w : W32) (c : Bool → Operand → Operand → α → Instr) (f : Option α) : Dec :=
  if fBbits w ≠ 0 then .error .reserved else need f fun f => .ok (c (fW w) (fD w) (fA w) f)
def ri {α : Type} (w : W32) (c : Bool → Operand → Operand → BitVec 7 → α → Instr) (f : Option α) : Dec :=
  need f fun f => .ok (c (fW w) (fD w) (fA w) (fBbits w) f)
def riu {α : Type} (w : W32) (c : Bool → Operand → Operand → BitVec 7 → α → Instr) (f : Option α) : Dec :=
  if (fBbits w).msb then .error .undefined else ri w c f
/-- Type pairs (R267): bit 0 reserved. -/
def cvt (w : W32) (k : BitVec 4 → BitVec 4 → Dec) : Dec :=
  if w.getLsbD 0 then .error .reserved else k (w.extractLsb' 5 4) (w.extractLsb' 1 4)
/-- E rows: the registers (check 4), and P reserved in copy and fabric rows (R269). -/
def vec (b : BitVec 7) (k : VReg → Dec) : Dec :=
  match VReg.ofCode b with
  | some v => k v
  | none => .error .badCode
def vec3 (w : W32) (i : VReg → VReg → VReg → Instr) : Dec :=
  vec (fDbits w) fun c => vec (fAbits w) fun a => vec (fBbits w) fun b => .ok (i c a b)
def vec2 (w : W32) (i : VReg → VReg → Instr) : Dec := vec (fDbits w) fun c => vec (fAbits w) fun a => .ok (i c a)
def vecC (w : W32) (i : VReg → Instr) : Dec := vec (fDbits w) fun c => .ok (i c)
def copyRow (w : W32) (i : VReg → VReg → VReg → Comp → Instr) : Dec :=
  if fW w then .error .reserved else need (fComp w) fun f => vec3 w fun c a b => i c a b f
/-- Bank counts 1 to 128 (R353). -/
def banks (w : W32) (i : BitVec 8 → Instr) : Dec :=
  if 1 ≤ fN w ∧ fN w ≤ 128 then .ok (i ((fN w).setWidth 8)) else .error .undefined

/-- Major codes 0x00 to 0x1F. -/
def parseControl (w : W32) : Dec :=
  match (fOp w).toNat with
  | 0x01 => sNone w (sN w 0 .nop)
  | 0x02 => if fDbits w ≠ 0 then .error .reserved else .ok (if fW w then .call (fOff w) else .br (fOff w))
  | 0x03 => .ok (if fW w then .bzl (fD w) (fOff w) else .bz (fD w) (fOff w))
  | 0x04 => .ok (if fW w then .bnzl (fD w) (fOff w) else .bnz (fD w) (fOff w))
  | 0x05 => if fBbits w ≠ 0 ∨ (!fW w ∧ fDbits w ≠ 0) then .error .reserved
    else f0 w (if fW w then .jmpl (fD w) (fA w) else .jmp (fA w))
  | 0x06 => if fBbits w ≠ 0 ∨ fDbits w ≠ 0 then .error .reserved
    else if fW w then .error .undefined else f0 w (.ret (fA w))
  | 0x07 => if fW w ∨ fDbits w ≠ 0 then .error .reserved else if fOff w = 0 then .error .undefined else .ok (.pause (fOff w))
  | 0x08 => sNone w (sN w 0 .exit)
  | 0x09 => sNone w (.ok (.trap (fN w)))
  | 0x0A => sNone w (sN w 0 .tret)
  | 0x0B => sAny w (need (Csr.ofCode (fN w)) fun n => .ok (.csrr (fW w) (fD w) n))
  | 0x0C => sRead w (need (Csr.ofCode (fN w)) fun n => .ok (.csrw (fD w) n))
  | 0x0D => sRead w (if fN w = 0 then .ok (.cntopen (fD w) false) else sN w 1 (.cntopen (fD w) true))
  | 0x0E => sNone w (sN w 0 .cntclose)
  | 0x0F => sNone w (if fN w < 16 then .ok (.progpt ((fN w).setWidth 4)) else .error .undefined)
  | 0x10 => if fN w = 1 then sNone w (.ok .tlbinvAll) else sRead w (sN w 0 (.tlbinv (fD w)))
  | 0x11 => sRead w (if fN w = 0 then .ok (.biasflipHost (fD w)) else sN w 1 (.biasflipDev (fD w)))
  | 0x12 => sAny w (sN w 0 (.clkq (fW w) (fD w)))
  | _ => .error .unassigned

/-- 0x20 to 0x4F. -/
def parseInteger (w : W32) : Dec :=
  match (fOp w).toNat with
  | 0x20 => rrr w .iadd (fI w)
  | 0x21 => ri w .iaddI (fI w)
  | 0x22 => rrr w .isub (fI w)
  | 0x23 => rrr w .imul (fI w)
  | 0x24 => ri w .imulI (fI w)
  | 0x25 => rrr w .imulhS (fI w)
  | 0x26 => rrr w .imulhW (fI w)
  | 0x27 => rrr w .imad (fI w)
  | 0x28 => rrr w .and (fI1 w)
  | 0x29 => ri w .andI (fI1 w)
  | 0x2A => rrr w .or (fI1 w)
  | 0x2B => ri w .orI (fI1 w)
  | 0x2C => rrr w .xor (fI1 w)
  | 0x2D => ri w .xorI (fI1 w)
  | 0x2E => rrr w .andn (fI1 w)
  | 0x2F => rrr w .shl (fI w)
  | 0x30 => riu w .shlI (fI w)
  | 0x31 => rrr w .shr (fI w)
  | 0x32 => riu w .shrI (fI w)
  | 0x33 => rrr w .sar (fI w)
  | 0x34 => riu w .sarI (fI w)
  | 0x35 => rrr w .rotl (fI1 w)
  | 0x36 => riu w .rotlI (fI1 w)
  | 0x37 => rr w .popc (fI1 w)
  | 0x38 => rr w .clz (fI1 w)
  | 0x39 => rr w .brev (fI1 w)
  | 0x3A => rrr w .bfeW (fI1 w)
  | 0x3B => rrr w .bfeS (fI1 w)
  | 0x3C => rrr w .bfi (fI1 w)
  | 0x3D => f0 w (.perm (fW w) (fD w) (fA w) (fB w))
  | 0x3E => rrr w .icmpeq (fI w)
  | 0x3F => rrr w .icmpne (fI w)
  | 0x40 => rrr w .icmpltS (fI w)
  | 0x41 => rrr w .icmpltW (fI w)
  | 0x42 => rrr w .icmpleS (fI w)
  | 0x43 => rrr w .icmpleW (fI w)
  | 0x44 => rrr w .sel (fI1 w)
  | 0x45 => rrr w .iminS (fI w)
  | 0x46 => rrr w .iminW (fI w)
  | 0x47 => rrr w .imaxS (fI w)
  | 0x48 => rrr w .imaxW (fI w)
  | 0x49 => f0 w (.gaddr (fW w) (fD w) (fA w) (fB w))
  | _ => .error .unassigned

/-- 0x50 to 0x7F. -/
def parseFloat (w : W32) : Dec :=
  match (fOp w).toNat with
  | 0x50 => rrr w .fadd (fT w)
  | 0x51 => rrr w .fsub (fT w)
  | 0x52 => rrr w .fmul (fT w)
  | 0x53 => rrr w .ffma (fT w)
  | 0x54 => rrr w .ffms (fT w)
  | 0x55 => rrr w .fnma (fT w)
  | 0x56 => rrr w .fmin (fT w)
  | 0x57 => rrr w .fmax (fT w)
  | 0x58 => rrr w .fcmpeq (fT w)
  | 0x59 => rrr w .fcmpne (fT w)
  | 0x5A => rrr w .fcmplt (fT w)
  | 0x5B => rrr w .fcmple (fT w)
  | 0x5C => rrr w .fcmpun (fT w)
  | 0x5D => rr w .fneg (fT w)
  | 0x5E => rr w .fabs (fT w)
  | 0x5F => rr w .frcp (fT w)
  | 0x60 => rr w .frsq (fT w)
  | 0x61 => rr w .fsqrt (fT w)
  | 0x62 => rr w .fexp2 (fT w)
  | 0x63 => rr w .flog2 (fT w)
  | 0x64 => rr w .fsinpi (fT w)
  | 0x65 => rr w .fcospi (fT w)
  | 0x66 => rr w .frint (fT w)
  | 0x67 => rrr w .fldexp (fT1 w)
  | 0x68 => rr w .fclass (fT1 w)
  | 0x69 => cvt w fun t u => need (FFmt.ofCode t) fun t => need (FFmt.ofCode u) fun u =>
    if cvtPair t u then .ok (.cvtFf (fW w) (fD w) (fA w) t u) else .error .undefined
  | 0x6A => cvt w fun t u => need (IFmt.ofCode t) fun t => need (FFmt.ofCode u) fun u =>
    if cvtNum u then .ok (.cvtFi (fW w) (fD w) (fA w) t u) else .error .undefined
  | 0x6B => cvt w fun t u => need (FFmt.ofCode t) fun t => need (IFmt.ofCode u) fun u =>
    if cvtNum t then .ok (.cvtIf (fW w) (fD w) (fA w) t u) else .error .undefined
  | 0x6C => rrr w .cvtSr (SrFmt.of (fF w))
  | 0x6D => rrr w .dot2 (Dot2Fmt.of (fF w))
  | 0x6E => rrr w .dot4 (Dot4Fmt.of (fF w))
  | 0x6F => rrr w .dot8 (Dot8Fmt.of (fF w))
  | 0x70 => rrr w .dot4x (Dot4Fmt.of (fF w))
  | 0x71 => rrr w .dot8x (Dot8Fmt.of (fF w))
  | 0x72 => rrr w .idot4 (if fF w = 0 then some true else if fF w = 1 then some false else none)
  | _ => .error .unassigned

/-- 0x80 to 0x8F. -/
def parseLaneX (w : W32) : Dec :=
  match (fOp w).toNat with
  | 0x80 => f0 w (.shfl (fW w) (fD w) (fA w) (fB w))
  | 0x81 => if (fBbits w).msb then .error .undefined else f0 w (.shflup (fW w) (fD w) (fA w) (fBbits w))
  | 0x82 => if (fBbits w).msb then .error .undefined else f0 w (.shfldn (fW w) (fD w) (fA w) (fBbits w))
  | 0x83 => if (fBbits w).msb then .error .undefined else f0 w (.shflx (fW w) (fD w) (fA w) (fBbits w))
  | 0x84 => if (fBbits w).msb then .error .undefined else f0 w (.bcast (fW w) (fD w) (fA w) (fBbits w))
  | 0x85 => rr w .wadd (fSum w)
  | 0x86 => rr w .wmin (fMin w)
  | 0x87 => rr w .wmax (fMin w)
  | 0x88 => rr w .wscan (fSum w)
  | 0x89 => if fBbits w ≠ 0 then .error .reserved else f0 w (.matchEq (fW w) (fD w) (fA w))
  | 0x8A => rr w .vote (fVote w)
  | _ => .error .unassigned

/-- 0x90 to 0xAF. -/
def parseMemory (w : W32) : Dec :=
  match (fOp w).toNat with
  | 0x90 => need (fWidth w) fun l => .ok (.ld (fW w) (fD w) (fA w) (fScope w) l (fLow w))
  | 0x91 => need (fNarrow w) fun l => .ok (.ldSigned (fW w) (fD w) (fA w) (fScope w) l (fLow w))
  | 0x92 => need (fWidth w) fun l => .ok (.ldAcq (fW w) (fD w) (fA w) (fScope w) l (fLow w))
  | 0x93 => w0 w (need (fWidth w) fun l => .ok (.st (fD w) (fA w) (fScope w) l (fLow w)))
  | 0x94 => w0 w (need (fWidth w) fun l => .ok (.stRel (fD w) (fA w) (fScope w) l (fLow w)))
  | 0x95 => if fDbits w ≠ 0 then .error .reserved
    else w0 w (need (fWidth w) fun l => .ok (.pref (fA w) (fScope w) l (fLow w)))
  | 0x96 => if fDbits w ≠ 0 ∨ fAbits w ≠ 0 ∨ fLow w ≠ 0 then .error .reserved
    else w0 w (if fWbits w = 0 then .ok (.fence (fScope w)) else .error .undefined)
  | 0x98 => w1 w (need (fWord w) fun l => need (Order.ofCode (fLow w)) fun r => .ok (.aadd (fD w) (fA w) (fScope w) l r))
  | 0x99 => w1 w (need (fWord w) fun l => need (Order.ofCode (fLow w)) fun r => .ok (.aaddF (fD w) (fA w) (fScope w) l r))
  | 0x9A => w1 w (need (fWord w) fun l => need (Order.ofCode (fLow w)) fun r => .ok (.aminS (fD w) (fA w) (fScope w) l r))
  | 0x9B => w1 w (need (fWord w) fun l => need (Order.ofCode (fLow w)) fun r => .ok (.aminW (fD w) (fA w) (fScope w) l r))
  | 0x9C => w1 w (need (fWord w) fun l => need (Order.ofCode (fLow w)) fun r => .ok (.amaxS (fD w) (fA w) (fScope w) l r))
  | 0x9D => w1 w (need (fWord w) fun l => need (Order.ofCode (fLow w)) fun r => .ok (.amaxW (fD w) (fA w) (fScope w) l r))
  | 0x9E => w1 w (need (fWord w) fun l => need (Order.ofCode (fLow w)) fun r => .ok (.aand (fD w) (fA w) (fScope w) l r))
  | 0x9F => w1 w (need (fWord w) fun l => need (Order.ofCode (fLow w)) fun r => .ok (.aor (fD w) (fA w) (fScope w) l r))
  | 0xA0 => w1 w (need (fWord w) fun l => need (Order.ofCode (fLow w)) fun r => .ok (.axor (fD w) (fA w) (fScope w) l r))
  | 0xA1 => w1 w (need (fWord w) fun l => need (Order.ofCode (fLow w)) fun r => .ok (.axchg (fD w) (fA w) (fScope w) l r))
  | 0xA2 => w1 w (need (fCas w) fun l => need (Order.ofCode (fLow w)) fun r => .ok (.acas (fD w) (fA w) (fScope w) l r))
  | 0xA4 => w0 w (need (fWord w) fun l => need (redOrder (fLow w)) fun r => .ok (.redAdd (fD w) (fA w) (fScope w) l r))
  | 0xA5 => w0 w (need (fWord w) fun l => need (redOrder (fLow w)) fun r => .ok (.redAddF (fD w) (fA w) (fScope w) l r))
  | 0xA6 => w0 w (need (fWord w) fun l => need (redOrder (fLow w)) fun r => .ok (.redMinS (fD w) (fA w) (fScope w) l r))
  | 0xA7 => w0 w (need (fWord w) fun l => need (redOrder (fLow w)) fun r => .ok (.redMinW (fD w) (fA w) (fScope w) l r))
  | 0xA8 => w0 w (need (fWord w) fun l => need (redOrder (fLow w)) fun r => .ok (.redMaxS (fD w) (fA w) (fScope w) l r))
  | 0xA9 => w0 w (need (fWord w) fun l => need (redOrder (fLow w)) fun r => .ok (.redMaxW (fD w) (fA w) (fScope w) l r))
  | 0xAA => w0 w (need (fWord w) fun l => need (redOrder (fLow w)) fun r => .ok (.redAnd (fD w) (fA w) (fScope w) l r))
  | 0xAB => w0 w (need (fWord w) fun l => need (redOrder (fLow w)) fun r => .ok (.redOr (fD w) (fA w) (fScope w) l r))
  | 0xAC => w0 w (need (fWord w) fun l => need (redOrder (fLow w)) fun r => .ok (.redXor (fD w) (fA w) (fScope w) l r))
  | _ => .error .unassigned

/-- 0xB0 to 0xBF. -/
def parseSync (w : W32) : Dec :=
  match (fOp w).toNat with
  | 0xB0 => sNone w (sN w 0 .chunk)
  | 0xB1 => sAny w (sN w 0 (.logmark (fW w) (fD w)))
  | 0xB2 => if fDbits w ≠ 0 then .error .reserved else w0 w (f0 w (.binit (fA w) (fB w)))
  | 0xB3 => if fDbits w ≠ 0 ∨ fBbits w ≠ 0 then .error .reserved else w0 w (f0 w (.barr (fA w)))
  | 0xB4 => if fDbits w ≠ 0 then .error .reserved else w0 w (f0 w (.bexp (fA w) (fB w)))
  | 0xB5 => f0 w (.bwait (fW w) (fD w) (fA w) (fB w))
  | 0xB6 => f0 w (.btest (fW w) (fD w) (fA w) (fB w))
  | 0xB7 => sAny w (if fN w < 256 then .ok (.gsync (fW w) (fD w) ((fN w).setWidth 8)) else .error .undefined)
  | 0xB8 => f0 w (.qpush (fW w) (fD w) (fA w) (fB w))
  | 0xB9 => f0 w (.qpop (fW w) (fD w) (fA w) (fB w))
  | _ => .error .unassigned

/-- 0xC0 to 0xDF. -/
def parseEngine (w : W32) : Dec :=
  match (fOp w).toNat with
  | 0xC0 => copyRow w .acopy
  | 0xC1 => copyRow w .agath
  | 0xC2 => copyRow w .ascat
  | 0xC3 => copyRow w .afill
  | 0xC4 => copyRow w .acopy2d
  | 0xC5 => copyRow w .acopySys
  | 0xC6 => copyRow w .acopyNear
  | 0xC7 => copyRow w .acopyPod
  | 0xD0 => sNone w (if fN w = 0 then .ok .macq else sN w 1 .macqPair)
  | 0xD1 => sNone w (sN w 0 .mrel)
  | 0xD2 => sAny w (banks w (.aballoc (fW w) (fD w)))
  | 0xD3 => sRead w (banks w (.abfree (fD w)))
  | 0xD4 => f0E w (vec3 w (.mgath (fW w)))
  | 0xD5 => if fF w < 2 then vec3 w (fun c a b => .mmaF16 (fW w) c a b (fF w)) else .error .undefined
  | 0xD6 => vec3 w (fun c a b => .mmaFp8 (fW w) c a b (fF w))
  | 0xD7 => vec3 w (fun c a b => .mmaInt8 (fW w) c a b (fF w))
  | 0xD8 => vec3 w (fun c a b => .mmaFp8Fp4 (fW w) c a b (fF w))
  | 0xD9 => if fF w < 2 then vec3 w (fun c a b => .mmaFp4 (fW w) c a b (fF w)) else .error .undefined
  | 0xDA => vec3 w (fun c a b => .mmaFp6 (fW w) c a b (fF w))
  | 0xDB => if fAbits w ≠ 0 ∨ fBbits w ≠ 0 then .error .reserved
    else if fF w < 2 then vecC w (fun c => .mscale (fW w) c (fF w == 1)) else .error .undefined
  | 0xDC => if fAbits w ≠ 0 ∨ fBbits w ≠ 0 then .error .reserved else f0E w (vecC w (.mzero (fW w)))
  | 0xDD => need (DrainForm.ofCode (fF w)) fun f => vec3 w (fun c a b => .mdrain (fW w) c a b f)
  | 0xDE => if fBbits w ≠ 0 then .error .reserved
    else f0E w (vec2 w (.msnap (fW w)))
  | _ => .error .unassigned

/-- 0xE0 to 0xEF. -/
def parseFabric (w : W32) : Dec :=
  match (fOp w).toNat with
  | 0xE0 => copyRow w .putr
  | 0xE1 => copyRow w .getr
  | 0xE2 => copyRow w .atomr
  | 0xE3 => if fDbits w ≠ 0 then .error .reserved else w0 w (f0 w (.ctrset (fA w) (fB w)))
  | 0xE4 => if fDbits w ≠ 0 then .error .reserved else w0 w (f0 w (.ctrwait (fA w) (fB w)))
  | 0xE5 => sAny w (if fN w < 4 then .ok (.rankq (fW w) (fD w) ((fN w).setWidth 2)) else .error .undefined)
  | 0xE6 => if fW w then .error .reserved else if fF w = 0 then vec3 w .launch
    else if fF w = 1 then vec3 w .launchRank else .error .undefined
  | 0xE7 => sAny w (sN w 0 (.stagex (fW w) (fD w)))
  | _ => .error .unassigned

/-- HINT by its KIND (R261). -/
def parseHint (w : W32) : Dec :=
  match (w.extractLsb' 20 4).toNat with
  | 0 => if w.extractLsb' 4 16 ≠ 0 then .error .reserved
    else if w.getLsbD 3 then .error .undefined else .ok (.hintMod (Round.of (w.extractLsb' 1 2)) (w.getLsbD 0))
  | 1 => if w.extractLsb' 13 7 ≠ 0 then .error .reserved
    else if limitOk (w.extractLsb' 0 13) then .ok (.hintChunksz (w.extractLsb' 0 13)) else .error .undefined
  | 2 => if w.extractLsb' 16 4 ≠ 0 then .error .reserved else .ok (.hintIpref (fOff w))
  | 3 => if w.extractLsb' 4 16 ≠ 0 then .error .reserved
    else if w.extractLsb' 0 4 = 0 then .error .undefined else .ok (.hintStick (w.extractLsb' 0 4))
  | _ => .error .undefined

/-- Checks 1 to 3: the major code, the reserved bits, the enumerated values. -/
def parse (w : W32) : Dec :=
  let op := (fOp w).toNat
  if op < 0x20 then parseControl w
  else if op < 0x50 then parseInteger w
  else if op < 0x80 then parseFloat w
  else if op < 0x90 then parseLaneX w
  else if op < 0xB0 then parseMemory w
  else if op < 0xC0 then parseSync w
  else if op < 0xE0 then parseEngine w
  else if op < 0xF0 then parseFabric w
  else if op = 0xFE then .ok (.imm (w.extractLsb' 0 24))
  else if op = 0xFF then parseHint w
  else .error .unassigned

/-- Checks 1 to 5 of R264 in their order. -/
def decode (w : W32) : Dec :=
  match parse w with
  | .error e => .error e
  | .ok i =>
    if !i.units.all Use.named then .error .badCode
    else if !i.units.all Use.aligned then .error .misaligned
    else .ok i

/-! ### Encode -/

def encR (op : BitVec 8) (w : Bool) (d a b : BitVec 7) (f : BitVec 2) : W32 := op ++ BitVec.ofBool w ++ d ++ a ++ b ++ f
def encB (op : BitVec 8) (l : Bool) (a : BitVec 7) (off : BitVec 16) : W32 := op ++ BitVec.ofBool l ++ a ++ off
def encS (op : BitVec 8) (w : Bool) (d : BitVec 7) (n : BitVec 15) : W32 := op ++ BitVec.ofBool w ++ d ++ 0#1 ++ n
def encM (op : BitVec 8) (w : Bool) (d a : BitVec 7) (s l o : BitVec 3) : W32 :=
  op ++ BitVec.ofBool w ++ d ++ a ++ s ++ l ++ o
def encE (op : BitVec 8) (p : Bool) (c a b : BitVec 7) (f : BitVec 2) : W32 := op ++ BitVec.ofBool p ++ c ++ a ++ b ++ f
def encC (op : BitVec 8) (w : Bool) (d a : BitVec 7) (t u : BitVec 4) : W32 :=
  op ++ BitVec.ofBool w ++ d ++ a ++ t ++ u ++ 0#1

/-- The word of an instruction (R255); an event of the device's agents has none. -/
def encode : Instr → Option W32
  | .nop => some (encS 0x01 false 0 0)
  | .br off => some (encB 0x02 false 0 off)
  | .call off => some (encB 0x02 true 0 off)
  | .bz a off => some (encB 0x03 false a.code off)
  | .bzl a off => some (encB 0x03 true a.code off)
  | .bnz a off => some (encB 0x04 false a.code off)
  | .bnzl a off => some (encB 0x04 true a.code off)
  | .jmp a => some (encR 0x05 false 0 a.code 0 0)
  | .jmpl d a => some (encR 0x05 true d.code a.code 0 0)
  | .ret a => some (encR 0x06 false 0 a.code 0 0)
  | .pause n => some (encB 0x07 false 0 n)
  | .exit => some (encS 0x08 false 0 0)
  | .trap n => some (encS 0x09 false 0 n)
  | .tret => some (encS 0x0A false 0 0)
  | .csrr w d n => some (encS 0x0B w d.code n.code)
  | .csrw a n => some (encS 0x0C false a.code n.code)
  | .cntopen a r => some (encS 0x0D false a.code (if r then 1 else 0))
  | .cntclose => some (encS 0x0E false 0 0)
  | .progpt n => some (encS 0x0F false 0 (n.setWidth 15))
  | .tlbinv a => some (encS 0x10 false a.code 0)
  | .tlbinvAll => some (encS 0x10 false 0 1)
  | .biasflipHost a => some (encS 0x11 false a.code 0)
  | .biasflipDev a => some (encS 0x11 false a.code 1)
  | .clkq w d => some (encS 0x12 w d.code 0)
  | .iadd w d a b f => some (encR 0x20 w d.code a.code b.code f.code)
  | .iaddI w d a i f => some (encR 0x21 w d.code a.code i f.code)
  | .isub w d a b f => some (encR 0x22 w d.code a.code b.code f.code)
  | .imul w d a b f => some (encR 0x23 w d.code a.code b.code f.code)
  | .imulI w d a i f => some (encR 0x24 w d.code a.code i f.code)
  | .imulhS w d a b f => some (encR 0x25 w d.code a.code b.code f.code)
  | .imulhW w d a b f => some (encR 0x26 w d.code a.code b.code f.code)
  | .imad w d a b f => some (encR 0x27 w d.code a.code b.code f.code)
  | .and w d a b f => some (encR 0x28 w d.code a.code b.code f.code)
  | .andI w d a i f => some (encR 0x29 w d.code a.code i f.code)
  | .or w d a b f => some (encR 0x2A w d.code a.code b.code f.code)
  | .orI w d a i f => some (encR 0x2B w d.code a.code i f.code)
  | .xor w d a b f => some (encR 0x2C w d.code a.code b.code f.code)
  | .xorI w d a i f => some (encR 0x2D w d.code a.code i f.code)
  | .andn w d a b f => some (encR 0x2E w d.code a.code b.code f.code)
  | .shl w d a b f => some (encR 0x2F w d.code a.code b.code f.code)
  | .shlI w d a i f => some (encR 0x30 w d.code a.code i f.code)
  | .shr w d a b f => some (encR 0x31 w d.code a.code b.code f.code)
  | .shrI w d a i f => some (encR 0x32 w d.code a.code i f.code)
  | .sar w d a b f => some (encR 0x33 w d.code a.code b.code f.code)
  | .sarI w d a i f => some (encR 0x34 w d.code a.code i f.code)
  | .rotl w d a b f => some (encR 0x35 w d.code a.code b.code f.code)
  | .rotlI w d a i f => some (encR 0x36 w d.code a.code i f.code)
  | .popc w d a f => some (encR 0x37 w d.code a.code 0 f.code)
  | .clz w d a f => some (encR 0x38 w d.code a.code 0 f.code)
  | .brev w d a f => some (encR 0x39 w d.code a.code 0 f.code)
  | .bfeW w d a b f => some (encR 0x3A w d.code a.code b.code f.code)
  | .bfeS w d a b f => some (encR 0x3B w d.code a.code b.code f.code)
  | .bfi w d a b f => some (encR 0x3C w d.code a.code b.code f.code)
  | .perm w d a b => some (encR 0x3D w d.code a.code b.code 0)
  | .icmpeq w d a b f => some (encR 0x3E w d.code a.code b.code f.code)
  | .icmpne w d a b f => some (encR 0x3F w d.code a.code b.code f.code)
  | .icmpltS w d a b f => some (encR 0x40 w d.code a.code b.code f.code)
  | .icmpltW w d a b f => some (encR 0x41 w d.code a.code b.code f.code)
  | .icmpleS w d a b f => some (encR 0x42 w d.code a.code b.code f.code)
  | .icmpleW w d a b f => some (encR 0x43 w d.code a.code b.code f.code)
  | .sel w d a b f => some (encR 0x44 w d.code a.code b.code f.code)
  | .iminS w d a b f => some (encR 0x45 w d.code a.code b.code f.code)
  | .iminW w d a b f => some (encR 0x46 w d.code a.code b.code f.code)
  | .imaxS w d a b f => some (encR 0x47 w d.code a.code b.code f.code)
  | .imaxW w d a b f => some (encR 0x48 w d.code a.code b.code f.code)
  | .gaddr w d a b => some (encR 0x49 w d.code a.code b.code 0)
  | .fadd w d a b f => some (encR 0x50 w d.code a.code b.code f.code)
  | .fsub w d a b f => some (encR 0x51 w d.code a.code b.code f.code)
  | .fmul w d a b f => some (encR 0x52 w d.code a.code b.code f.code)
  | .ffma w d a b f => some (encR 0x53 w d.code a.code b.code f.code)
  | .ffms w d a b f => some (encR 0x54 w d.code a.code b.code f.code)
  | .fnma w d a b f => some (encR 0x55 w d.code a.code b.code f.code)
  | .fmin w d a b f => some (encR 0x56 w d.code a.code b.code f.code)
  | .fmax w d a b f => some (encR 0x57 w d.code a.code b.code f.code)
  | .fcmpeq w d a b f => some (encR 0x58 w d.code a.code b.code f.code)
  | .fcmpne w d a b f => some (encR 0x59 w d.code a.code b.code f.code)
  | .fcmplt w d a b f => some (encR 0x5A w d.code a.code b.code f.code)
  | .fcmple w d a b f => some (encR 0x5B w d.code a.code b.code f.code)
  | .fcmpun w d a b f => some (encR 0x5C w d.code a.code b.code f.code)
  | .fneg w d a f => some (encR 0x5D w d.code a.code 0 f.code)
  | .fabs w d a f => some (encR 0x5E w d.code a.code 0 f.code)
  | .frcp w d a f => some (encR 0x5F w d.code a.code 0 f.code)
  | .frsq w d a f => some (encR 0x60 w d.code a.code 0 f.code)
  | .fsqrt w d a f => some (encR 0x61 w d.code a.code 0 f.code)
  | .fexp2 w d a f => some (encR 0x62 w d.code a.code 0 f.code)
  | .flog2 w d a f => some (encR 0x63 w d.code a.code 0 f.code)
  | .fsinpi w d a f => some (encR 0x64 w d.code a.code 0 f.code)
  | .fcospi w d a f => some (encR 0x65 w d.code a.code 0 f.code)
  | .frint w d a f => some (encR 0x66 w d.code a.code 0 f.code)
  | .fldexp w d a b f => some (encR 0x67 w d.code a.code b.code f.code)
  | .fclass w d a f => some (encR 0x68 w d.code a.code 0 f.code)
  | .cvtFf w d a t u => some (encC 0x69 w d.code a.code t.code u.code)
  | .cvtFi w d a t u => some (encC 0x6A w d.code a.code t.code u.code)
  | .cvtIf w d a t u => some (encC 0x6B w d.code a.code t.code u.code)
  | .cvtSr w d a b f => some (encR 0x6C w d.code a.code b.code (SrFmt.code f))
  | .dot2 w d a b f => some (encR 0x6D w d.code a.code b.code (Dot2Fmt.code f))
  | .dot4 w d a b f => some (encR 0x6E w d.code a.code b.code (Dot4Fmt.code f))
  | .dot8 w d a b f => some (encR 0x6F w d.code a.code b.code (Dot8Fmt.code f))
  | .dot4x w d a b f => some (encR 0x70 w d.code a.code b.code (Dot4Fmt.code f))
  | .dot8x w d a b f => some (encR 0x71 w d.code a.code b.code (Dot8Fmt.code f))
  | .idot4 w d a b sg => some (encR 0x72 w d.code a.code b.code (if sg then 0 else 1))
  | .shfl w d a b => some (encR 0x80 w d.code a.code b.code 0)
  | .shflup w d a i => some (encR 0x81 w d.code a.code i 0)
  | .shfldn w d a i => some (encR 0x82 w d.code a.code i 0)
  | .shflx w d a i => some (encR 0x83 w d.code a.code i 0)
  | .bcast w d a i => some (encR 0x84 w d.code a.code i 0)
  | .wadd w d a f => some (encR 0x85 w d.code a.code 0 f.code)
  | .wmin w d a f => some (encR 0x86 w d.code a.code 0 f.code)
  | .wmax w d a f => some (encR 0x87 w d.code a.code 0 f.code)
  | .wscan w d a f => some (encR 0x88 w d.code a.code 0 f.code)
  | .matchEq w d a => some (encR 0x89 w d.code a.code 0 0)
  | .vote w d a f => some (encR 0x8A w d.code a.code 0 f.code)
  | .ld w d a sc l o => some (encM 0x90 w d.code a.code sc.code l.code o)
  | .ldSigned w d a sc l o => some (encM 0x91 w d.code a.code sc.code l.code o)
  | .ldAcq w d a sc l o => some (encM 0x92 w d.code a.code sc.code l.code o)
  | .st d a sc l o => some (encM 0x93 false d.code a.code sc.code l.code o)
  | .stRel d a sc l o => some (encM 0x94 false d.code a.code sc.code l.code o)
  | .pref a sc l o => some (encM 0x95 false 0 a.code sc.code l.code o)
  | .fence sc => some (encM 0x96 false 0 0 sc.code 0 0)
  | .aadd d a sc l r => some (encM 0x98 true d.code a.code sc.code l.code r.code)
  | .aaddF d a sc l r => some (encM 0x99 true d.code a.code sc.code l.code r.code)
  | .aminS d a sc l r => some (encM 0x9A true d.code a.code sc.code l.code r.code)
  | .aminW d a sc l r => some (encM 0x9B true d.code a.code sc.code l.code r.code)
  | .amaxS d a sc l r => some (encM 0x9C true d.code a.code sc.code l.code r.code)
  | .amaxW d a sc l r => some (encM 0x9D true d.code a.code sc.code l.code r.code)
  | .aand d a sc l r => some (encM 0x9E true d.code a.code sc.code l.code r.code)
  | .aor d a sc l r => some (encM 0x9F true d.code a.code sc.code l.code r.code)
  | .axor d a sc l r => some (encM 0xA0 true d.code a.code sc.code l.code r.code)
  | .axchg d a sc l r => some (encM 0xA1 true d.code a.code sc.code l.code r.code)
  | .acas d a sc l r => some (encM 0xA2 true d.code a.code sc.code l.code r.code)
  | .redAdd d a sc l rel => some (encM 0xA4 false d.code a.code sc.code l.code (if rel then 2 else 0))
  | .redAddF d a sc l rel => some (encM 0xA5 false d.code a.code sc.code l.code (if rel then 2 else 0))
  | .redMinS d a sc l rel => some (encM 0xA6 false d.code a.code sc.code l.code (if rel then 2 else 0))
  | .redMinW d a sc l rel => some (encM 0xA7 false d.code a.code sc.code l.code (if rel then 2 else 0))
  | .redMaxS d a sc l rel => some (encM 0xA8 false d.code a.code sc.code l.code (if rel then 2 else 0))
  | .redMaxW d a sc l rel => some (encM 0xA9 false d.code a.code sc.code l.code (if rel then 2 else 0))
  | .redAnd d a sc l rel => some (encM 0xAA false d.code a.code sc.code l.code (if rel then 2 else 0))
  | .redOr d a sc l rel => some (encM 0xAB false d.code a.code sc.code l.code (if rel then 2 else 0))
  | .redXor d a sc l rel => some (encM 0xAC false d.code a.code sc.code l.code (if rel then 2 else 0))
  | .chunk => some (encS 0xB0 false 0 0)
  | .logmark w d => some (encS 0xB1 w d.code 0)
  | .binit a b => some (encR 0xB2 false 0 a.code b.code 0)
  | .barr a => some (encR 0xB3 false 0 a.code 0 0)
  | .bexp a b => some (encR 0xB4 false 0 a.code b.code 0)
  | .bwait w d a b => some (encR 0xB5 w d.code a.code b.code 0)
  | .btest w d a b => some (encR 0xB6 w d.code a.code b.code 0)
  | .gsync w d n => some (encS 0xB7 w d.code (n.setWidth 15))
  | .qpush w d a b => some (encR 0xB8 w d.code a.code b.code 0)
  | .qpop w d a b => some (encR 0xB9 w d.code a.code b.code 0)
  | .acopy c a b f => some (encE 0xC0 false (vcode c) (vcode a) (vcode b) f.code)
  | .agath c a b f => some (encE 0xC1 false (vcode c) (vcode a) (vcode b) f.code)
  | .ascat c a b f => some (encE 0xC2 false (vcode c) (vcode a) (vcode b) f.code)
  | .afill c a b f => some (encE 0xC3 false (vcode c) (vcode a) (vcode b) f.code)
  | .acopy2d c a b f => some (encE 0xC4 false (vcode c) (vcode a) (vcode b) f.code)
  | .acopySys c a b f => some (encE 0xC5 false (vcode c) (vcode a) (vcode b) f.code)
  | .acopyNear c a b f => some (encE 0xC6 false (vcode c) (vcode a) (vcode b) f.code)
  | .acopyPod c a b f => some (encE 0xC7 false (vcode c) (vcode a) (vcode b) f.code)
  | .macq => some (encS 0xD0 false 0 0)
  | .macqPair => some (encS 0xD0 false 0 1)
  | .mrel => some (encS 0xD1 false 0 0)
  | .aballoc w d n => some (encS 0xD2 w d.code (n.setWidth 15))
  | .abfree d n => some (encS 0xD3 false d.code (n.setWidth 15))
  | .mgath p c a b => some (encE 0xD4 p (vcode c) (vcode a) (vcode b) 0)
  | .mmaF16 p c a b f => some (encE 0xD5 p (vcode c) (vcode a) (vcode b) f)
  | .mmaFp8 p c a b f => some (encE 0xD6 p (vcode c) (vcode a) (vcode b) f)
  | .mmaInt8 p c a b f => some (encE 0xD7 p (vcode c) (vcode a) (vcode b) f)
  | .mmaFp8Fp4 p c a b f => some (encE 0xD8 p (vcode c) (vcode a) (vcode b) f)
  | .mmaFp4 p c a b f => some (encE 0xD9 p (vcode c) (vcode a) (vcode b) f)
  | .mmaFp6 p c a b f => some (encE 0xDA p (vcode c) (vcode a) (vcode b) f)
  | .mscale p c t => some (encE 0xDB p (vcode c) 0 0 (if t then 1 else 0))
  | .mzero p c => some (encE 0xDC p (vcode c) 0 0 0)
  | .mdrain p c a b f => some (encE 0xDD p (vcode c) (vcode a) (vcode b) f.code)
  | .msnap p c a => some (encE 0xDE p (vcode c) (vcode a) 0 0)
  | .putr c a b f => some (encE 0xE0 false (vcode c) (vcode a) (vcode b) f.code)
  | .getr c a b f => some (encE 0xE1 false (vcode c) (vcode a) (vcode b) f.code)
  | .atomr c a b f => some (encE 0xE2 false (vcode c) (vcode a) (vcode b) f.code)
  | .ctrset a b => some (encR 0xE3 false 0 a.code b.code 0)
  | .ctrwait a b => some (encR 0xE4 false 0 a.code b.code 0)
  | .rankq w d n => some (encS 0xE5 w d.code (n.setWidth 15))
  | .launch c a b => some (encE 0xE6 false (vcode c) (vcode a) (vcode b) 0)
  | .launchRank c a b => some (encE 0xE6 false (vcode c) (vcode a) (vcode b) 1)
  | .stagex w d => some (encS 0xE7 w d.code 0)
  | .imm p => some (0xFE#8 ++ p)
  | .hintMod m sat => some (0xFF#8 ++ (0#20 ++ ((0#1 ++ m.code) ++ BitVec.ofBool sat)))
  | .hintChunksz lim => some (0xFF#8 ++ (1#4 ++ (0#7 ++ lim)))
  | .hintIpref o => some (0xFF#8 ++ (2#4 ++ (0#4 ++ o)))
  | .hintStick n => some (0xFF#8 ++ (3#4 ++ (0#16 ++ n)))
  | _ => none

/-- The decoder over a word whose bits are numbered as the opcode table numbers them; an instruction is one 32-bit word. -/
def decodeTableWord (nbits w : Nat) : Option Instr :=
  if nbits = 32 then
    match decode (BitVec.ofNat 32 w) with
    | .ok i => some i
    | .error _ => none
  else none

end Sys2Proof
end

