-- ==== Sys2Proof/Machine/Image.lean ====
section
/-!
DEFINITION. The images of workgroups (R409): the save slot's layout as written and read back, which snapshots (R495) and the debug
views (R434) share.
-/

namespace Sys2Proof.Machine

/-! ### Pieces of an image -/

/-- Waves of a core part of a workgroup, by number (R188), and their keys. -/
def Wg.partIdx (g : Wg) (odd : Bool) : List Nat :=
  if g.pair then List.range' (if odd then g.nwaves / 2 else 0) (g.nwaves / 2) else List.range g.nwaves
def Wg.partCore (g : Wg) (odd : Bool) : Nat := if odd then g.core + 1 else g.core
def Wg.parts (g : Wg) : List Bool := if g.pair then [false, true] else [false]

/-- The wait kind of a wave record. -/
def Wave.waitCode (w : Wave) : Nat :=
  if w.lanes.all (·.exited) && !w.handler then 0
  else match w.wait.kind with
  | .bwait => 1
  | .gsync => 2
  | .qpop => 3
  | .ctrwait => 4
  | .far => if w.wait.lanes.any (·.reply.isNone) then 5 else 6
  | _ => 7

def padTo (n : Nat) (bs : List Byte) : List Byte := (bs ++ List.replicate (n - bs.length) 0).take n

/-- The three per-lane words of a wave record. -/
def Lane.stateWord (x : Lane) : W32 :=
  BitVec.ofNat 32 ((if x.exited then 2 ^ 31 else 0) + (if x.halted then 2 ^ 30 else 0) + x.age % 2 ^ 13 * 2 ^ 16 + x.pcnt % 2 ^ 16)
def Lane.pendWord (x : Lane) : W64 :=
  BitVec.ofNat 64 (x.immCount % 4 * 2 ^ 62 + (Round.code x.rm).toNat * 2 ^ 55 + (if x.sat then 2 ^ 54 else 0) + bits x.imm 47 0)
/-- A lane with those words read back. -/
def Lane.ofWords (x : Lane) (pc : W64) (st : W32) (pd : W64) : Lane :=
  { x with pc := pc, exited := st.getLsbD 31, halted := st.getLsbD 30, age := bits st 28 16, pcnt := bits st 15 0,
           immCount := bits pd 63 62, rm := Round.of (BitVec.ofNat 2 (bits pd 57 55)), sat := pd.getLsbD 54,
           imm := (pd.setWidth 48).signExtend 64 }

def TrapEntry.bytes (e : TrapEntry) : List Byte := bytes64 (e.word ||| 1#64 <<< 63) ++ bytes64 e.fpc ++ bytes64 e.mask ++ bytes64 e.info

/-- A wave record (2 KiB); `view` adds the halt reason and information of the debug view. -/
def Wave.record (w : Wave) (view : Bool) : List Byte :=
  let misc := (List.range 4).foldl (fun a i => a + if w.gArrived.getD i false then 2 ^ i else 0)
      ((if w.haltPending then 2 ^ 16 else 0) + w.limit % 2 ^ 13 * 2 ^ 32 + w.own % 16 * 2 ^ 48)
  let val := if w.wait.kind = .gsync then w.wait.val &&& 0xFFFF else w.wait.val
  padTo 2048 (w.lanes.flatMap (fun x => bytes64 x.pc) ++ w.lanes.flatMap (fun x => bytes32 x.stateWord)
    ++ w.lanes.flatMap (fun x => bytes64 x.pendWord)
    ++ bytes64 w.fpctl ++ bytes64 (BitVec.ofNat 64 w.waitCode) ++ bytes64 w.wait.ea ++ bytes64 val
    ++ (List.range 4).flatMap (fun i => leBytes 2 (w.gDone.getD i 0)) ++ bytes64 (BitVec.ofNat 64 misc)
    ++ (if view then bytes64 w.haltReason ++ bytes64 w.haltInfo else List.replicate 16 0)
    ++ w.trapQ.flatMap TrapEntry.bytes)

/-- The engine state that a wave of the part owns, and that wave. -/
def State.partEngine (s : State) (g : Nat) (odd : Bool) : Option (Nat × MatrixRegs) :=
  let x := s.wg g
  let part := if odd then 1 else 0
  match (s.wgWaves g).findSome? fun k => ((s.wave k).engs.find? (·.1 == part)).map fun e => (k, e.2) with
  | some r => some r
  | none =>
    let c := s.core (x.partCore odd)
    match c.owner with
    | some k => if (s.wave k).wg = g ∧ x.saved = false then some (k, c.granted.getD c.eng) else none
    | none => none

/-- The workgroup header, first 64 bytes of 4 KiB. -/
def State.partHeader (s : State) (g : Nat) (odd : Bool) : List Byte :=
  let x := s.wg g
  let eng := s.partEngine g odd
  let e := (eng.map (·.2)).getD {}
  let ws : List Nat :=
    [2 ^ 63 + (if x.pair then 2 ^ 62 else 0) + (if odd then 2 ^ 61 else 0) + (x.partIdx odd).length * 2 ^ 32 + x.index % 2 ^ 32,
     bits ((s.launch x.launch).record.getD 4 0) 56 6 * 64,
     x.placedAt,
     x.accBase % 256 * 2 ^ 56 + x.accCount % 256 * 2 ^ 48 + x.scrUnits % 512 * 2 ^ 39 + x.regs % 128 * 2 ^ 32
       + (if e.valid then 2 ^ 31 else 0) + e.rbu % 64 * 2 ^ 24 + e.sby % 512 * 2 ^ 8 + (if eng.isSome then 1 else 0),
     e.ta.toNat * 2 ^ 32 + e.tb.toNat,
     (if x.cntOpen then 2 ^ 63 else 0) + (if x.cntRev then 2 ^ 62 else 0) + bits x.cntStat 31 0,
     x.cntH.toNat, x.cntStat.toNat]
  padTo 4096 (ws.flatMap fun v => bytes64 (BitVec.ofNat 64 v))

/-- Matrix state: 48 KiB, an invalid latch as zeros. -/
def MatrixRegs.bytes (e : MatrixRegs) : List Byte :=
  if e.valid then Tab.bytes e.rows 0 32768 ++ Tab.bytes e.scales 0 16384 else List.replicate 49152 0

/-- The register allocation of a wave in store order. -/
def State.regBytes (s : State) (k : Nat) : List Byte :=
  (List.range (64 * (s.wg (s.wave k).wg).alloc)).flatMap fun i => bytes32 (Tab.get 0 (s.wave k).regs i)
def State.bankBytes (s : State) (g : Nat) (odd : Bool) : List Byte :=
  let x := s.wg g
  Tab.bytes (s.core (x.partCore odd)).acc (2048 * x.accBase) (2048 * x.accCount)
def scrPart (x : Wg) (odd : Bool) : List Byte := Tab.bytes x.scr (if odd then 2 ^ 23 else 0) (2048 * x.scrUnits)

/-- Offsets within a slot. -/
def slotWaves : Nat := 0x1000
def slotMatrix : Nat := 0x9000
def slotBanks : Nat := 0x15000
def slotRegs : Nat := 0x55000
def slotScr : Nat := 0xCD000

/-- The pieces of a resident part at their places in a slot, the scratchpad aside (R409). -/
def State.partPieces (s : State) (g : Nat) (odd : Bool) : List (Nat × List Byte) :=
  let x := s.wg g
  let is_ := x.partIdx odd
  (0, s.partHeader g odd) :: (is_.zipIdx.map fun (i, n) => (slotWaves + 2048 * n, (s.wave (32 * g + i)).record false))
    ++ ((s.partEngine g odd).map fun e => (slotMatrix, e.2.bytes)).toList
    ++ (if x.accCount = 0 then [] else [(slotBanks, s.bankBytes g odd)])
    ++ is_.zipIdx.map fun (i, n) => (slotRegs + n * (256 * x.alloc), s.regBytes (32 * g + i))

/-- The save slot of a part. -/
def State.slotBase (s : State) (t slot : Nat) : Nat := (s.tenant t).cur.saveBase.toNat + 2097152 * slot
def Wg.partSlot (g : Wg) (odd : Bool) : Nat := if odd then g.slotOdd else g.slot

/-- The pieces of a saved part, as its slot holds them. -/
def State.slotPieces (s : State) (g : Nat) (odd : Bool) : List (Nat × List Byte) :=
  let base := s.slotBase (s.wg g).tenant ((s.wg g).partSlot odd)
  (s.partPieces g odd).map fun (o, bs) => (o, Tab.bytes s.mem (base + o) bs.length)

/-! ### An image read back -/

/-- A wave with the lanes, pending values, FPCTL and registers of an image; the bytes come from `rd`. -/
def Wave.fromImage (w : Wave) (alloc : Nat) (rec_ regs : Nat → Nat → List Byte) : Wave :=
  let ls := w.lanes.zipIdx.map fun (x, l) =>
    x.ofWords (le64 (rec_ (8 * l) 8)) (le32 (rec_ (512 + 4 * l) 4)) (le64 (rec_ (768 + 8 * l) 8))
  let rs : Tab W32 := (List.range (64 * alloc)).foldl (fun t i => Tab.put 0 t i (le32 (regs (4 * i) 4))) []
  { w with lanes := ls.map Lane.noLatch, regs := rs, fpctl := le64 (rec_ 1280 8) }

/-- The engine state of an image. -/
def MatrixRegs.fromImage (hdr mat : Nat → Nat → List Byte) : Option MatrixRegs :=
  let d := le64 (hdr 24 8)
  let t := le64 (hdr 32 8)
  if d.getLsbD 0 then
    some { ta := t.extractLsb' 32 32, tb := t.setWidth 32, valid := d.getLsbD 31, rbu := bits d 29 24, sby := bits d 16 8,
           rows := if d.getLsbD 31 then Tab.store [] 0 (mat 0 32768) else [],
           scales := if d.getLsbD 31 then Tab.store [] 0 (mat 32768 16384) else [] }
  else none

/-! ### A slot kept up to date -/

/-- The registers of a wave with the far data that have returned for it (R410). -/
def Wave.withFarData (w : Wave) (vs : List (Nat × BitVec 128)) (n : Nat) : Wave := { w with regs := (w.writeAll w.wait.w w.wait.d n vs).regs }

/-- What reaches a saved workgroup is written into its slot, and the workgroup is ready (R410, R412). -/
def State.toSlot (s : State) (k : Nat) (w : Wave) : State :=
  let g := (s.wave k).wg
  let x := s.wg g
  let odd := x.pair && decide (x.nwaves / 2 ≤ w.idx)
  let n := if odd then w.idx - x.nwaves / 2 else w.idx
  let base := s.slotBase x.tenant (x.partSlot odd)
  let s := (s.stBytes (base + slotWaves + 2048 * n) (w.record false)).stBytes (base + slotRegs + n * (256 * x.alloc))
    ((s.setWave k w).regBytes k)
  s.modWg g fun y => { y with ready := true }

end Sys2Proof.Machine
end

