-- ==== Sys2Proof/Machine/Packet.lean ====
section
/-!
DEFINITION. Packets to remote ranks (R124 to R128): the remote operation header, destination groups with their windows, timers and paths,
sending, acknowledgement and retransmission.
-/

namespace Sys2Proof

/-! ### The remote operation header (R128) -/

def PktHdr.op (h : PktHdr) : Nat := bits h.w0 63 56
def PktHdr.pois (h : PktHdr) : Bool := h.w0.getLsbD 55
def PktHdr.tc (h : PktHdr) : Bool := h.w0.getLsbD 54
def PktHdr.err (h : PktHdr) : Bool := h.w0.getLsbD 53
def PktHdr.region (h : PktHdr) : Nat := bits h.w0 52 48
def PktHdr.offset (h : PktHdr) : Nat := bits h.w0 39 0
def PktHdr.src (h : PktHdr) : Nat := bits h.w1 63 47
def PktHdr.len (h : PktHdr) : Nat := bits h.w1 12 0 + 1
def PktHdr.creg (h : PktHdr) : Nat := bits h.w2 63 59
def PktHdr.coff (h : PktHdr) : Nat := bits h.w2 39 0
def PktHdr.otag (h : PktHdr) : Nat := h.w3.toNat

/-- A header as its sender forms it. -/
def PktHdr.make (op region offset src len otag : Nat) (ctr : W64) : PktHdr where
  w0 := BitVec.ofNat 64 (op * 2 ^ 56 + (if ctr = 0 then 0 else 2 ^ 54) + region % 32 * 2 ^ 48 + offset % 2 ^ 40)
  w1 := BitVec.ofNat 64 (src * 2 ^ 47 + (len - 1) % 2 ^ 13)
  w2 := if ctr = 0 then 0 else BitVec.ofNat 64 (bits ctr 44 40 * 2 ^ 59 + bits ctr 39 0)
  w3 := BitVec.ofNat 64 otag
/-- The header of the answer to a packet: its operation, ERR and POIS changed. -/
def PktHdr.answer (h : PktHdr) (op : Nat) (err pois : Bool) : PktHdr :=
  { h with w0 := (h.w0 &&& 0x005FFFFFFFFFFFFF#64) ||| BitVec.ofNat 64 (op * 2 ^ 56 + (if pois then 2 ^ 55 else 0) + (if err then 2 ^ 53 else 0)) }
/-- An arriving packet of operation `op` is taken: no reserved bit set, the operation as the table lists it, 1 to 4,096 bytes. -/
def PktHdr.ok (h : PktHdr) (op : Nat) : Bool :=
  h.op == op && bits h.w0 47 40 == 0 && bits h.w1 46 13 == 0 && bits h.w2 58 40 == 0 && decide (h.len ≤ 4096)
/-- The target counter that a header names, as a global address with the rank left out; 0 for none. -/
def PktHdr.counter (h : PktHdr) : W64 := if h.tc then BitVec.ofNat 64 (3 * 2 ^ 62 + h.creg * 2 ^ 40 + h.coff) else 0

namespace Machine

/-- The operands of a remote atomic as they follow the header. DESIGN CHOICE: their layout is not in the spec (log entry 46). -/
def atomicOperands (op : AtomOp) (l : Width) (x y : BitVec 128) : List Byte :=
  [BitVec.ofNat 8 ([AtomOp.add, .addF, .minS, .minW, .maxS, .maxW, .and, .or, .xor, .xchg, .cas].idxOf op), BitVec.ofNat 8 l.bytes]
    ++ leBytes 16 x.toNat ++ leBytes 16 y.toNat

/-! ### Destination groups (R125 to R127) -/

/-- Units of the time base in a microsecond (R392). -/
def microsecond : Nat := 756000

/-- The first value after `ptr` in rotation that a test admits. -/
def rotate (ok : Nat → Bool) (ptr : Nat) : Nat := (((List.range 64).map fun i => (ptr + 1 + i) % 64).find? ok).getD ptr
/-- The next path of a group (R126), other than the one a lost attempt took where there is another. -/
def PathGroup.nextPath (g : PathGroup) (en : W64) (lost : Option Nat) : Nat :=
  let good := fun (e : Nat) => en.getLsbD e && !g.failedPaths.getLsbD e
  let ok := if (List.range 64).any good then good else fun e => en.getLsbD e
  match lost with
  | some p => if (List.range 64).any (fun e => ok e && e != p) then rotate (fun e => ok e && e != p) g.ptr else rotate ok g.ptr
  | none => rotate ok g.ptr

/-- The retransmission timeout (R127): four times the smoothed round-trip time, from 8 to 512 µs; the smoothing is free. -/
def PathGroup.rto (g : PathGroup) : Nat :=
  max (8 * microsecond) (min (512 * microsecond) (4 * g.srtt.getD (Config.smoothed none 0)))
/-- Congestion met: the window halves (R127). -/
def PathGroup.halve (g : PathGroup) : PathGroup := { g with window := max 1 (g.window / 2), ackedInWindow := 0 }
/-- A packet acknowledged at a time: progress, its path is good again, the window moves (R125 to R127). -/
def PathGroup.acked (g : PathGroup) (p : Packet) (now : Nat) (ecn : Bool) : PathGroup :=
  let g := { g with unacked := g.unacked.filter (· != p), timeouts := Tab.put 0 g.timeouts p.path 0, lastProgress := now,
                    srtt := some (Config.smoothed g.srtt (now - p.sentAt)) }
  if ecn then g.halve
  else if g.window ≤ g.ackedInWindow + 1 then { g with window := min 4096 (g.window + 1), ackedInWindow := 0 }
  else { g with ackedInWindow := g.ackedInWindow + 1 }

/-- The fabric engines stand still while a freeze lasts (R139). -/
def State.frozen (s : State) : Bool := s.tenants.any fun p => p.2.frozen

def State.group? (s : State) (t level sib : Nat) : Option (PathGroup × Nat) :=
  (s.tenant t).groups.zipIdx.find? fun (g, _) => g.level == level && g.sib == sib
/-- The group of a path set, created at its first use. -/
def State.useGroup (s : State) (t : Nat) (p : PathSet) : State :=
  match s.group? t p.level p.sib with
  | some _ => s
  | none => s.modTenant t fun x => { x with groups := x.groups ++ [{ level := p.level, sib := p.sib, lastProgress := s.time }] }
def State.modGroup (s : State) (t i : Nat) (f : PathGroup → PathGroup) : State :=
  s.modTenant t fun x => { x with groups := x.groups.modify i f }
def State.sendPkt (s : State) (t : Nat) (p : Packet) : State := s.send (.packet t p.seq p.path p.fabric p.total p.h p.data)
/-- Paths enabled for a packet. -/
def State.paths (s : State) (t : Nat) (p : Packet) : W64 := ((pathSet s t p.pset).map (·.en)).getD 0

/-- Waiting packets of a group sent, as far as its window and the limit of 4,096 let them (R127). -/
def State.pump (s : State) (t i : Nat) : Nat → State
  | 0 => s
  | n + 1 =>
    match (s.tenant t).groups[i]? with
    | none => s
    | some g =>
      match g.queue with
      | [] => s
      | p :: rest =>
        if s.frozen || g.failed || decide (min g.window 4096 ≤ g.unacked.length) then s
        else
          let path := g.nextPath (s.paths t p) none
          let p := { p with path := path, sentAt := s.time }
          ((s.modGroup t i fun g => { g with queue := rest, ptr := path, unacked := g.unacked ++ [p],
                                             lastProgress := if g.unacked.isEmpty then s.time else g.lastProgress }).sendPkt t p).pump t i n
def State.pumpGroup (s : State) (t i : Nat) : State := s.pump t i ((((s.tenant t).groups[i]?).map (·.queue.length)).getD 0)
/-- A packet to the group of its path set, with the next sequence number; none when the group was declared failed. -/
def State.sendPacket (s : State) (t : Nat) (p : Packet) : Option State :=
  match pathSet s t p.pset with
  | none => none
  | some ps =>
    let s := s.useGroup t ps
    match s.group? t ps.level ps.sib with
    | none => none
    | some (g, i) =>
      if g.failed then none
      else some ((s.modGroup t i fun g => { g with nextSeq := g.nextSeq + 1, queue := g.queue ++ [{ p with seq := g.nextSeq }] }).pumpGroup t i)

/-- A packet of a group that waits for its answer, by operation tag and sequence number. -/
def State.inFlight (s : State) (t tag seq : Nat) : Option (Nat × Packet) :=
  (s.tenant t).groups.zipIdx.findSome? fun (g, i) => (g.unacked.find? fun p => p.h.otag == tag && p.seq == seq).map fun p => (i, p)

/-- A packet sent again on the next path other than its last (R126). -/
def State.resend (s : State) (t i : Nat) (p : Packet) : State :=
  match (s.tenant t).groups[i]? with
  | none => s
  | some g =>
    if s.frozen || g.failed then s
    else
      let path := g.nextPath (s.paths t p) (some p.path)
      let q := { p with path := path, sentAt := s.time }
      (s.modGroup t i fun g => { g with ptr := path, unacked := g.unacked.map fun x => if x == p then q else x }).sendPkt t q
/-- An answer for a packet in flight: a trimmed one is sent again at once (R127); else the packet is done and others may go. -/
def State.ackPacket (s : State) (t tag seq : Nat) (echo : Echo) : State × Option Packet :=
  match s.inFlight t tag seq with
  | none => (s, none)
  | some (i, p) =>
    match echo with
    | .trim => ((s.modGroup t i PathGroup.halve).resend t i p, none)
    | e => ((s.modGroup t i fun g => g.acked p s.time (e == .ecn)).pumpGroup t i, some p)

/-- A retransmission timeout that is due (R126): three in a row fail the path. -/
def State.retransmit (s : State) (t i seq : Nat) : State :=
  match (s.tenant t).groups[i]? with
  | none => s
  | some g =>
    match g.unacked.find? (·.seq == seq) with
    | none => s
    | some p =>
      if s.frozen || g.failed || decide (s.time < p.sentAt + g.rto) then s
      else
        let n := Tab.get 0 g.timeouts p.path + 1
        (s.modGroup t i fun g => { g with timeouts := Tab.put 0 g.timeouts p.path n,
                                          failedPaths := if 3 ≤ n then g.failedPaths ||| (1#64 <<< p.path) else g.failedPaths,
                                          failedAt := if n = 3 then Tab.put 0 g.failedAt p.path s.time else g.failedAt }).resend t i p
/-- No progress for the timeout of the path set of the oldest packet (R134). -/
def State.stuck (s : State) (t : Nat) (g : PathGroup) : Bool :=
  match g.unacked with
  | [] => false
  | p :: _ => !s.frozen && !g.failed
      && decide (g.lastProgress + (((pathSet s t p.pset).map (·.tmo)).getD 2000) * microsecond ≤ s.time)

/-- The timers of the groups that are due: retransmissions, probes 1 ms after a path failed, groups without progress (R126, R134). -/
def State.groupTimers (s : State) (t : Nat) : List Instr :=
  (s.tenant t).groups.zipIdx.flatMap fun (g, i) =>
    (if s.stuck t g then [.groupProgressTimeout t i] else [])
    ++ ((g.unacked.filter fun p => decide (p.sentAt + g.rto ≤ s.time)).map fun p => .retransmissionTimeout t i p.seq)
    ++ ((List.range 64).filter fun e => g.failedPaths.getLsbD e && decide (Tab.get 0 g.failedAt e + 1000 * microsecond ≤ s.time)).map
        fun e => .pathProbe t i e

end Machine

end Sys2Proof
end

