-- ==== Sys2Proof/Machine/Far.lean ====
section
/-!
DEFINITION. Far accesses (R97 to R101, R315, R317): what each target brings at this device (the host-line cache of R156 to R160, the
pod copies of R115 and R116, the destination groups of R125 to R127), the messages sent, the replies that complete a wave's lanes
or its posted operations, and the failures of R135 and R317.
-/

namespace Sys2Proof.Machine

/-! ### Scopes and posted operations -/

/-- The level at which an accelerator stands (R99). -/
def State.podLevel (s : State) (accel : Nat) : Nat := if bitmapBit s (bits s.scopeCfg 51 7 * 128) accel then 5 else 6
/-- The narrowest scope that covers a target, by its code (R99, R100, R157). -/
def State.levelOf (s : State) : FarTarget → Nat
  | .chip _ | .host .. | .pool .. => 4
  | .pod _ _ a => s.podLevel a
  | .remote .. => 7
def FarTarget.noncoherent : FarTarget → Bool
  | .host _ coh _ => !coh
  | .pool .. => true
  | _ => false
def levelScope (n : Nat) : Scope := if n ≤ 4 then .sys else if n = 5 then .near else if n = 6 then .pod else .fab

/-- Posted operations of a wave that a scope covers and that are not performed yet (R100). -/
def State.postedIn (s : State) (k n : Nat) : List FarLane := (s.wave k).posted.filter fun f => s.levelOf f.target ≤ n

/-- Attributes of the requests of waves and of engines at the host port (R158, R163): the data of an engine alone are relaxed. -/
def State.portAttr (s : State) (relaxed : Bool) : PortAttr := { relaxed := relaxed, idBased := false, source := s.pbr }
/-- Where posted writes without coherence go: the host, or a pool device. -/
def FarTarget.dest? : FarTarget → Option (Option Nat)
  | .host _ false _ => some none
  | .pool pid .. => some (some pid)
  | _ => none
/-- A posted write to a non-coherent mapping that no zero-length read follows yet. -/
def FarLane.bare (f : FarLane) : Bool :=
  f.target.noncoherent && f.zr.isNone && !f.held && (match f.op with
    | .store .. => true
    | _ => false)
/-- The zero-length reads after the posted writes to non-coherent mappings, one to each destination (R158). -/
def State.zeroRead (s : State) (k : Nat) : State :=
  (((s.wave k).posted.filter FarLane.bare).filterMap (·.target.dest?)).eraseDups.foldl (fun s d =>
    let id := s.nextId
    (({ s with nextId := id + 1 } : State).modWave k fun w =>
      { w with posted := w.posted.map fun f => if f.bare && f.target.dest? == some d then { f with zr := some id } else f }).send
      (.zeroRead id d (s.portAttr false))) s

/-- The oldest failed posted operation within a scope (R135), and the wave without the failures that scope covers. -/
def State.failedIn (s : State) (k n : Nat) : Option Failed :=
  ((s.wave k).failed.filter fun f => decide (Scope.num f.scope ≤ n)).foldl (fun b f => match b with
    | some e => if f.born < e.born then some f else b
    | none => some f) none
def State.clearFailed (s : State) (k n : Nat) : State :=
  s.modWave k fun w => { w with failed := w.failed.filter fun f => !decide (Scope.num f.scope ≤ n) }

/-- A posted operation fails (R135, R161): the fault cell, and the next release or fence. -/
def State.postFail (s : State) (k : Nat) (f : FarLane) (cause detail : Nat) : State :=
  let g := s.wg (s.wave k).wg
  let s := s.modWave k fun w =>
    { w with failed := w.failed ++ [⟨cause, detail, f.ea, levelScope (s.levelOf f.target), f.tag⟩] }
  s.faultCell g.launch cause detail g.index f.ea

/-! ### Operations on bytes held here -/

def FarOp.bytes : FarOp → Nat
  | .load l _ | .store l _ | .atomic _ l _ _ | .red _ l _ => l.bytes
def FarOp.writes : FarOp → Bool
  | .load .. => false
  | _ => true
def FarOp.posted : FarOp → Bool
  | .store .. | .red .. => true
  | _ => false
/-- New bytes from old ones; none when nothing is written. -/
def FarOp.newBytes (op : FarOp) (old : List Byte) : Option (List Byte) :=
  match op with
  | .load .. => none
  | .store l v => some (leBytes l.bytes v.toNat)
  | .atomic o l x y =>
    (atomVal o (8 * l.bytes) (leNat old) (x.toNat % 2 ^ (8 * l.bytes)) (y.toNat % 2 ^ (8 * l.bytes))).map (leBytes l.bytes)
  | .red o l x => (atomVal o (8 * l.bytes) (leNat old) (x.toNat % 2 ^ (8 * l.bytes)) 0).map (leBytes l.bytes)

/-- A run of bytes replaced within a line. -/
def spliceAt (line : List Byte) (i : Nat) (bs : List Byte) : List Byte := line.take i ++ bs ++ line.drop (i + bs.length)

/-- A lane performed on chip memory at its far chunk's place (R317): old bytes, and the write as an own step of its home. -/
def State.farChip (s : State) (k : Nat) (f : FarLane) (ls : List Loc) : State × FarLane :=
  let old := s.chunkBytes k ls
  let s := if f.op.writes then s.keepStale (s.waveTenant k) (s.aliasVa (s.waveTenant k) f.ea) ls else s
  let r := FarReply.data old 0 0
  match f.op.newBytes old with
  | none => (s, { f with reply := some r })
  | some bs =>
    let s := s.audit (s.wave k).wg f.ea bs
    let s := (pieces (ls.zip bs)).foldl (fun s (l, b) =>
      match l with
      | .reg j o =>
        if j = k then
          let s := s.modWave k fun w => w.saveRows [o / 256]
          s.pokeN l b
        else ((s.undoFixed l b.length s.lastTs (l.wg s)).regTest k [{ loc := l, ea := f.ea, bytes := b }]).placeAt l b
      | _ => (s.undoFixed l b.length s.lastTs (l.wg s)).placeAt l b) s
    (s, { f with reply := some r })

/-! ### The host-line cache (R156, R158, R159) -/

def hostHalf (a : Nat) : Nat := (a / 128 % 2) ^^^ (a / 4096 % 2)
/-- The set of a line in the cache of its half: 2,048 sets of 16 ways. DESIGN CHOICE: which bits choose the set is not in the spec (log
entry 61). -/
def hostSet (a : Nat) : Nat := a / 64 % 2 + 2 * (a / 256 % 1024)
def State.hostLine? (s : State) (pa : Nat) : Option HostLine := s.hostLines.find? (·.addr == pa / 64 * 64)

/-- A line installed, owned or shared. DESIGN CHOICE: of a full set of 16 the line installed first is evicted, written back if dirty (log
entry 61). -/
def State.hostInstall (s : State) (pa : Nat) (data : List Byte) (own : Bool) : State :=
  let a := pa / 64 * 64
  if (s.hostLine? a).isSome then
    { s with hostLines := s.hostLines.map fun h => if h.addr == a then { h with owned := h.owned || own } else h }
  else
    let set := s.hostLines.filter fun h => hostHalf h.addr == hostHalf a && hostSet h.addr == hostSet a
    let s := match set with
      | v :: _ =>
        if set.length < 16 then s
        else
          let s := { s with hostLines := s.hostLines.filter fun h => h.addr != v.addr }
          if v.dirty then s.send (.hostWriteback v.addr v.data) else s
      | [] => s
    { s with hostLines := s.hostLines ++ [{ addr := a, data := (data ++ List.replicate 64 0).take 64, dirty := false, owned := own }] }

/-- The host addresses of the bytes of an access, word by word (R67). -/
def hostBytes (pa step n : Nat) : List Nat := (List.range n).map fun i => pa + i / 4 * step + i % 4
/-- The first byte of an access whose line is not held, or for a write not owned. -/
def State.hostNeed (s : State) (pa step n : Nat) (own : Bool) : Option Nat :=
  (hostBytes pa step n).find? fun a => !(s.hostLine? a).any fun h => h.owned || !own
def State.hostPoke (s : State) (a : Nat) (b : Byte) : State :=
  { s with hostLines := s.hostLines.map fun x => if x.addr == a / 64 * 64 then { x with data := spliceAt x.data (a % 64) [b], dirty := true } else x }
/-- A lane performed in the host-line cache. -/
def State.hostPerform (s : State) (f : FarLane) (pa step : Nat) : State × FarLane :=
  let at_ := hostBytes pa step f.op.bytes
  let old := at_.map fun a => ((s.hostLine? a).map fun h => h.data.getD (a % 64) 0).getD 0
  let s := match f.op.newBytes old with
    | none => s
    | some bs => (at_.zip bs).foldl (fun s (a, b) => s.hostPoke a b) s
  (s, { f with reply := some (.data old 0 0) })

/-! ### Pod lines held here (R115, R116) -/

def State.copy? (s : State) (t : Nat) (l : PodLine) : Option PodCopy := s.copies.find? fun c => c.tenant == t && c.line == l
def State.dropCopy (s : State) (t : Nat) (l : PodLine) : State :=
  { s with copies := s.copies.filter fun c => !(c.tenant == t && c.line == l) }
def State.putCopy (s : State) (c : PodCopy) : State := { (s.dropCopy c.tenant c.line) with copies := (s.dropCopy c.tenant c.line).copies ++ [c] }

/-- A lane performed in an owned line. -/
def State.podPerform (s : State) (f : FarLane) (c : PodCopy) (byte : Nat) : State × FarLane :=
  let old := (c.data.drop byte).take f.op.bytes
  let s := match f.op.newBytes old with
    | none => s
    | some bs => s.putCopy { c with data := spliceAt c.data byte bs }
  (s, { f with reply := some (.data old c.wts 0) })

/-- The pod clock of a loaded tenant takes a received value (R112). -/
def State.mergePc (s : State) (t pc : Nat) : State :=
  s.modTenant t fun x => if x.loaded then { x with podClock := max x.podClock pc } else x
def State.raisePv (s : State) (k v : Nat) : State := s.modWave k fun w => { w with pv := max w.pv v }

/-- Waves of a tenant that wait for ownership of a line to make a store. -/
def FarLane.ownsFor (f : FarLane) (l : PodLine) : Bool :=
  match f.op, f.target with
  | .store .., .pod m _ _ => m == l && f.reply.isNone
  | _, _ => false

/-! ### Sending -/

/-- The number under which the host port stands among the links. -/
def hostPort : Nat := 64
/-- A link to the target is down (R144, R161). -/
def State.cut (s : State) : FarTarget → Option (Nat × Nat)
  | .pod _ _ a => if s.links.any fun (l, x) => l != hostPort && x.down && Config.carries l a then some (causeFabricFail, 4) else none
  | .host .. | .pool .. => if (Tab.get {} s.links hostPort).down then some (causeUncorrected, 0x23) else none
  | _ => none

/-- The value with which a lane goes out: for a loop its first read, then its compare-and-swap (R160). -/
def FarLane.looped (f : FarLane) : Bool :=
  f.target.noncoherent && (match f.op with
    | .atomic o _ _ _ | .red o _ _ => !(o == .add || o == .xchg || o == .cas)
    | _ => false)
def FarLane.wire (f : FarLane) : FarOp :=
  if f.looped then
    match f.op, f.cmp with
    | .atomic o l x y, some c => .atomic .cas l (BitVec.ofNat 128 c) (BitVec.ofNat 128 ((atomVal o (8 * l.bytes) c (x.toNat % 2 ^ (8 * l.bytes)) y.toNat).getD c))
    | .red o l x, some c => .atomic .cas l (BitVec.ofNat 128 c) (BitVec.ofNat 128 ((atomVal o (8 * l.bytes) c (x.toNat % 2 ^ (8 * l.bytes)) 0).getD c))
    | .atomic _ l _ _, none => .load l false
    | .red _ l _, none => .load l false
    | op, _ => op
  else f.op

/-- A lane's request sent, or failed at once where its link is down. -/
def State.sendOr (s : State) (f : FarLane) (o : Out) : State × FarLane :=
  match s.cut f.target with
  | some (c, d) => (s, { f with reply := some (.fail c d) })
  | none => (s.send o, f)
/-- A lane's operation goes to its target, or is performed in a line held here. -/
def State.sendFar (s : State) (k : Nat) (rel : Bool) (f : FarLane) : State × FarLane :=
  let t := s.waveTenant k
  match f.target with
  | .chip ls => s.farChip k f ls
  | .host pa true step =>
    match s.hostNeed pa step f.op.bytes f.op.writes with
    | none => s.hostPerform f pa step
    | some a => s.sendOr { f with asked := some a } (.far k f.lane (.host a true 4) f.op rel 0 0 (s.portAttr false))
  | .host _ false _ | .pool .. => s.sendOr f (.far k f.lane f.target f.wire rel 0 0 (s.portAttr false))
  | .pod line byte _ =>
    let pc := (s.tenant t).podClock
    let s := s.raisePv k pc
    let pv := (s.wave k).pv
    match s.copy? t line with
    | some c =>
      if c.owned then s.podPerform f c byte
      else match f.op with
        | .load .. =>
          if pv ≤ c.lend then (s, { f with reply := some (.data ((c.data.drop byte).take f.op.bytes) c.wts 0) })
          else s.sendOr f (.podRead t line pv pc)
        | _ => s.sendOr f (.far k f.lane f.target f.op rel pv pc (s.portAttr false))
    | none =>
      match f.op with
      | .load .. => s.sendOr f (.podRead t line pv pc)
      | _ => s.sendOr f (.far k f.lane f.target f.op rel pv pc (s.portAttr false))
  | .remote rank region off fabric pset =>
    let (op, data) := match f.op with
      | .store l v => (1, leBytes l.bytes v.toNat)
      | .load .. => (2, [])
      | .atomic o l x y => (4, atomicOperands o l x y)
      | .red o l x => (4, atomicOperands o l x 0)
    let h := PktHdr.make op region off (s.tenant t).cur.jobRank.toNat f.op.bytes f.tag 0
    match s.sendPacket t { h := h, data := data, rank := rank, fabric := fabric, pset := pset, cmd := 0, wave := k, lane := f.lane } with
    | none => (s, { f with reply := some (.fail causeFabricFail 5) })
    | some s => (s, f)

/-! ### Lanes that name the same bytes (R160, R317, R320, R326, R329) -/

/-- Two targets share a byte, where the order of lanes holds: not at a remote rank (R130). -/
def FarTarget.meets (n m : Nat) : FarTarget → FarTarget → Bool
  | .host a _ p, .host b _ q => (hostBytes a p n).any (hostBytes b q m).contains
  | .pool i a p, .pool j b q => i == j && (hostBytes a p n).any (hostBytes b q m).contains
  | .pod l a _, .pod k b _ => l == k && overlap a n b m
  | _, _ => false
/-- An operation waits for one before it that is still to be performed. -/
def FarLane.behind (f g : FarLane) : Bool := g.reply.isNone && f.op.writes && FarTarget.meets f.op.bytes g.op.bytes f.target g.target
/-- The first of some operations that waits for none before it any more. -/
def firstFree : List FarLane → List FarLane → Option FarLane
  | _, [] => none
  | before, f :: fs => if f.held && !(before.any f.behind) then some f else firstFree (before ++ [f]) fs

/-! ### Completion of a wave's far load or far atomic (R79, R317) -/

def FarLane.late (f : FarLane) : Option (Nat × Nat) :=
  match f.reply with
  | some (.fail c d) => some (c, d)
  | _ => none
def FarLane.value (f : FarLane) : Option (BitVec 128) :=
  match f.reply with
  | some (.data bs _ _) =>
    let v := leNat (bs.take f.op.bytes)
    some (match f.op with
      | .load l true => BitVec.ofNat 128 (wrapTo 32 (sgn (8 * l.bytes) v))
      | _ => BitVec.ofNat 128 v)
  | _ => none
def FarLane.stamp (f : FarLane) : Nat :=
  match f.target, f.reply with
  | .pod .., some (.data _ w _) => w
  | _, _ => 0
def FarTarget.beyond : FarTarget → Bool
  | .chip _ => false
  | _ => true

/-- Traps of lanes that failed late, one for each cause, in the order of R317. -/
def State.lateTraps (s : State) (k : Nat) (pc : W64) (fs : List FarLane) : State :=
  -- granules of another device (R36, log entry 56); host and pool memory have none (R41)
  let far := (fs.filter fun f => f.late.any (·.1 == causePoison) && !f.target.noncoherent && s.levelOf f.target != 4).map fun f => f.ea.toNat / 4096
  let s := s.consume (s.waveTenant k) far.eraseDups.length
  [causeRankRegion, causePoison, causeUncorrected, causeFabricFail].foldl (fun s c =>
    match fs.filter fun f => f.late.any fun e => e.1 == c with
    | [] => s
    | f :: r => s.trapAsync k pc c ((f.late.getD (0, 0)).2) true (maskOf ((f :: r).map (·.lane))) f.ea) s

/-- Input values and seals of a completed far operation (R446, R447). -/
def farEntries (s : State) (k : Nat) (fs : List FarLane) : List (List W64) :=
  fs.flatMap fun f =>
    if f.target.beyond && f.late.isNone then
      (match f.reply with
        | some (.data bs _ _) => [inputEntry s k f.lane f.op.bytes (leNat (bs.take f.op.bytes))]
        | _ => []) ++ (if f.op.writes then [sealEntry s k f.ea] else [])
    else []

/-- The register results of a far operation whose lanes have all replied: registers of each and the values by lane. -/
def Waiting.farValues (x : Waiting) : Nat × List (Nat × BitVec 128) :=
  (match x.lanes with
    | f :: _ => (match f.op with
      | .load l _ | .store l _ | .atomic _ l _ _ | .red _ l _ => l.regs)
    | [] => 1, x.lanes.filterMap fun f => f.value.map fun v => (f.lane, v))

/-- All lanes have replied: results, logs, the view time of an acquire, and the wave goes on; held back while a full log in stall
mode leaves no room (R450). -/
def State.farTry (s : State) (k : Nat) : State :=
  let x := (s.wave k).wait
  let g := s.wg (s.wave k).wg
  if x.kind != .far || x.lanes.any (·.reply.isNone) then s
  else if g.saved || g.saving then
    let (n, vs) := x.farValues
    s.toSlot k ((s.wave k).withFarData vs n)
  else if g.restoring then s
  else match s.logTry (s.waveTenant k) (farEntries s k x.lanes) with
  | none => s
  | some s =>
    let (n, vs) := x.farValues
    let s := x.lanes.foldl (fun s f =>
      match f.target, f.reply with
      | .chip _, _ => s
      | _, some (.data bs _ _) => (match f.op.newBytes bs with
        | some nb => s.audit (s.wave k).wg f.ea nb
        | none => s)
      | _, _ => s) s
    let s := if x.acquire then s.raisePv k ((x.lanes.map (·.stamp)).foldl max 0) else s
    let s := s.modWave k fun w =>
      { ((w.writeAll x.w x.d n vs).modLanes (lanesOf x.mask) Lane.step) with wait := {} }.takeHalt
    (s.endChunk k).lateTraps k x.pc x.lanes

/-- A reply reaches lane `lane` of a wave: `f` says what it makes of the lane. Waiting lanes come first, then the oldest posted
operation of the lane. -/
def replaceFirst {α : Type} (p : α → Bool) (g : α → α) : List α → List α
  | [] => []
  | x :: xs => if p x then g x :: xs else x :: replaceFirst p g xs

/-- Operations held back for others on the same bytes go out once those are performed. -/
def State.sendHeld (s : State) (k : Nat) : Nat → State
  | 0 => s
  | n + 1 =>
    let w := s.wave k
    match firstFree [] w.wait.lanes, firstFree [] w.posted with
    | some f, _ =>
      let (s, g) := s.sendFar k f.rel { f with held := false }
      (s.modWave k fun w => { w with wait := { w.wait with lanes := replaceFirst (· == f) (fun _ => g) w.wait.lanes } }).sendHeld k n
    | none, some f =>
      let (s, g) := s.sendFar k f.rel { f with held := false }
      (match g.reply with
        | none => s.modWave k fun w => { w with posted := replaceFirst (· == f) (fun _ => g) w.posted }
        | some (.fail c d) => (s.modWave k fun w => { w with posted := w.posted.erase f }).postFail k f c d
        | some _ => s.modWave k fun w => { w with posted := w.posted.erase f }).sendHeld k n
    | none, none => s
def State.sendNext (s : State) (k : Nat) : State :=
  s.sendHeld k (((s.wave k).wait.lanes ++ (s.wave k).posted).filter (·.held)).length

def State.answer (s : State) (k : Nat) (p : FarLane → Bool) (r : State → FarLane → State × FarLane) : State :=
  let w := s.wave k
  match (if w.wait.kind = .far then w.wait.lanes else []).find? fun f => p f && f.reply.isNone with
  | some f =>
    let (s, g) := r s f
    let s := s.modWave k fun w => { w with wait := { w.wait with lanes := replaceFirst (· == f) (fun _ => g) w.wait.lanes } }
    (s.sendNext k).farTry k
  | none =>
    match w.posted.find? p with
    | none => s
    | some f =>
      let (s, g) := r s f
      (match g.reply with
      | none => s.modWave k fun w => { w with posted := replaceFirst (· == f) (fun _ => g) w.posted }
      | some (.fail c d) => (s.modWave k fun w => { w with posted := w.posted.erase f }).postFail k f c d
      | some _ => s.modWave k fun w => { w with posted := w.posted.erase f }).sendNext k

end Sys2Proof.Machine
end

