-- ==== Sys2Proof/Machine/Mem.lean ====
section
/-!
DEFINITION. Loads, stores, prefetches and fences (R315 to R324): the checks of all lanes (R11), what an access waits for (R52, R88,
R107, R118, R151, R153), the write stash (R80, R493), and far accesses (R317).
-/

namespace Sys2Proof.Machine

/-! ### The lanes of an access -/

/-- One lane's access as resolved. -/
structure LaneAcc where
  lane : Nat
  ea : W64
  res : Res
  deriving DecidableEq, Repr

/-- An access that passed its checks: lane, address, place. -/
abbrev Granted := Nat × W64 × Resolved

def State.resolveAll (s : State) (a : Operand) (off size : Nat) (sc : Scope) (acc : Acc) : List LaneAcc :=
  s.myLanes.map fun l =>
    let ea := s.me.read64 l a + BitVec.ofNat 64 off
    ⟨l, ea, resolve s s.cur.wave l ea size sc acc⟩

def LaneAcc.err? (x : LaneAcc) : Option AddrErr :=
  match x.res with
  | .err e => some e
  | _ => none
def LaneAcc.miss? (x : LaneAcc) : Option Nat :=
  match x.res with
  | .miss va => some va
  | _ => none
def LaneAcc.ok? (x : LaneAcc) : Option Granted :=
  match x.res with
  | .ok r => some (x.lane, x.ea, r)
  | _ => none

/-- The failure that comes earliest in the order of R11. -/
def worst (xs : List LaneAcc) : Option AddrErr :=
  (xs.filterMap LaneAcc.err?).foldl (fun b e => match b with
    | none => some e
    | some c => if e.order < c.order then some e else b) none

/-- The trap of R11: exactly the lanes that failed with the cause, the detail and address of the lowest of them. -/
def State.laneTrap (s : State) (xs : List LaneAcc) (cause : Nat) : State :=
  let bad := xs.filterMap fun x => (x.err?.filter (·.cause == cause)).map fun e => (x.lane, x.ea, e.detail)
  let first := bad.headD (0, 0, 0)
  -- of its own storage the device names the register or the bank (R417)
  let info := if cause ≠ causeUncorrected then first.2.1
    else BitVec.ofNat 64 (if first.2.2 = 1 then bits first.2.1 14 8 else bits first.2.1 17 11)
  let s := if cause = causePoison then
      s.consume (s.waveTenant s.cur.wave) (bad.filterMap fun x => granuleOf s s.cur.wave x.1 x.2.1).eraseDups.length else s
  s.trap cause first.2.2 (maskOf (bad.map (·.1))) info

/-- Every lane's check is made before any access is performed: a walk to wait for, the trap, or the places. -/
def State.granted (s : State) (xs : List LaneAcc) : Except State (List Granted) :=
  match xs.findSome? LaneAcc.miss? with
  | some va => .error (s.stop (.walk va))
  | none =>
    match worst xs with
    | some e => .error (s.laneTrap xs e.cause)
    | none => .ok (xs.filterMap LaneAcc.ok?)

def Resolved.locs (r : Resolved) : List Loc :=
  match r.target with
  | .chip ls => ls
  | _ => []
def allLocs (xs : List Granted) : List Loc := xs.flatMap fun x => x.2.2.locs

/-! ### Waits before an access to chip memory -/

/-- A read of a line, or an access to a register of the wave's own, waits for commits: those on their way to their homes (R88), a
result still to be written (R78), and, DESIGN CHOICE, the wave's own earlier chunk that holds the line in the stash and has no stamp
yet: R80 forwards nothing from it (log entry 57). -/
def State.commitStall (s : State) (k : Nat) (l : Loc) : Bool :=
  let own := match (s.wave k).com with
    | some c => c.lines.contains l.line || match l with
        | .reg j o => j == k && c.closing.pendingRegs.contains (o / 256)
        | _ => false
    | none => false
  s.pendingLine l.line || own || s.readWaits (s.coreOf k) l.line
/-- What a wave's access to a byte waits for: a locked line, a line an engine fills, a page whose bias flips, a busy bank. A store goes
to the stash, and reaches a locked line only in its commit. -/
def State.locStall (s : State) (k : Nat) (write : Bool) (l : Loc) : Option Stall :=
  let direct := match l with
    | .reg j _ => j == k
    | _ => false
  if (!write || direct) && s.commitStall k l then some .commit
  else match l with
  | .scr g o => if Tab.get 0 (s.wg g).absent (o / 128) ≠ 0 then some .local_ else none
  | .acc c o => if s.bankBusy c (o / 2048) then some .local_ else none
  | .mem a => s.memWait write (.mem a)
  | .reg _ _ => none

/-- The first wait among the lanes of an access. -/
def State.accessStall (s : State) (k size : Nat) (write : Bool) (xs : List Granted) : Option Stall :=
  xs.findSome? fun (_, ea, r) =>
    if s.boardWaits k ea.toNat size write then some .engine else r.locs.findSome? (s.locStall k write)

/-- What holds an access back: its waits, a drowsy bank (R74), its further store cycles (R48). -/
def State.stallOn (s : State) : Stall → State
  | .engine => s.hold .engine
  | .commit => s.hold .commit
  | .local_ => s.hold .localmem
  | st => (s.askFor st).hold .localmem

def State.accessWait (s : State) (k size : Nat) (write : Bool) (xs : List Granted) : Option State :=
  let lines := (xs.flatMap fun x => (x.2.2.locs.map Loc.line).eraseDups).eraseDups
  match s.accessStall k size write xs with
  | some st => some (s.stallOn st)
  | none => (s.wakeFor lines).orElse fun _ => s.storeWait lines

/-- The lines that the lanes of a load read (R43). -/
def State.noteCounts (s : State) (xs : List Granted) : State :=
  s.readLines s.myCore (xs.flatMap fun x => x.2.2.locs.map fun l => (l, x.2.2.cnt))
/-- The lines of a far access: it goes to the home slice. -/
def State.noteFar (s : State) (xs : List Granted) (write : Bool) : State :=
  ((xs.filter (·.2.2.cnt)).flatMap (·.2.2.locs.map Loc.line)).eraseDups.foldl (fun s l => s.countLine l write false) s

/-! ### A wait begins -/

/-- The instruction has issued and waits: its lanes stay, its immediates and modifiers are spent (R260, R262). -/
def State.beginWait (s : State) (i : Instr) (x : Waiting) : State :=
  ((s.modWave s.cur.wave fun w => { (((w.noteRegs i.readRegs).mend i.written s.cur.mask).modLanes s.myLanes fun y => y.after i) with wait := x }).count
    s.cur.wave s.cur.pc).barOthers

/-! ### Far accesses (R317) -/

/-- A far operation of the wave that an access to the same pod or host line follows (R100). -/
def State.sameLine (s : State) (k : Nat) (t : FarTarget) : Bool :=
  (s.wave k).posted.any fun f => match f.target, t with
    | .pod l _ _, .pod m _ _ => l == m
    | .host a true _, .host b true _ => a / 64 == b / 64
    | _, _ => false

/-- What holds a far access back: the release's earlier operations (R100), a frozen fabric (R139), an earlier operation on the same
line, a chip lane's wait, the reservation (R92). -/
def State.farWait (s : State) (k : Nat) (rel : Bool) (sc size : Nat) (write : Bool) (xs : List Granted) : Option State :=
  let host := xs.any fun x => x.2.2.target.noncoherent
  let sc := max 4 sc
  let before := if rel then s.postedIn k sc else []
  if !before.isEmpty then some ((if before.any (·.target.noncoherent) || host then s.zeroRead k else s).hold .farmem)
  else if s.frozen && xs.any fun x => match x.2.2.target with
      | .remote .. => true
      | _ => false then some (s.hold .farmem)
  else if xs.any fun x => s.sameLine k x.2.2.target then some (s.hold .farmem)
  else match s.accessWait k size write xs with
    | some t => some t
    | none =>
      if write && s.resBlocks (some k) (sigOf (s.keysOf ((allLocs xs).map Loc.line))) then some (s.hold .commit) else none

/-- An acquire or FENCE at .chip or wider: private-window reads that follow see the alias writes before it (R103). -/
def State.viewNow (s : State) (k : Nat) : State := s.modWave k fun w => { w with run := { w.run with view := true } }
/-- The lanes sent in increasing order; one that names bytes of a lower lane still under way is held back. -/
def State.sendAll (s : State) (k : Nat) (rel : Bool) (fs : List FarLane) : State × List FarLane :=
  fs.foldl (fun (s, out) f =>
    if out.any f.behind then (s, out ++ [{ f with held := true }])
    else
      let (s, g) := s.sendFar k rel f
      (s, out ++ [g])) (s, [])

/-- Posted lanes: those not yet performed stay with the wave; one that has failed already is reported (R135). -/
def State.postAll (s : State) (k : Nat) (fs : List FarLane) : State :=
  fs.foldl (fun s f => match f.reply with
    | none => s.modWave k fun w => { w with posted := w.posted ++ [f] }
    | some (.fail c d) => s.postFail k f c d
    | some _ => s) s

/-- A far access: a chunk of its own (R78), held back as `farWait` says, then sent. A posted one goes on; any other waits for its
data. A release reports the failures it covers (R135). -/
def State.farAccess (s : State) (i : Instr) (xs : List Granted) (op : Nat → FarOp) (acq rel : Bool) (sc : Scope) (w : Bool)
    (d : Operand) : Except State State :=
  let k := s.cur.wave
  let o := op (leading s.cur.mask)
  let n := max 4 (Scope.num sc)
  if !s.alone then .error s.endBefore
  else if !s.logRoom k (1 + if o.posted then (xs.filter (·.2.2.target.beyond)).length else 0) then .error (s.refuseLog k s.me.lanes)
  else match s.farWait k rel n o.bytes o.writes xs with
  | some t => .error t
  | none =>
    let s := if acq then s.viewNow k else s
    let fs := xs.zipIdx.map fun ((l, ea, r), i) => ({ lane := l, ea := ea, target := r.target, op := op l, tag := s.nextId + i, rel := rel } : FarLane)
    let s := { s with nextId := s.nextId + fs.length }
    let seals := if o.posted then (fs.filter (·.target.beyond)).map fun f => sealEntry s k f.ea else []
    match s.logTry (s.waveTenant k) seals with
    | none => .error s.logHold
    | some s =>
      let bad := if rel then s.failedIn k n else none
      let s := if rel then s.clearFailed k n else s
      let s := s.noteFar xs o.writes
      let (s, fs) := (s.invUse (allLocs xs)).sendAll k rel fs
      let s := match bad with
        | some f => s.trapNext k s.cur.pc f.cause f.detail s.cur.mask f.addr
        | none => s
      if o.posted then
        let s := (fs.filter (·.target.beyond)).foldl (fun s f => match f.op with
          | .store l v => s.audit s.me.wg f.ea (leBytes l.bytes v.toNat)
          | _ => s) s
        .ok ((s.postAll k fs).modWave k fun w => { w with run := { w.run with last := true, performed := true } }).wakeAll
      else
        let s := s.beginWait i { kind := .far, pc := s.cur.pc, mask := s.cur.mask, w := w, d := d, lanes := fs, acquire := acq }
        .error (s.farTry k).wakeAll

/-! ### Loads (R319, R321) -/

/-- A load of the lanes from chip memory. -/
def State.chipLoad (s : State) (xs : List Granted) (w : Bool) (d : Operand) (l : Width) (signed : Bool) : State :=
  let k := s.cur.wave
  let vs := xs.map fun (ln, ea, r) =>
    let v := leNat (s.loadBytes k ea r.locs)
    (ln, BitVec.ofNat 128 (if signed then wrapTo 32 (sgn (8 * l.bytes) v) else v))
  let (pr, ls) := xs.partition fun x => isPrivate x.2.1
  let s := ((((s.notePrivate k (allLocs pr) []).noteRead k (allLocs ls)).noteCounts xs).invUse (allLocs xs)).useBanks (allLocs xs)
  s.modWave k fun x =>
    ({ x with run := { x.run with rbytes := x.run.rbytes + l.bytes * xs.length } }).writeAll w d l.regs vs

def State.loadWith (s : State) (i : Instr) (acq signed w : Bool) (d a : Operand) (sc : Scope) (l : Width) (o : BitVec 3) :
    Host.Outcome State Fault Refusal :=
  s.perform i false fun t =>
    match t.granted (t.resolveAll a (o.toNat * l.bytes) l.bytes sc .read) with
    | .error u => .error u
    | .ok xs =>
      if xs.any (·.2.2.far) then t.farAccess i xs (fun _ => .load l signed) acq false sc w d
      else match t.accessWait t.cur.wave l.bytes false xs with
        | some u => .error u
        | none => .ok ((if acq && Scope.num sc = 3 then t.viewNow t.cur.wave else t).chipLoad xs w d l signed)

def execLd (w : Bool) (d a : Operand) (sc : Scope) (l : Width) (o : BitVec 3) (s : State) : Host.Outcome State Fault Refusal :=
  s.loadWith (.ld w d a sc l o) false false w d a sc l o
def execLdSigned (w : Bool) (d a : Operand) (sc : Scope) (l : Width) (o : BitVec 3) (s : State) :
    Host.Outcome State Fault Refusal := s.loadWith (.ldSigned w d a sc l o) false true w d a sc l o
def execLdAcq (w : Bool) (d a : Operand) (sc : Scope) (l : Width) (o : BitVec 3) (s : State) :
    Host.Outcome State Fault Refusal := s.loadWith (.ldAcq w d a sc l o) true false w d a sc l o

/-! ### Stores (R320, R321, R493) -/

/-- Stash lines that stores to these places take (R80): none for the wave's own registers. -/
def stashNeed (k : Nat) (ls : List Loc) : List Loc :=
  ((ls.filter fun l => match l with
    | .reg j _ => j != k
    | _ => true).map Loc.line).eraseDups

/-- Registers of the wave's own that a store writes through the register window (R50, R77). -/
def ownRows (k : Nat) (ls : List Loc) : List Nat :=
  (ls.filterMap fun l => match l with
    | .reg j o => if j = k then some (o / 256) else none
    | _ => none).eraseDups

/-- The stash lines that a lane's store needs; a lane that fails counts by its virtual lines, kept apart from device memory (log
entry 31). -/
def LaneAcc.stashLines (s : State) (k size : Nat) (x : LaneAcc) : List Loc :=
  match x.ok? with
  | some g => stashNeed k g.2.2.locs
  | none =>
    let g := s.wg (s.wave k).wg
    let va := fun i =>
      if bits x.ea 63 62 = 1 then g.privVa (g.threadIndex (64 * (s.wave k).idx + x.lane)) (bits x.ea 31 0 + i) else bits x.ea 61 0 + i
    ((List.range size).map fun i => Loc.mem (2 ^ 64 + va i / 128 * 128)).eraseDups

/-- The longest run of lanes, lowest first, whose stores fit in an empty stash (R493). -/
def stashRun (s : State) (k size : Nat) : List Loc → List LaneAcc → List LaneAcc
  | _, [] => []
  | held, x :: xs =>
    let now := (held ++ x.stashLines s k size).eraseDups
    if 64 < now.length then [] else x :: stashRun s k size now xs

def storeBytes (w : Wave) (lane : Nat) (d : Operand) (l : Width) : List Byte := leBytes l.bytes (w.readN lane l.regs d).toNat

/-- The lanes' bytes go to the stash in increasing lane order, so that the highest lane's prevail. -/
def State.chipStore (s : State) (xs : List Granted) (d : Operand) (l : Width) : State :=
  let k := s.cur.wave
  let w := s.me
  xs.foldl (fun s (ln, ea, r) => s.chunkStore k ea r.locs (storeBytes w ln d l) r.cnt) s

/-- A chip store that passed its checks: free stash lines (R77, R80), the waits, then the stash. -/
def State.stashStore (s : State) (xs : List Granted) (d : Operand) (l : Width) : Except State State :=
  let k := s.cur.wave
  let mine := stashLines s.me.run.writes
  let older := match s.me.com with
    | some c => (stashLines c.writes).length
    | none => 0
  let new := (stashNeed k (allLocs xs)).filter fun x => !mine.contains x
  let rows := (ownRows k (allLocs xs)).filter fun v => !s.me.run.saved.any (·.1 == v)
  if 64 < mine.length + older + new.length then .error s.endBefore
  -- DESIGN CHOICE: a store that names more than 32 registers by itself is performed in a chunk of its own (log entry 58)
  else if 32 < s.me.run.saved.length + rows.length ∧ 0 < s.me.run.issued then .error s.endBefore
  else match s.accessWait k l.bytes true xs with
    | some t => .error t
    | none => .ok (s.chipStore xs d l)

def State.storeWith (s : State) (i : Instr) (rel : Bool) (d a : Operand) (sc : Scope) (l : Width) (o : BitVec 3) :
    Host.Outcome State Fault Refusal :=
  s.perform i false fun t =>
    let xs := t.resolveAll a (o.toNat * l.bytes) l.bytes sc .write
    let oks := xs.filterMap LaneAcc.ok?
    let k := t.cur.wave
    if !oks.any (·.2.2.far) && decide (64 < (xs.flatMap fun x => x.stashLines t k l.bytes).eraseDups.length) then
      if !t.alone then .error t.endBefore
      else
        let run := stashRun t k l.bytes [] xs
        let t := { t with cur := { t.cur with mask := maskOf (run.map fun (x : LaneAcc) => x.lane) } }
        match t.granted run with
        | .error u => .error u
        | .ok xs =>
          match t.stashStore xs d l with
          | .error u => .error u
          | .ok u => .ok (u.modWave k fun w => { w with run := { w.run with last := true } })
    else
      match t.granted xs with
      | .error u => .error u
      | .ok xs =>
        if xs.any (·.2.2.far) then
          let w := t.me
          t.farAccess i xs (fun ln => .store l (w.readN ln l.regs d)) false rel sc false .zero
        else t.stashStore xs d l

def execSt (d a : Operand) (sc : Scope) (l : Width) (o : BitVec 3) (s : State) : Host.Outcome State Fault Refusal :=
  s.storeWith (.st d a sc l o) false d a sc l o
def execStRel (d a : Operand) (sc : Scope) (l : Width) (o : BitVec 3) (s : State) : Host.Outcome State Fault Refusal :=
  s.storeWith (.stRel d a sc l o) true d a sc l o

/-! ### PREF and FENCE (R323, R324) -/

/-- A prefetch: a line of device memory comes into the level-1 cache; of a pod line a leased copy is asked for. -/
def State.prefetch (s : State) (x : LaneAcc) : State :=
  match x.res with
  | .ok r =>
    match r.target with
    | .chip ls => s.readLines s.myCore (ls.map fun l => (l, r.cnt))
    | .pod line _ _ =>
      let t := s.waveTenant s.cur.wave
      let pc := (s.tenant t).podClock
      if (s.copy? t line).any fun c => c.owned || decide (pc ≤ c.lend) then s else s.send (.podRead t line (max s.me.pv pc) pc)
    | _ => s
  | _ => s
def execPref (a : Operand) (sc : Scope) (l : Width) (o : BitVec 3) (s : State) : Host.Outcome State Fault Refusal :=
  s.simple (.pref a sc l o) fun t => (t.resolveAll a (o.toNat * l.bytes) l.bytes sc .read).foldl State.prefetch t

/-- Placements of arrived packets that a counter of the wave's tenant counts already are still to be applied (R101, R133). -/
def State.uncounted (s : State) (k : Nat) : Bool :=
  s.arrivals.any fun a => a.tenant == s.waveTenant k && a.h.tc && !a.uncounted && !a.left.isEmpty

/-- FENCE (R324): a chip commit at .chip or narrower; else a release and an acquire, held until every earlier far access within its
scope is performed (R79, R101). -/
def execFence (sc : Scope) (s : State) : Host.Outcome State Fault Refusal :=
  s.perform (.fence sc) false fun t =>
    let k := t.cur.wave
    let n := Scope.num sc
    if n ≤ 3 then .ok (t.modWave k fun w => { w with run := { w.run with fence := true, view := w.run.view || n == 3 } })
    else if !t.alone then .error t.endBefore
    else if !t.logRoom k 1 then .error (t.refuseLog k t.me.lanes)
    else
      let before := t.postedIn k n
      if !before.isEmpty then .error ((if before.any (·.target.noncoherent) then t.zeroRead k else t).hold .farmem)
      else if n == 7 && t.uncounted k then .error (t.hold .farmem)
      else
        let u := (t.clearFailed k n).modWave k fun w => { w with run := { w.run with last := true, view := true } }
        match t.failedIn k n with
        | some f => .ok (u.trapNext k u.cur.pc f.cause f.detail u.cur.mask f.addr)
        | none => .ok u

end Sys2Proof.Machine
end

