-- ==== Sys2Proof/Machine/Place.lean ====
section
/-!
DEFINITION. What engine commands do to memory when they run: the bytes they name (R11, R55), what makes them wait (R51, R88, R107,
R118, R151, R153), the lines they place as writes of their own (R106) with their log records (R351, R444, R445), what they count
(R59, R132), and how they end or fail (R53, R350).
-/

namespace Sys2Proof.Machine

/-- Why a command cannot go on with a line now: a wait, a walk, or a failure with its cause, detail and address. -/
inductive EngStop where
  | wait (st : Stall)
  | walk (va : Nat)
  | fail (cause detail : Nat) (addr : W64)
  deriving DecidableEq, Repr

/-- The tenant's pool extents as a running command still uses them: a release lets it end (R164). -/
def State.undrained (s : State) (t : Nat) : State :=
  s.modTenant t fun x => { x with extents := x.extents.map fun e => e.modify 0 fun w => if x.extRelease = 0 then w else w &&& ~~~(1#64 <<< 62) }
/-- The place of one byte of a command. -/
def State.engResolve (s : State) (c : Cmd) (a : W64) (sc : Scope) (acc : Acc) : Res :=
  let t := (s.undrained c.tenant).unspoiled c.wave
  match resolve t c.wave (leading c.mask) a 1 sc acc with
  | .miss va =>
    match translate s (.l1 (s.coreOf c.wave)) c.tenant va with
    | .fail _ => resolve (t.fillTlb (.l1 (s.coreOf c.wave)) c.tenant va) c.wave (leading c.mask) a 1 sc acc
    | _ => .miss va
  | r => r
/-- The place of a run of bytes of a command, byte by byte. A failure found here is ENGINE_FAULT 0x07 for poison, 0x06 for a window's
bound, 0x0B for the register window, else 0x08 (R348). -/
def State.engTargets (s : State) (c : Cmd) (ea : W64) (n : Nat) (sc : Scope) (acc : Acc) : Except EngStop (List FarTarget) :=
  (List.range n).mapM fun i =>
    let a := ea + BitVec.ofNat 64 i
    if bits a 63 56 = 0x41 then .error (.fail causeEngine 0x0B a)
    else match s.engResolve c a sc acc with
    | .miss va => .error (.walk va)
    | .err e => .error (.fail causeEngine (if e.cause = causePoison then 0x07 else if e.cause = causePermission ∧ e.detail = 4 then 0x06 else 0x08) a)
    | .ok r => .ok r.target
def FarTarget.loc? : FarTarget → Option Loc
  | .chip (l :: _) => some l
  | _ => none
/-- The same for an end that lies in chip memory. -/
def State.engLocs (s : State) (c : Cmd) (ea : W64) (n : Nat) (acc : Acc) : Except EngStop (List Loc) :=
  (s.engTargets c ea n .chip acc).bind fun ts =>
    let ls := ts.filterMap FarTarget.loc?
    if ls.length = n then .ok ls else .error (.fail causeEngine 0x0B ea)

/-- What a command waits for before it reads or writes a place; a page whose bias flips is open to the commands that were moving bytes
of it (R153). -/
def State.engStall (s : State) (c : Cmd) (write : Bool) (l : Loc) : Option Stall :=
  if s.pendingLine l.line || (!write && s.readWaits c.core l.line) then some .commit
  else match l with
  | .scr g o => if !write && Tab.get 0 (s.wg g).absent (o / 128) ≠ 0 then some .local_ else none
  | .acc k o => if s.bankBusy k (o / 2048) then some .local_ else none
  | .mem a => if s.flips.any fun f => f.page == a / 4096 && !f.movers.contains c.id then some .local_ else s.memStall a write
  | .reg _ _ => none
/-- What the command asks for while it waits. -/
def State.engAsk (s : State) : EngStop → State
  | .wait st => s.askFor st
  | _ => s

/-- A poisoned scratchpad line among places that are read (R55). -/
def State.spoiledAt (s : State) : Loc → Bool
  | .scr g o => Tab.get false (s.wg g).spoiled (o / 128)
  | _ => false

/-- Places ready to be read, and places ready to be written. -/
def State.engRead (s : State) (c : Cmd) (ea : W64) (n : Nat) : Except EngStop (List Loc) :=
  (s.engLocs c ea n .read).bind fun ls =>
    match ls.zipIdx.find? fun (l, _) => s.spoiledAt l with
    | some (_, i) => .error (.fail causeEngine 0x07 (ea + BitVec.ofNat 64 i))
    | none =>
      match ls.findSome? (s.engStall c false) with
      | some st => .error (.wait st)
      | none => .ok ls
def State.engWrite (s : State) (c : Cmd) (ea : W64) (n : Nat) : Except EngStop (List Loc) :=
  (s.engLocs c ea n .write).bind fun ls =>
    match ls.findSome? (s.engStall c true) with
    | some st => .error (.wait st)
    | none => if s.resBlocks none (sigOf (s.keysOf (ls.map Loc.line))) then .error (.wait .commit) else .ok ls

/-- Every byte of a scratchpad line lies in a row of the command, so that it clears the line's poison flag (R55). -/
def Cmd.fillsLine (s : State) (c : Cmd) (line : Nat) : Bool :=
  let g := s.wg c.wg
  (List.range 128).all fun i =>
    let a := BitVec.ofNat 64 (windowEa (scrKey g c.core (128 * line + i)))
    (List.range c.rows).any fun r => decide ((a - c.dstRow r).toNat < c.rowb)

/-! ### Log records of engines -/

/-- The aligned 16 bytes that hold a place. -/
def Loc.unit : Loc → Loc
  | .mem a => .mem (a / 16 * 16)
  | .scr g o => .scr g (o / 16 * 16)
  | .reg w o => .reg w (o / 16 * 16)
  | .acc c o => .acc c (o / 16 * 16)

/-- The undo entry of 16 bytes; an accumulator place of the odd core is marked in bit 23, as a scratchpad place is (log entry 25). -/
def engUndo (s : State) (c : Cmd) (u : Loc) : List W64 :=
  let e := placeEntry s 4 u (s.peekN u 16) (undoTs s u c.wg s.lastTs)
  match u with
  | .acc k _ => if k = (s.wg c.wg).core then e else e.modify 0 (· ||| 0x800000#64)
  | _ => e

/-- The placement record of a 128-byte line and the undo entries of the units written in it. -/
def engEntries (s : State) (c : Cmd) (line : W64) (ls : List Loc) : List (List W64) :=
  let chip := ls.any fun l => match l with
    | .mem _ => true
    | _ => false
  [kindWord 8 ||| BitVec.ofNat 64 ((if chip then 0 else 2 ^ 57) + (s.wave c.wave).idx * 2 ^ 39 + (s.wg c.wg).index % 2 ^ 32),
   BitVec.ofNat 64 ((s.launch c.launch).num * 2 ^ 32 + c.nchk % 2 ^ 32),
   BitVec.ofNat 64 ((if chip then 0 else 2 ^ 63) + s.lastTs), line] ::
    ((ls.map Loc.unit).eraseDups.map (engUndo s c))

/-- Records of a command appended, marked as entries that an unwind leaves (R387); a full log in stall mode makes the command wait
(R450). -/
def State.logEngine (s : State) (c : Cmd) (es : List (List W64)) : Except State State :=
  let i := (s.tenant c.tenant).logTail
  if !(s.tenant c.tenant).logging then .ok s
  else match s.logTry c.tenant es with
  | some t => .ok ((t.modTenant c.tenant fun x => { x with fixedUndo := x.fixedUndo ++ (List.range es.length).map (i + ·) }).modCmd c.id
      fun x => { x with stalled := false })
  | none =>
    .error (if c.stalled then s else (s.modCmd c.id fun x => { x with stalled := true }).interrupt c.tenant 2)

/-- A line placed: each piece a write of its own (R106). -/
def State.engStore (s : State) (ls : List Loc) (bs : List Byte) : State :=
  ((pieces (ls.zip bs)).foldl (fun s (l, b) => s.placeAt l b) s).invUse ls

/-- Undo entries and input placements of bytes from beyond the chip that an engine places (R351, R446). -/
def farPlaceEntries (s : State) (c : Cmd) (ls : List Loc) (bs : List Byte) : List (List W64) :=
  (pieces (ls.zip bs)).flatMap fun (l, b) => (cuts 0 b.length).flatMap fun (o, m) =>
    let at_ := l.add o
    let ts := undoTs s at_ c.wg s.lastTs
    [placeEntry s 4 at_ (s.peekN at_ m) ts, placeEntry s 6 at_ ((b.drop o).take m) ts]

/-! ### Poison and error records (R418, R423) -/

/-- An error record, or one more dropped when the ring is full or none is set up; either way the module error interrupt for a record
that is written. -/
def State.errRecord (s : State) (kind utype unit core ten addr : Nat) : State :=
  let n := bits s.errN 4 0
  if n < 6 ∨ 16 < n ∨ 2 ^ n ≤ (s.errHead + 65536 - s.errTail) % 65536 then { s with errDropped := min 65535 (s.errDropped + 1) }
  else
    let a := s.errBase.toNat + 32 * (s.errHead % 2 ^ n)
    let ws := [kind * 2 ^ 56 + utype * 2 ^ 48 + unit % 65536 * 2 ^ 32 + core % 256 * 2 ^ 16 + ten % 32, s.time / 756, addr, 0]
    let s := (ws.zipIdx).foldl (fun s (v, i) => s.st64 (a + 8 * i) (BitVec.ofNat 64 v)) s
    { s with errHead := (s.errHead + 1) % 65536 }.send .moduleInterrupt

/-- The tenants whose memory windows hold a page of device memory. -/
def State.ownersOf (s : State) (page : Nat) : List Nat :=
  let a := 4096 * page
  (s.tenants.filter fun (_, t) => t.owns (if a < tierBase then 0 else 1) (if a < tierBase then a else a - tierBase) 4096).map (·.1)

/-- A change of chip memory that the log cannot express is sealed (R447). -/
def State.sealPage (s : State) (page : Nat) : State :=
  ((s.ownersOf page).filter fun t => (s.tenant t).logging).foldl (fun s t => s.logForce t [[kindWord 7, 0, 0, BitVec.ofNat 64 (4096 * page)]]) s

/-- A chunk has stored in a granule of device memory, or its closing operation acts there. -/
def Chunk.writesPage (c : Chunk) (page : Nat) : Bool :=
  (c.writes.map (·.loc) ++ c.closing.places).any fun l => match l with
    | .mem a => a / 4096 == page
    | _ => false
/-- A chunk in flight that has stored in a granule that becomes poisoned has not committed: it runs again and meets the poison (R40). -/
def State.squashWriter (s : State) (k page : Nat) : State :=
  let w := s.wave k
  if w.com.any fun c => c.ts.isNone && c.writesPage page then s.squash k false
  else if w.run.writesPage page then s.squash k true else s

/-- A granule becomes poisoned (R40, R418): its bit and the summaries, the chunks in flight that have read it or stored in it discarded,
its seal, its error record. -/
def State.poisonGranule (s : State) (page : Nat) : State :=
  if s.poisoned (4096 * page) then s
  else
    let s := (s.setPoison page true).sealPage page
    let s := s.liveWaves.foldl (fun s k => s.squashWriter k page) s
    let s := (List.range 32).foldl (fun s i => s.testPlace (.mem (4096 * page + 128 * i))) s
    s.errRecord 3 7 0 0 ((s.ownersOf page).headD 0) (if 4096 * page < tierBase then 4096 * page else 4096 * page - tierBase)

/-! ### Counting, ends and failures -/

/-- Bytes of a command placed and counted at its completion object, once visible (R59, R132). -/
def State.countPlaced (s : State) (c : Cmd) (n : Nat) : State :=
  let s := s.modCmd c.id fun x => { x with placed := x.placed + n }
  match c.comp, c.compLoc with
  | .bar, some l => (s.countObject c).atHome l (.expect (-n))
  | .ctr, some (.mem a) => (if s.counterMode a then s else s.countObject c).atHome (.mem a) (.count n 0)
  | _, _ => s

/-- A copy or fabric command fails (R350): its lines present again, its object marked, the fault cell; poison inside an open
containment region also unwinds the workgroup (R387). -/
def State.failCmd (s : State) (c : Cmd) (cause detail : Nat) (addr : W64) : State :=
  let g := s.wg c.wg
  let fabric := cause == causeFabricFail
  let s := ((s.freeLines c c.lines).failObject c (if fabric then 0x0B else 0x0A) (if fabric then detail else 0x06)).dropCmd c.id
  let s := s.faultCell c.launch cause detail g.index addr
  let s := if cause = causeEngine ∧ detail = 7 then
      (s.consume c.tenant (granuleOf s c.wave (leading c.mask) addr).toList.length).interrupt c.tenant 5 else s
  (if g.cntOpen && g.live && cause == causeEngine && detail == 7 then s.unwindFor c.wg (s.wave c.wave).idx cause detail else s).wakeAll

/-- A command that cannot go on: it waits, its page is walked, or it fails. -/
def State.engHalt (s : State) (c : Cmd) (e : EngStop) : State :=
  match e with
  | .fail cause detail addr => s.failCmd c cause detail addr
  | .walk va => s.push [.pageWalk (.l1 (s.coreOf c.wave), c.tenant) (BitVec.ofNat 64 va)]
  | e => s.engAsk e

/-- Lines of the scratchpad that the command has finished with become present (R51). -/
def State.freeDone (s : State) (c : Cmd) (done : List Nat) : State :=
  (s.freeLines c done).modCmd c.id fun x => { x with lines := x.lines.filter fun l => !done.contains l }

end Sys2Proof.Machine
end

