-- ==== Sys2Proof/Machine/Copy.lean ====
section
/-!
DEFINITION. The copy engine and the fabric commands (R346 to R351, R368 to R375): their issue, the parts they read and place line by
line or packet by packet, what they send beyond the chip, and their completion.
-/

namespace Sys2Proof.Machine

/-! ### Issue -/

/-- Words of a group of the leading lane. -/
def State.leadGroup (s : State) (b : VReg) (n : Nat) : List W32 :=
  (List.range n).map fun i => s.me.reg (b.val + i) (leading s.cur.mask)
def Cmd.w64 (c : Cmd) (i : Nat) : W64 := c.w (i + 1) ++ c.w i

/-- A copy or fabric command with its words; the completion address stands at word `at_`. -/
def State.moveCmd (s : State) (op : CmdOp) (c : VReg) (a : W64) (b : VReg) (n at_ : Nat) (f : Comp) : Cmd :=
  let l := leading s.cur.mask
  let x := { s.newCmd op false with c := s.me.reg (c.val + 1) l ++ s.me.reg c.val l, a := a, b := s.leadGroup b n, comp := f }
  { x with compAddr := x.w64 at_ }

/-- Address ends that name another rank. -/
def State.otherRank (s : State) (k : Nat) (ea : W64) : Bool :=
  bits ea 63 62 == 3 && bits ea 61 45 != (s.tenant (s.waveTenant k)).cur.jobRank.toNat

/-- Commands of the fabric engine stand still while it is frozen (R139). -/
def CmdOp.fabric : CmdOp → Bool
  | .putr | .getr | .atomr => true
  | _ => false

/-- Where the ends of a command may lie (R370, R373): its local ends, and its remote end. -/
def Cmd.place (c : Cmd) : Place :=
  match c.op with
  | .acopySys => .system
  | .acopyNear => .rank .near
  | .acopyPod => .rank .pod
  | _ => .chip
def Cmd.srcPlace (c : Cmd) : Place := if c.op = .getr then .rank .fab else c.place
def Cmd.dstPlace (c : Cmd) : Place := if c.op = .putr ∨ c.op = .atomr then .rank .fab else c.place

/-- An ATOMR operation by its number (R375). -/
def atomrOp (n : Nat) : Option AtomOp :=
  [AtomOp.add, .addF, .minS, .minW, .maxS, .maxW, .and, .or, .xor, .xchg, .cas][n]?

/-- Check 3: the descriptor words (R368, R373, R375). -/
def Cmd.moveOk (c : Cmd) : Bool :=
  match c.op with
  | .acopy | .acopySys | .acopyNear | .acopyPod | .afill => c.w 1 == 0
  | .acopy2d => c.w 6 == 0 && c.w 7 == 0 && decide ((c.w 0).toNat * (c.w 1).toNat < 2 ^ 32)
  | .agath | .ascat => c.w 6 == 0 && c.w 7 == 0 && decide ((c.w 0).toNat * (c.w 1).toNat < 2 ^ 32)
      && bits (c.w 2) 31 24 == 0 && bits (c.w 2) 1 0 == 0
  | .putr => c.w 1 == 0 && c.w 6 == 0 && c.w 7 == 0
  | .getr => c.w 1 == 0 && c.w 4 == 0 && c.w 5 == 0 && c.w 6 == 0 && c.w 7 == 0
  | .atomr =>
    let n := bits (c.w 0) 3 0
    let w := bits (c.w 0) 6 4
    c.w 1 == 0 && bits (c.w 0) 31 7 == 0 && decide (n ≤ 10) && (w == 2 || w == 3 || (w == 4 && n == 10)) && c.a.toNat % 16 == 0
      && (c.w64 6).toNat % 2 ^ w == 0
  | _ => true

/-- The address of a range's every unit in the place and with the rights its side needs (checks 6 and 7). -/
def State.side (s : State) (c : Cmd) (p : Place) (acc : Acc) (ea : W64) (n : Nat) : Check :=
  s.checkRange c.wave (leading c.mask) p acc ea n

/-- The named ends of a copy or fabric command that checks 6 and 7 look at: place, access, address, bytes. -/
def Cmd.ends (c : Cmd) : List (Place × Acc × W64 × Nat) :=
  let index := (Place.chip, Acc.read, BitVec.ofNat 64 (windowEa (bits (c.w 2) 23 0)), 4 * c.rows)
  let dst := if c.rows = 0 then [(c.dstPlace, Acc.write, c.c, 0)] else (List.range c.rows).map fun r => (c.dstPlace, Acc.write, c.dstRow r, c.rowb)
  let src := if c.rows = 0 then [(c.srcPlace, Acc.read, c.a, 0)] else (List.range c.rows).map fun r => (c.srcPlace, Acc.read, c.srcRow r, c.rowb)
  match c.op with
  | .atomr => (.chip, .read, c.a, 32) :: if c.w64 6 = 0 then [] else [(.chip, .write, c.w64 6, c.rowb)]
  | .agath => [(.chip, .write, c.c, c.rowb * c.rows), index]
  | .ascat => [(.chip, .read, c.a, c.rowb * c.rows), index]
  | .afill => dst
  | _ => dst ++ src

/-- Checks 3, 6, 7 and 8 of a copy or fabric command, its completion object resolved: the place of every end before the range of
any. -/
def State.moveChecks (s : State) (c : Cmd) : Except Stop Cmd := do
  let word := s.cur.word.setWidth 64
  let k := c.wave
  demand c.moveOk causeEngine 0x05 word
  let ctr := c.w64 4
  let far := if c.op = .getr then c.a else c.c
  demand (!c.op.fabric || bits far 63 62 == 3) causeEngine 0x0B far
  demand (!(s.otherRank k c.a && s.otherRank k c.c && (c.op == .acopyNear || c.op == .acopyPod))) causeEngine 0x0B c.c
  c.ends.forM fun (p, acc, ea, n) => s.checkPlace k (leading c.mask) p acc ea n
  if c.op = .atomr then
    match resolve s k (leading c.mask) c.c c.rowb .fab .atomic with
    | .miss va => .error (.walk va)
    | .err e => .error (.trap e.cause e.detail c.c)
    | .ok _ => pure ()
  c.ends.forM fun (p, acc, ea, n) => s.side c p acc ea n
  demand (!(c.op == .putr || c.op == .atomr) || ctr == 0 || (ctr.toNat % 16 == 0 && bits ctr 63 45 == bits far 63 45)) causeEngine 0x0C ctr
  let loc ← s.completion k (leading c.mask) c.comp c.compAddr
  let res := c.w64 6
  demand (!(if c.op = .atomr then
      overlap c.a.toNat 32 c.c.toNat c.rowb || (res != 0 && overlap c.a.toNat 32 res.toNat c.rowb)
    else if c.op = .agath ∨ c.op = .ascat then false
    else c.selfOverlap)) causeEngine 0x09 word
  -- packets to a remote rank are cut at 4,096 bytes of the target offset (R128)
  let ether := (c.op == .putr || c.op == .getr) && (match resolve s k (leading c.mask) far 1 .fab (if c.op = .getr then .read else .write) with
    | .ok r => (match r.target with
      | .remote .. => true
      | _ => false)
    | _ => false)
  let inChip := fun (p : Place) (acc : Acc) (ea : W64) (n : Nat) => (probes ea n).any fun x =>
    match resolve s k (leading c.mask) x 1 (p.scope x) acc with
    | .ok r => r.target.loc?.isSome
    | _ => false
  let farDst := c.op == .putr || c.op == .atomr || (match resolve s k (leading c.mask) c.c 1 (c.dstPlace.scope c.c) .write with
    | .ok r => r.target.beyond
    | _ => false)
  let onChip := c.op != .acopySys || loc.isSome || (List.range c.rows).any fun r =>
    inChip c.srcPlace .read (c.srcRow r) c.rowb || inChip c.dstPlace .write (c.dstRow r) c.rowb
  pure { c with onChip := onChip, farDst := farDst, compLoc := loc, compCnt := loc.isSome && countedAt s k (leading c.mask) c.compAddr, gran := if ether then 4096 else 128 }

def State.issueMove (s : State) (i : Instr) (c : State → Cmd) : Host.Outcome State Fault Refusal :=
  s.perform i false fun t =>
    match t.moveChecks (c t) with
    | .error e => .error (t.stop e)
    | .ok c => t.command c fun _ => .ok ()

def leadPairOf (s : State) (a : VReg) : W64 := s.me.reg (a.val + 1) (leading s.cur.mask) ++ s.me.reg a.val (leading s.cur.mask)

def execAcopy (c a b : VReg) (f : Comp) (s : State) : Host.Outcome State Fault Refusal :=
  s.issueMove (.acopy c a b f) fun t => t.moveCmd .acopy c (leadPairOf t a) b 4 2 f
def execAcopySys (c a b : VReg) (f : Comp) (s : State) : Host.Outcome State Fault Refusal :=
  s.issueMove (.acopySys c a b f) fun t => t.moveCmd .acopySys c (leadPairOf t a) b 4 2 f
def execAcopyNear (c a b : VReg) (f : Comp) (s : State) : Host.Outcome State Fault Refusal :=
  s.issueMove (.acopyNear c a b f) fun t => t.moveCmd .acopyNear c (leadPairOf t a) b 4 2 f
def execAcopyPod (c a b : VReg) (f : Comp) (s : State) : Host.Outcome State Fault Refusal :=
  s.issueMove (.acopyPod c a b f) fun t => t.moveCmd .acopyPod c (leadPairOf t a) b 4 2 f
def execAfill (c a b : VReg) (f : Comp) (s : State) : Host.Outcome State Fault Refusal :=
  s.issueMove (.afill c a b f) fun t => t.moveCmd .afill c ((t.me.reg a.val (leading t.cur.mask)).setWidth 64) b 4 2 f
def execAcopy2d (c a b : VReg) (f : Comp) (s : State) : Host.Outcome State Fault Refusal :=
  s.issueMove (.acopy2d c a b f) fun t => t.moveCmd .acopy2d c (leadPairOf t a) b 8 4 f
def execAgath (c a b : VReg) (f : Comp) (s : State) : Host.Outcome State Fault Refusal :=
  s.issueMove (.agath c a b f) fun t => t.moveCmd .agath c (leadPairOf t a) b 8 4 f
def execAscat (c a b : VReg) (f : Comp) (s : State) : Host.Outcome State Fault Refusal :=
  s.issueMove (.ascat c a b f) fun t => t.moveCmd .ascat c (leadPairOf t a) b 8 4 f
def execPutr (c a b : VReg) (f : Comp) (s : State) : Host.Outcome State Fault Refusal :=
  s.issueMove (.putr c a b f) fun t => t.moveCmd .putr c (leadPairOf t a) b 8 2 f
def execGetr (c a b : VReg) (f : Comp) (s : State) : Host.Outcome State Fault Refusal :=
  s.issueMove (.getr c a b f) fun t => t.moveCmd .getr c (leadPairOf t a) b 8 2 f
def execAtomr (c a b : VReg) (f : Comp) (s : State) : Host.Outcome State Fault Refusal :=
  s.issueMove (.atomr c a b f) fun t => t.moveCmd .atomr c (leadPairOf t a) b 8 2 f

/-! ### Ends beyond the chip -/

/-- The host line that a coherent byte needs and the cache lacks; a write needs it owned (R158). -/
def State.missingLine (s : State) (write : Bool) : FarTarget → Option Nat
  | .host pa true _ => if (s.hostLine? pa).any fun h => h.owned || !write then none else some (pa / 64 * 64)
  | _ => none
/-- A byte that travels in a message of its own: non-coherent host or pool memory, another rank. -/
def FarTarget.sent : FarTarget → Bool
  | .host _ coh _ => !coh
  | .pool .. | .pod .. | .remote .. => true
  | .chip _ => false
def FarTarget.hostByte? (s : State) : FarTarget → Option Byte
  | .host pa true _ => (s.hostLine? pa).map fun h => h.data.getD (pa % 64) 0
  | _ => none

/-- Line requests of an engine (R42, R43), which use up the back-invalidations made for them (R151); those that read at .chip or narrower go through the level-1 cache (R64). -/
def State.noteEngine (s : State) (c : Cmd) (ea : W64) (n : Nat) (sc : Scope) (acc : Acc) : State :=
  let ls := ((List.range n).filterMap fun i => match resolve (s.unspoiled c.wave) c.wave (leading c.mask) (ea + BitVec.ofNat 64 i) 1 sc acc with
    | .ok r => r.target.loc?.map fun l => (l.line, r.cnt)
    | _ => none).eraseDups
  let s := s.useBanks (ls.map (·.1))
  if acc.writes || decide (4 ≤ Scope.num sc) then (ls.filter (·.2)).foldl (fun s x => s.countLine x.1 acc.writes false) s
  else s.readLines c.core ls

/-- The waits of the chip bytes among the targets of a run, reads of poisoned lines included. -/
def State.chipReady (s : State) (c : Cmd) (write : Bool) (ea : W64) (ts : List FarTarget) : Except EngStop Unit :=
  let ls := ts.filterMap FarTarget.loc?
  match ts.zipIdx.find? fun (t, _) => !write && (t.loc?.any s.spoiledAt) with
  | some (_, i) => .error (.fail causeEngine 0x07 (ea + BitVec.ofNat 64 i))
  | none =>
    match ls.findSome? (s.engStall c write) with
    | some st => .error (.wait st)
    | none => if write && s.resBlocks none (sigOf (s.keysOf (ls.map Loc.line))) then .error (.wait .commit) else .ok ()

/-- A part waits for an answer from beyond the chip. -/
def State.awaitPart (s : State) (c : Cmd) (k : Nat) : State := s.modCmd c.id fun x => { x with waiting := x.waiting ++ [k] }
/-- The command's own address for a part. -/
def Cmd.partAddr (c : Cmd) (k : Nat) : W64 :=
  let (r, lo, _) := c.part k
  (if c.op = .getr then c.srcRow r else c.dstRow r) + BitVec.ofNat 64 lo
/-- A message of a part to a target whose link is up; else the command fails (R134, R144, R161). -/
def State.overLink (s : State) (c : Cmd) (k : Nat) (t : FarTarget) (f : State → State) : State :=
  match s.cut t with
  | some (cause, d) => s.failCmd c cause d (c.partAddr k)
  | none => f s
def State.askLine (s : State) (c : Cmd) (k pa : Nat) (own : Bool) : State :=
  s.overLink c k (.host pa true 4) fun s =>
    ((s.awaitPart c k).modCmd c.id fun x => { x with asked := (k, pa, own) :: x.asked.filter (·.1 != k) }).send (.copyLine c.id k pa own)

/-- The seal of a command that acts beyond the chip (R351), once; or the wait for room in the log. -/
def State.sealCmd (s : State) (c : Cmd) (addr : W64) : Except State State :=
  if c.sealed_ then .ok s
  else (s.logEngine c [sealEntry s c.wave addr]).map fun s => s.modCmd c.id fun x => { x with sealed_ := true }

/-- A packet of a remote operation (R126, R128); a group declared failed fails it (R135). -/
def State.sendRemote (s : State) (c : Cmd) (k : Nat) (t : FarTarget) (op len : Nat) (data : List Byte) : State :=
  match t with
  | .remote rank region off fabric pset =>
    let h := PktHdr.make op region off (s.tenant c.tenant).cur.jobRank.toNat len c.id (if c.op = .getr then 0 else c.w64 4)
    match s.sendPacket c.tenant { h := h, data := data, rank := rank, fabric := fabric, pset := pset, total := c.parts.length, cmd := c.id, part := k } with
    | none => s.failCmd c causeFabricFail 5 (if c.op = .getr then c.a else c.c)
    | some s => s.awaitPart c k
  | _ => s

/-! ### Parts -/

/-- The next request for source bytes of a part from address `ea` on, whose places are `ts`: the first byte not yet come from host, pool
or pod memory, as far as its 128-byte line reaches; or, of a remote rank, all of them. -/
def Cmd.nextPiece (c : Cmd) (k : Nat) (ea : W64) (ts : List FarTarget) : Option (Nat × Nat × FarTarget) :=
  let got := c.buf.find? (·.1 == k)
  let m := (got.map (·.2.1.length)).getD 0
  match ts.zipIdx.find? fun (t, i) => decide (m ≤ i) && t.sent with
  | none => none
  | some (t, i) =>
    match t with
    | .remote .. => if got.isSome then none else some (0, ts.length, t)
    | _ => some (i, min (ts.length - i) (128 - (ea.toNat + i) % 128), t)
/-- Data that come for a part join those that it has; bytes of other places before them count as zero there. -/
def Cmd.keep (c : Cmd) (k : Nat) (bs : List Byte) (pois : Bool) : List (Nat × List Byte × Bool) :=
  match c.buf.find? (·.1 == k) with
  | none => c.buf ++ [(k, bs, pois)]
  | some _ => c.buf.map fun (j, old, p) => if j = k then (j, old ++ bs, p || pois) else (j, old, p)
def State.padPart (s : State) (c : Cmd) (k i : Nat) : State :=
  let m := ((c.buf.find? (·.1 == k)).map (·.2.1.length)).getD 0
  if i ≤ m then s else s.modCmd c.id fun x => { x with buf := x.keep k (List.replicate (i - m) 0) false }

/-- The bytes of a part from its source, with whether some came from beyond the chip and whether they are poisoned; or the state in
which the command waits. -/
def State.sourceOf (s : State) (c : Cmd) (k : Nat) : Except State (List Byte × Bool × Bool) :=
  let (r, lo, hi) := c.part k
  let n := hi - lo
  let ea := c.srcRow r + BitVec.ofNat 64 lo
  if c.op = .afill then
    .ok ((List.range n).map fun i => (c.a.setWidth 32).extractLsb' (8 * ((c.dstRow r).toNat + lo + i) % 32) 8, false, false)
  else
    match s.engTargets c ea n (c.srcPlace.scope ea) .read with
    | .error e => .error (s.engHalt c e)
    | .ok ts =>
      match s.chipReady c false ea ts with
      | .error e => .error (s.engHalt c e)
      | .ok () =>
        match ts.findSome? fun t => (s.missingLine false t).filter fun pa => !c.poisoned.contains pa, c.nextPiece k ea ts with
        | some pa, _ => .error (s.askLine c k pa false)
        | none, some (i, len, t) =>
          if c.op.fabric && s.frozen then .error s
          else .error (match t with
            | .remote .. => s.sendRemote c k t 2 n []
            | _ => s.overLink c k t fun s => ((s.padPart c k i).awaitPart c k).send
                (.copyFar c.id k t [] false true len 0 c.parts.length (s.tenant c.tenant).podClock (s.portAttr true)))
        | none, none =>
          let got := c.buf.find? (·.1 == k)
          let data := (got.map (·.2.1)).getD []
          .ok (ts.zipIdx.map fun (t, i) =>
              match t.loc?, t.hostByte? s with
              | some l, _ => s.peek l
              | none, some b => b
              | none, none => data.getD i 0,
            ts.any FarTarget.beyond,
            (got.map (·.2.2)).getD false || ts.any fun t => (s.missingLine false t).any c.poisoned.contains)

/-- Bytes of a part that a higher-numbered row of the same command writes (R371). -/
def Cmd.shadowed (c : Cmd) (k i : Nat) : Bool :=
  match c.op with
  | .ascat | .acopy2d =>
    let (r, lo, _) := c.part k
    let a := c.dstRow r + BitVec.ofNat 64 (lo + i)
    (List.range c.rows).any fun q => r < q && decide ((a - c.dstRow q).toNat < c.rowb)
  | _ => false

/-- Scratchpad lines that a part writes. -/
def Cmd.partLines (s : State) (c : Cmd) (k : Nat) : List Nat :=
  let (r, lo, hi) := c.part k
  let a := c.dstRow r + BitVec.ofNat 64 lo
  ((List.range ((hi - lo + 127) / 128 + 1)).filterMap fun i =>
    scrLineOf (s.wg c.wg) c.core (a + BitVec.ofNat 64 (min (128 * i) (hi - lo - 1)))).eraseDups

/-- All parts done: a command ends, after its zero-length read if it wrote to non-coherent memory (R158). -/
def State.endParts (s : State) (c : Cmd) : State :=
  match s.cmd? c.id with
  | none => s
  | some x =>
    if !x.left.isEmpty then s
    else if x.owed ≠ 0 then
      x.owedTo.foldl (fun s d => s.send (.copyZero c.id d (s.portAttr true))) (s.modCmd c.id fun x => { x with zeros := x.owedTo.length })
    else s.push [.engineCommandComplete c.id]

/-- A part has been placed: its lines, pages and count (R51, R59, R132, R153). -/
def State.partDone (s : State) (c : Cmd) (k : Nat) (quiet : Bool) : State :=
  let (_, lo, hi) := c.part k
  let mine := c.partLines s k
  let s := s.modCmd c.id fun x => { x with left := x.left.erase k, waiting := if x.op = .agath ∨ x.op = .ascat then x.waiting else x.waiting.erase k,
                                           buf := x.buf.filter (·.1 != k), owed := if quiet then x.owed + (hi - lo) else x.owed }
  let rest := ((s.cmd? c.id).map (·.left)).getD []
  let done := mine.filter fun l => !(rest.any fun j => (c.partLines s j).contains l)
  let spoilt := ((s.cmd? c.id).map (·.spoilt)).getD []
  let s := done.foldl (fun s l => if c.fillsLine s l && !spoilt.contains l then s.modWg c.wg fun g => { g with spoiled := Tab.put false g.spoiled l false } else s) s
  let s := s.freeDone c (done.filter fun l => c.lines.contains l)
  let s := if quiet then s else s.countPlaced c (hi - lo)
  (s.endParts c).wakeAll

/-- The key of the scratchpad line of a place. -/
def Loc.scrLine : Loc → Option Nat
  | .scr _ o => some (o / 128)
  | _ => none
/-- Poisoned data poison what they are placed in (R41, R55). -/
def State.poisonPlaces (s : State) (ls : List Loc) : State :=
  ls.foldl (fun s l => match l with
    | .mem a => s.poisonGranule (a / 4096)
    | .scr g o => s.modWg g fun x => { x with spoiled := Tab.put false x.spoiled (o / 128) true }
    | _ => s) s

/-- Coherent host bytes written in the host-line cache (R158). -/
def State.hostStore (s : State) (xs : List (FarTarget × Byte)) : State :=
  xs.foldl (fun s (t, b) => match t with
    | .host pa true _ => { s with hostLines := s.hostLines.map fun h =>
        if h.addr == pa / 64 * 64 then { h with data := spliceAt h.data (pa % 64) [b], dirty := true } else h }
    | _ => s) s

/-- Pages of device memory among places (R153). -/
def memPages (ls : List Loc) : List Nat := (ls.filterMap fun l => match l with
  | .mem a => some (a / 4096)
  | _ => none).eraseDups
/-- Pages of device memory that an end of a part lies in. -/
def State.endPages (s : State) (c : Cmd) (k : Nat) (ea : W64) (p : Place) (acc : Acc) : List Nat :=
  let (_, lo, hi) := c.part k
  match s.engTargets c ea (hi - lo) (p.scope ea) acc with
  | .ok ts => memPages (ts.filterMap FarTarget.loc?)
  | .error _ => []
def State.sourcePages (s : State) (c : Cmd) (k : Nat) : List Nat :=
  let (r, lo, _) := c.part k
  if c.op = .afill then [] else s.endPages c k (c.srcRow r + BitVec.ofNat 64 lo) c.srcPlace .read
/-- A part of a command reads or writes a page of device memory. -/
def State.partOnPage (s : State) (c : Cmd) (k page : Nat) : Bool :=
  let (r, lo, _) := c.part k
  (s.endPages c k (c.dstRow r + BitVec.ofNat 64 lo) c.dstPlace .write ++ s.sourcePages c k).contains page
/-- A command that was moving bytes of a page whose bias flips goes on in that page alone (R153). -/
def State.pausedAt (s : State) (c : Cmd) (k : Nat) : Bool := s.flips.any fun f => f.movers.contains c.id && !s.partOnPage c k f.page
/-- The commands that are moving bytes of a page. -/
def State.moversOf (s : State) (page : Nat) : List Nat :=
  (s.cmds.filter fun c => c.pages.contains page && c.left.any fun k => s.partOnPage c k page).map (·.id)

/-- An arriving access at this device for a rank of a tenant (R27, R29, R129): the places of its bytes, or the failure and the virtual
address that met it; with each place, whether its page is counted (R42). -/
def inbound (s : State) (t region off n : Nat) (acc : Option Acc) : Except (Nat × Nat × W64) (List (Loc × Bool)) :=
  match regionOf s t region with
  | none => .error (causeRankRegion, 3, 0)
  | some r =>
    let va := r.base + off
    if r.len < off + n then .error (causeRankRegion, 4, BitVec.ofNat 64 va)
    else if acc.any fun a => !r.permits a then .error (causePermission, 6, BitVec.ofNat 64 va)
    else (List.range n).mapM fun i =>
      let a := va + i
      let e := match tlbFind s (.inbound 0) t a with
        | some e => Except.ok e
        | none => if a < 2 ^ 57 then walk s 0 t a else .error 0x30
      match e with
      | .error d => .error (causeNotPresent, d, BitVec.ofNat 64 a)
      | .ok e =>
        if 2 ≤ e.tgt.toNat then .error (causeNotPresent, 0x30, BitVec.ofNat 64 a)
        else if acc.any fun x => x.reads && !e.r then .error (causePermission, 1, BitVec.ofNat 64 a)
        else if acc.any fun x => x.writes && !e.w then .error (causePermission, 2, BitVec.ofNat 64 a)
        else .ok (.mem ((if e.tgt = 0 then 0 else tierBase) + e.pa + (a - e.va)), e.cnt)

/-- The translations of a run of bytes of a region fill the inbound TLB as an access arrives (R37). The spec does not say on which base
die an access arrives; the model takes die 0 (log entry 50). -/
def State.fillInbound (s : State) (t region off n : Nat) : State :=
  match regionOf s t region with
  | none => s
  | some r =>
    let va := r.base + off
    (List.range ((va % 4096 + n + 4095) / 4096)).foldl (fun s i =>
      let a := (va / 4096 + i) * 4096
      if a < 2 ^ 57 then s.fillTlb (.inbound 0) t a else s) s
/-- A target counter at this device counts (R131, R132): `n` bytes, or 1 at the last packet of an operation; false when it does not
resolve, which the tenant's fault record takes. -/
def State.targetCount (s : State) (t : Nat) (ctr : W64) (n : Nat) (last failed : Bool) : State × Bool :=
  if ctr = 0 then (s, true)
  else match inbound s t (bits ctr 44 40) (bits ctr 39 0) 16 none with
    | .ok ((.mem a, _) :: _) =>
      let one := if last then 1 else 0
      (s.atHome (.mem a) (if failed then .countFail n one 0x0A 0x06 else .count n one), true)
    | .error (cause, d, va) => (s.contextFault t false cause d 0 0 va, false)
    | _ => (s, true)
/-- A packet or request of a put of `total` has been placed at this target: whether it is the last (R132). -/
def State.putStep (s : State) (t src tag total : Nat) : State × Bool :=
  let n := (((s.tenant t).putParts.find? fun p => p.1 == src && p.2.1 == tag).map (·.2.2)).getD 0 + 1
  let rest := (s.tenant t).putParts.filter fun p => !(p.1 == src && p.2.1 == tag)
  (s.modTenant t fun x => { x with putParts := if total ≤ n then rest else rest ++ [(src, tag, n)] }, decide (total ≤ n))

/-- Engine placements and reads of auditable workgroups enter their audit (R427, R428). -/
def State.auditMove (s : State) (c : Cmd) (ea : W64) (bs : List Byte) (n : Nat) : State :=
  if s.auditable c.wg then (s.audit c.wg ea bs).modWg c.wg fun g => { g with readBytes := g.readBytes + n } else s

/-- The bytes of a part placed at its destination, or sent there. -/
def State.placePart (s : State) (c : Cmd) (k : Nat) (bs : List Byte) (far pois : Bool) : State :=
  let (r, lo, hi) := c.part k
  let n := hi - lo
  let ea := c.dstRow r + BitVec.ofNat 64 lo
  match s.engTargets c ea n (c.dstPlace.scope ea) .write with
  | .error e => s.engHalt c e
  | .ok ts =>
    match s.chipReady c true ea ts, ts.findSome? (s.missingLine true) with
    | .error e, _ => s.engHalt c e
    | .ok (), some pa => s.askLine c k pa true
    | .ok (), none =>
      let own := (ts.zip bs).zipIdx.filter fun (_, i) => !c.shadowed k i
      let here := own.filterMap fun ((t, b), _) => t.loc?.map fun l => (l, b)
      let ls := here.map (·.1)
      let msg := ts.find? FarTarget.sent
      if msg.isSome && c.op.fabric && s.frozen then s
      else
      let line := BitVec.ofNat 64 (ea.toNat / 128 * 128)
      let es := if here.isEmpty then [] else if far then farPlaceEntries s c ls (here.map (·.2)) else engEntries s c line ls
      match s.logEngine c es with
      | .error t => t
      | .ok s =>
        match if ts.any FarTarget.beyond || c.op == .putr then s.sealCmd c ea else .ok s with
        | .error t => t
        | .ok s =>
          let s := ((s.keepStale c.tenant (s.aliasVa c.tenant ea) ls).engStore ls (here.map (·.2))).hostStore (own.map (·.1))
          let s := s.auditMove c ea bs n
          let s := if pois then (s.poisonPlaces ls).modCmd c.id fun x => { x with spoilt := (x.spoilt ++ ls.filterMap Loc.scrLine).eraseDups } else s
          let from_ := c.srcRow r + BitVec.ofNat 64 lo
          let s := if c.op = .afill then s else s.noteEngine c from_ n (c.srcPlace.scope from_) .read
          let s := s.noteEngine c ea n (c.dstPlace.scope ea) .write
          let s := s.modCmd c.id fun x => { x with pages := (x.pages ++ memPages ls ++ s.sourcePages c k).eraseDups }
          let ctr := if c.op = .putr then c.w64 4 else 0
          match msg with
          | some (.remote a b d e f) => s.sendRemote c k (.remote a b d e f) 1 n bs
          | some (.pod l b a) => s.overLink c k (.pod l b a) fun s => (s.awaitPart c k).send
              (.copyFar c.id k (.pod l b a) bs pois false n ctr c.parts.length (s.tenant c.tenant).podClock (s.portAttr true))
          | some t => s.overLink c k t fun s =>
            ((s.send (.copyFar c.id k t bs pois false n 0 c.parts.length 0 (s.portAttr true))).modCmd c.id fun x =>
              { x with owedTo := (x.owedTo ++ t.dest?.toList).eraseDups }).partDone c k true
          | none =>
            let (s, ok) := s.targetCount c.tenant ctr n (c.left.length == 1) false
            if ok then s.partDone c k false else s.failCmd c causeRankRegion 6 c.c

/-- AGATH and ASCAT first read their index vector; ASCAT returns the places of the lines it will not write (R51, R369). -/
def State.readIndices (s : State) (c : Cmd) : State :=
  match s.engRead c (BitVec.ofNat 64 (windowEa (bits (c.w 2) 23 0))) (4 * c.rows) with
  | .error e => s.engHalt c e
  | .ok ls =>
    let c' := { c with waiting := (List.range c.rows).map fun i => leNat (((ls.drop (4 * i)).take 4).map s.peek) }
    let c' := { c' with left := c'.parts }
    let s := (s.useBanks ls).modCmd c.id fun x => { x with waiting := c'.waiting, left := c'.left }
    if c.op = .ascat then
      let used := (c'.left.flatMap (c'.partLines s)).eraseDups
      (s.freeDone c (c.lines.filter fun l => !used.contains l)).wakeAll
    else s

/-- The width of an operation on `n` bytes. -/
def widthOf (n : Nat) : Width := if n = 16 then .b16 else if n = 8 then .b8 else if n = 4 then .b4 else if n = 2 then .b2 else .b1

/-- The remote atomic of ATOMR (R375): its operands read, then sent, or performed here for the own rank. -/
def State.runAtomr (s : State) (c : Cmd) : State :=
  let n := c.rowb
  match s.engRead c c.a 32, resolve s c.wave (leading c.mask) c.c n .fab .atomic, atomrOp (bits (c.w 0) 3 0) with
  | .error e, _, _ => s.engHalt c e
  | .ok _, .miss va, _ => s.engHalt c (.walk va)
  | .ok _, .err e, _ => s.failCmd c causeEngine (if e.cause = causePoison then 0x07 else 0x08) c.c
  | .ok ls, .ok r, some op =>
    if s.frozen then s
    else
      let s := s.useBanks ls
      let bs := ls.map s.peek
      let x := leNat (bs.take n)
      let y := leNat ((bs.drop 16).take n)
      match r.target with
      | .chip at_ =>
        match s.chipReady c true c.c [r.target], (if c.w64 6 = 0 then .ok [] else s.engWrite c (c.w64 6) n) with
        | .error e, _ => s.engHalt c e
        | _, .error e => s.engHalt c e
        | .ok (), .ok out =>
          let old := at_.map s.peek
          let new := atomVal op (8 * n) (leNat old) x y
          let lineOf := fun (a : W64) => BitVec.ofNat 64 (a.toNat / 128 * 128)
          let es := (if new.isSome then engEntries s c (lineOf c.c) at_ else []) ++ if out.isEmpty then [] else engEntries s c (lineOf (c.w64 6)) out
          match (s.logEngine c es).bind fun s => s.sealCmd c c.c with
          | .error t => t
          | .ok s =>
            let s := match new with
              | some v => (s.keepStale c.tenant (s.aliasVa c.tenant c.c) at_).engStore at_ (leBytes n v)
              | none => s
            let s := (s.keepStale c.tenant (s.aliasVa c.tenant (c.w64 6)) out).engStore out old
            let s := if r.cnt then s.countLine ((at_.headD (.mem 0)).line) true false else s
            let s := if c.w64 6 != 0 && countedAt s c.wave (leading c.mask) (c.w64 6) then s.countLine ((out.headD (.mem 0)).line) true false else s
            let (s, ok) := s.targetCount c.tenant (c.w64 4) n true false
            if ok then s.partDone c 0 false else s.failCmd c causeRankRegion 6 c.c
      | .remote a b d e f =>
        match s.sealCmd c c.c with
        | .error t => t
        | .ok s => s.sendRemote c 0 (.remote a b d e f) 4 n (atomicOperands op (widthOf n) (BitVec.ofNat 128 x) (BitVec.ofNat 128 y))
      | t =>
        match s.sealCmd c c.c with
        | .error t => t
        | .ok s => s.overLink c 0 t fun s => (s.awaitPart c 0).send
            (.copyAtomic c.id t op n (BitVec.ofNat 128 x) (BitVec.ofNat 128 y) (c.w64 4) (s.tenant c.tenant).podClock (s.portAttr true))
  | _, _, none => s

/-- One part of a running command is read and placed (R106), where it can be. -/
def State.placeLine (s : State) (id k : Nat) : State :=
  match s.cmd? id with
  | none => s
  | some c =>
    let indexed := c.op == .agath || c.op == .ascat
    if !c.forked || c.op.isMatrix then s
    else if indexed && c.waiting.isEmpty then s.readIndices c
    else if !c.left.contains k || (!indexed && c.waiting.contains k) || s.pausedAt c k then s
    else if c.op == .atomr then s.runAtomr c
    else match s.sourceOf c k with
      | .error t => t
      | .ok (bs, far, pois) => s.placePart c k bs far pois

/-- The end of a command all of whose parts are placed (R349); it outlives its wave and may let its workgroup or launch end. -/
def execEngineCommandComplete (cmd : Nat) (s : State) : Host.Outcome State Fault Refusal :=
  match s.cmd? cmd with
  | none => s.done
  | some c =>
    if c.op.isMatrix || !c.left.isEmpty || c.owed ≠ 0 then s.done else ((s.finishCmd c).push [.workgroupRetire c.wg]).wakeAll.done

/-- A command fails for a cause met in execution (R350), an uncorrectable error (R418) or a failure beyond the chip. -/
def execEngineCommandFail (cmd cause detail : Nat) (addr : W64) (s : State) : Host.Outcome State Fault Refusal :=
  match s.cmd? cmd with
  | none => s.done
  | some c => if c.op.isMatrix then s.done else ((s.failCmd c cause detail addr).push [.workgroupRetire c.wg]).done

/-! ### Answers from beyond the chip -/

/-- Data for a part (host lines, non-coherent reads, pod reads, gets), then the part is tried again; a failure ends the command. -/
def State.partData (s : State) (id k : Nat) (bs : List Byte) (pois : Bool) : State :=
  match s.cmd? id with
  | none => s
  | some c =>
    if !c.waiting.contains k then s
    else (s.modCmd id fun x => { x with waiting := x.waiting.erase k, buf := x.keep k bs pois }).placeLine id k
/-- A host line for a part. -/
def State.partLine (s : State) (id k pa : Nat) (bs : List Byte) (own : Bool) : State :=
  match s.cmd? id with
  | none => s
  | some c =>
    if !c.waiting.contains k then s
    else ((s.modCmd id fun x => { x with waiting := x.waiting.erase k, asked := x.asked.filter (·.1 != k) }).hostInstall pa bs own).placeLine id k
/-- A host line for a part comes poisoned (R41): as a source it poisons what the part is placed in. DESIGN CHOICE: a line to be owned is
owned with zero bytes, which the part's own replace (log entry 56). -/
def State.partPoison (s : State) (id k pa : Nat) (own : Bool) : State :=
  if own then s.partLine id k pa [] own
  else match s.cmd? id with
    | none => s
    | some c =>
      if !c.waiting.contains k then s
      else (s.modCmd id fun x => { x with waiting := x.waiting.erase k, asked := x.asked.filter (·.1 != k), poisoned := pa :: x.poisoned }).placeLine id k
/-- A part sent beyond the chip has been performed there. -/
def State.partAck (s : State) (id k : Nat) : State :=
  match s.cmd? id with
  | none => s
  | some c => if c.waiting.contains k && c.left.contains k then s.partDone c k false else s
/-- A far failure of a part (R134, R161, R350), at the command's address for it. -/
def State.partFail (s : State) (id k cause detail : Nat) : State :=
  match s.cmd? id with
  | none => s
  | some c =>
    if !c.waiting.contains k then s
    else s.failCmd c cause detail (c.partAddr k)
/-- A zero-length read after a command's non-coherent writes has completed (R158); with the last of them the bytes are reported. -/
def State.zeroDone (s : State) (id : Nat) : State :=
  match s.cmd? id with
  | none => s
  | some c =>
    if c.owed = 0 then s
    else if 1 < c.zeros then s.modCmd id fun x => { x with zeros := x.zeros - 1 }
    else ((s.modCmd id fun x => { x with owed := 0 }).countPlaced c c.owed).push [.engineCommandComplete id]
/-- The old value of an ATOMR placed at its result address (R375); one that poison kept from being performed poisons it (R136). -/
def State.atomrDone (s : State) (id : Nat) (old : List Byte) (pois : Bool) : State :=
  match s.cmd? id with
  | none => s
  | some c =>
    if !c.waiting.contains 0 || c.op != .atomr then s
    else if c.w64 6 = 0 then s.partDone c 0 false
    else match s.engLocs c (c.w64 6) c.rowb .write with
      | .error e => s.engHalt c e
      | .ok ls =>
        let s := (farPlaceEntries s c ls old).foldl (fun s e => s.logForce c.tenant [e]) s
        let s := if pois then s.poisonPlaces ls else s.engStore ls old
        s.partDone c 0 false

end Sys2Proof.Machine
end

