-- ==== Sys2Proof/Machine/Fabric.lean ====
section
/-!
DEFINITION. Remote memory over Ultra Ethernet (R123 to R136): packets that arrive for this device as a target and the pieces in which their
bytes are placed, the answers to its own packets, timeouts and path failure, groups declared failed, launch records from other ranks (R379).
-/

namespace Sys2Proof.Machine

/-! ### At the target -/

/-- An answer to a packet (R128): its header back with ERR and POIS. -/
def State.reply (s : State) (t seq op : Nat) (h : PktHdr) (err pois : Bool) (data : List Byte) : State :=
  s.send (.response t h.src seq (h.answer op err pois) data)

/-- What an access that comes from outside waits for at its places. -/
def State.arrivalStall (s : State) (write : Bool) (ls : List Loc) : Option Stall :=
  match ls.findSome? fun l => if s.pendingLine l.line then some .commit else s.memWait write l with
  | some st => some st
  | none => if write && s.resBlocks none (sigOf (s.keysOf (ls.map Loc.line))) then some .commit else none

/-- A full log in stall mode refuses a change of `n` bytes from outside (R450). -/
def State.logRefuses (s : State) (ls : List Loc) (n : Nat) : Option Nat :=
  (ls.head?.map s.loggers).bind fun ts => ts.find? fun t =>
    (s.tenant t).logMode == 0 && decide ((s.tenant t).logFree < 2 * ((n + 15) / 16 + 6))

/-- Counted line requests of an arriving access (R43). -/
def State.countArrival (s : State) (ls : List (Loc × Bool)) (write : Bool) : State :=
  (((ls.filter (·.2)).map (·.1.line)).eraseDups).foldl (fun s l => s.countLine l write true) s

def anyPoisoned (s : State) (ls : List Loc) : Bool := (memPages ls).any fun p => bitmapBit s s.poisonBase.toNat p

def ArrWork.acc : ArrWork → Acc
  | .put _ => .write
  | .get => .read
  | .atomic .. => .atomic
/-- The operation of an answer. -/
def ArrWork.answerOp : ArrWork → Nat
  | .put _ => 6
  | .get => 3
  | .atomic .. => 5
/-- The pieces of an arriving access, numbered from 0: a put and a get go line by line (R106), an atomic is one step. -/
def arrivalPieces (w : ArrWork) (ls : List Loc) (data : List Byte) : List (Nat × List Loc × List Byte) :=
  match w with
  | .atomic .. => [(0, ls, [])]
  | _ =>
    let xs := ls.zip (data ++ List.replicate (ls.length - data.length) 0)
    (((ls.map Loc.line).eraseDups).zipIdx).map fun (l, i) =>
      let mine := xs.filter fun x => x.1.line == l
      (i, mine.map (·.1), mine.map (·.2))

/-- A packet that fails at the target (R29, R131): the tenant's fault record, its counter given what it owes, ERR in the answer, which a
duplicate gets again. -/
def State.refuseArrival (s : State) (t : Nat) (h : PktHdr) (seq : Nat) (w : ArrWork) (cause detail : Nat) (va : W64) : State :=
  let s := s.contextFault t false cause detail 0 0 va
  let s := match w with
    | .put total =>
      let (s, last) := s.putStep t h.src h.otag total
      (s.targetCount t h.counter h.len last true).1
    | .atomic .. => (s.targetCount t h.counter h.len true true).1
    | .get => s
  let s := if w == .get then s else s.modTenant t fun x => { x with placedSeq := x.placedSeq ++ [(h.src, seq, true)] }
  (s.reply t seq w.answerOp h true false (if w matches .atomic .. then List.replicate h.len 0 else [])).wakeAll

/-- A packet placed or executed before: its answer is sent again (R129), an atomic's as it was kept. -/
def State.answerAgain (s : State) (t : Nat) (h : PktHdr) (seq : Nat) (w : ArrWork) (err : Bool) : State :=
  match w with
  | .atomic .. =>
    (match (s.tenant t).atomKept.find? fun a => a.1 == h.src && a.2.1 == h.otag with
      | some (_, _, old, pois) => s.reply t seq 5 h err pois (leBytes h.len old.toNat)
      | none => if err then s.reply t seq 5 h true false (List.replicate h.len 0) else s)
  | w => s.reply t seq w.answerOp h err false []

/-- A request of a remote operation arrives (R29, R127 to R129): dropped while the engine is frozen (R139), when its header is not one, when it
is a duplicate in work, or when a full log in stall mode takes no change (R450); else its pieces begin. -/
def State.packetArrives (s : State) (t : Nat) (h : PktHdr) (seq op : Nat) (w : ArrWork) (data : List Byte) : State :=
  if s.frozen || !h.ok op || s.arrivals.any (fun a => a.tenant == t && a.h.src == h.src && a.seq == seq) then s
  else match (s.tenant t).placedSeq.find? fun p => p.1 == h.src && p.2.1 == seq with
  | some p => s.answerAgain t h seq w p.2.2
  | none =>
    let s := s.fillInbound t h.region h.offset h.len
    match inbound s t h.region h.offset h.len (some w.acc) with
    | .error (cause, d, va) => s.refuseArrival t h seq w cause d va
    | .ok ls =>
      let places := ls.map (·.1)
      match (if w.acc.writes then s.logRefuses places h.len else none) with
      | some u => s.interrupt u 2
      | none =>
        { (s.countArrival ls w.acc.writes) with
          nextId := s.nextId + 1,
          arrivals := s.arrivals ++ [{ id := s.nextId, tenant := t, h := h, seq := seq, work := w, left := arrivalPieces w places data,
                                       uncounted := h.tc && (w matches .put _) }] }

def State.modArrival (s : State) (id : Nat) (f : Arrival → Arrival) : State :=
  { s with arrivals := s.arrivals.map fun a => if a.id = id then f a else a }
/-- An arrival all of whose steps are done is answered (R129). -/
def State.endArrival (s : State) (id : Nat) : State :=
  match s.arrivals.find? (·.id == id) with
  | none => s
  | some a =>
    if !a.left.isEmpty || a.uncounted then s
    else
      let s := { s with arrivals := s.arrivals.filter (·.id != id) }
      let data := ((List.range a.got.length).filterMap fun i => (a.got.find? (·.1 == i)).map (·.2)).flatten
      match a.work with
      | .get => (s.reply a.tenant a.seq 3 a.h a.err a.pois data).wakeAll
      | .put _ =>
        ((s.modTenant a.tenant fun x => { x with placedSeq := x.placedSeq ++ [(a.h.src, a.seq, a.err)] }).reply a.tenant a.seq 6 a.h a.err false []).wakeAll
      | .atomic .. =>
        ((s.modTenant a.tenant fun x => { x with
            placedSeq := x.placedSeq ++ [(a.h.src, a.seq, a.err)],
            atomKept := x.atomKept ++ [(a.h.src, a.h.otag, BitVec.ofNat 128 (leNat data), a.pois)] }).reply a.tenant a.seq 5 a.h a.err a.pois data).wakeAll

/-- The piece of an arrival that has come about: placed, read, or executed (R129, R130, R136). DESIGN CHOICE: a put into a granule that is
poisoned already is placed and answered without ERR (log entry 12). -/
def State.arrivalStep (s : State) (a : Arrival) (k : Nat) (ls : List Loc) (bs : List Byte) : State :=
  let s := s.modArrival a.id fun x => { x with left := x.left.filter (·.1 != k) }
  match a.work with
  | .put _ =>
    let s := ((pieces (ls.zip bs)).foldl (fun s (l, b) => s.placeOutside l b) s).invUse ls
    if a.h.pois then s.poisonPlaces ls else s
  | .get => (s.invUse ls).modArrival a.id fun x => { x with pois := x.pois || anyPoisoned s ls, got := x.got ++ [(k, ls.map s.peek)] }
  | .atomic op _ x y =>
    let n := ls.length
    let s := s.invUse ls
    -- a request that carries poison poisons its granule as a put does (R136)
    if anyPoisoned s ls then s.modArrival a.id fun z => { z with pois := true, got := [(0, List.replicate n 0)] }
    else if a.h.pois then (s.poisonPlaces ls).modArrival a.id fun z => { z with pois := true, got := [(0, List.replicate n 0)] }
    else
      let old := ls.map s.peek
      let s := match atomVal op (8 * n) (leNat old) (x.toNat % 2 ^ (8 * n)) (y.toNat % 2 ^ (8 * n)) with
        | some v => (pieces (ls.zip (leBytes n v))).foldl (fun (s : State) (q, b) => s.placeOutside q b) s
        | none => s
      let (s, ok) := s.targetCount a.tenant a.h.counter n true false
      s.modArrival a.id fun z => { z with err := !ok, got := [(0, old)] }
/-- The counter step of a put packet, apart from its placements (R132, R133). -/
def State.arrivalCount (s : State) (a : Arrival) : State :=
  match a.work with
  | .put total =>
    let (s, last) := s.putStep a.tenant a.h.src a.h.otag total
    let (s, ok) := s.targetCount a.tenant a.h.counter a.h.len last false
    s.modArrival a.id fun x => { x with uncounted := false, err := x.err || !ok }
  | _ => s.modArrival a.id fun x => { x with uncounted := false }
/-- A step of an arrival: of the piece with a number, or with a number that no piece has its counter step. -/
def State.placeArrival (s : State) (id k : Nat) : State :=
  match s.arrivals.find? (·.id == id) with
  | none => s
  | some a =>
    if s.frozen then s
    else match a.left.find? (·.1 == k) with
    | some (_, ls, bs) =>
      (match s.arrivalStall a.work.acc.writes ls with
        | some st => s.askFor st
        | none => (s.arrivalStep a k ls bs).endArrival id)
    | none => if k = 4096 && a.uncounted then (s.arrivalCount a).endArrival id else s
/-- The numbers of the steps that an arrival has still to make. -/
def Arrival.steps (a : Arrival) : List Nat := a.left.map (·.1) ++ if a.uncounted then [4096] else []

/-- A part of a running command, or of an arriving packet, is placed (R106, R129). -/
def execEngineLinePlace (cmd line : Nat) (s : State) : Host.Outcome State Fault Refusal :=
  (match s.cmd? cmd with
    | some _ => s.placeLine cmd line
    | none => s.placeArrival cmd line).done

def execPutPacket (tenant : Nat) (h : PktHdr) (seq : Nat) (data : PutData) (s : State) : Host.Outcome State Fault Refusal :=
  (if data.bytes.length = h.len then s.packetArrives tenant h seq 1 (.put data.total) data.bytes else s).done
def execGetRequest (tenant : Nat) (h : PktHdr) (seq : Nat) (s : State) : Host.Outcome State Fault Refusal :=
  (s.packetArrives tenant h seq 2 .get []).done
def execAtomicRequest (tenant : Nat) (h : PktHdr) (seq : Nat) (op : AtomOp) (l : Width) (x y : BitVec 128) (s : State) :
    Host.Outcome State Fault Refusal :=
  (if h.len = l.bytes ∧ h.offset % l.bytes = 0 then s.packetArrives tenant h seq 4 (.atomic op l x y) [] else s).done

/-! ### At the initiator -/

/-- What an answer says of an operation: a target error (R29), poison (R136), or success. -/
def answerOf (h : PktHdr) (ok : FarReply) : FarReply :=
  if h.err then .fail causeRankRegion 6 else if h.pois then .fail causePoison 3 else ok
/-- The lane of an ordinary operation that a packet carried is answered (R79, R123). -/
def State.laneReply (s : State) (p : Packet) (r : FarReply) : State :=
  s.answer p.wave (fun f => f.tag == p.h.otag) fun s f => (s, { f with reply := some r })
/-- The part of a command that a packet carried fails at its target (R29, R350). -/
def State.packetFail (s : State) (p : Packet) : State := s.partFail p.cmd p.part causeRankRegion 6

/-- An answer of the fabric to a packet of this device, with what it makes of a packet that it finishes; dropped while the engine is frozen
(R139) or when its header is not one. -/
def State.answered (s : State) (t : Nat) (h : PktHdr) (op : Nat) (a : AnswerTo) (f : State → Packet → State) : State :=
  if s.frozen || !h.ok op then s
  else match s.ackPacket t h.otag a.seq a.echo with
    | (s, some p) => f s p
    | (s, none) => s

/-- An acknowledgement: of a put packet of this device (R132), or by another rank of an atomic response kept here (R129). -/
def execAcknowledgement (tenant : Nat) (h : PktHdr) (answer : AnswerTo) (s : State) : Host.Outcome State Fault Refusal :=
  if h.src = (s.tenant tenant).cur.jobRank.toNat then
    (s.answered tenant h 6 answer fun s p =>
      if p.cmd = 0 then s.laneReply p (answerOf h .done)
      else if h.err then s.packetFail p else s.partAck p.cmd p.part).done
  else if s.frozen || !h.ok 6 then s.done
  else (s.modTenant tenant fun x => { x with atomKept := x.atomKept.filter fun a => !(a.1 == h.src && a.2.1 == h.otag) }).done

def execGetResponse (tenant : Nat) (h : PktHdr) (data : AnswerTo × List Byte) (s : State) : Host.Outcome State Fault Refusal :=
  (s.answered tenant h 3 data.1 fun s p =>
    if p.cmd = 0 then s.laneReply p (answerOf h (.data data.2 0 0))
    else if h.err then s.packetFail p else s.partData p.cmd p.part data.2 h.pois).done
/-- The response of an atomic; it is acknowledged in its turn (R129). -/
def execAtomicResponse (tenant : Nat) (h : PktHdr) (old : AnswerTo × BitVec 128) (s : State) : Host.Outcome State Fault Refusal :=
  (s.answered tenant h 5 old.1 fun s p =>
    let s := s.send (.response tenant p.rank old.1.seq (h.answer 6 false false) [])
    if p.cmd = 0 then s.laneReply p (answerOf h (.data (leBytes h.len old.2.toNat) 0 0))
    else if h.err then s.packetFail p else s.atomrDone p.cmd (leBytes h.len old.2.toNat) h.pois).done

/-! ### Timeouts and failure -/

/-- A packet is sent again on the next path other than the lost one (R126); three timeouts in a row fail a path. -/
def execRetransmissionTimeout (tenant group pkt : Nat) (s : State) : Host.Outcome State Fault Refusal :=
  (s.retransmit tenant group pkt).done

/-- A failed path is tried again 1 ms later (R126). -/
def execPathProbe (tenant group path : Nat) (s : State) : Host.Outcome State Fault Refusal :=
  (s.modGroup tenant group fun g =>
    if s.time < Tab.get 0 g.failedAt path + 1000 * microsecond then g
    else { g with failedPaths := g.failedPaths &&& ~~~(1#64 <<< path), timeouts := Tab.put 0 g.timeouts path 0 }).done

/-- A group without progress for its path-set timeout is declared failed: every operation in flight to it fails, oldest first (R134,
R135). -/
def State.failGroup (s : State) (t i : Nat) : State :=
  match (s.tenant t).groups[i]? with
  | none => s
  | some g =>
    if !s.stuck t g then s
    else
      let ps := sorted (fun (a b : Packet) => decide (a.h.otag < b.h.otag) || (a.h.otag == b.h.otag && decide (a.seq < b.seq))) (g.unacked ++ g.queue)
      let s := s.modGroup t i fun g => { g with failed := true, unacked := [], queue := [] }
      ps.foldl (fun (s : State) p =>
        if p.cmd = 0 then s.laneReply p (.fail causeFabricFail 1) else s.partFail p.cmd p.part causeFabricFail 1) s
def execGroupProgressTimeout (tenant group : Nat) (s : State) : Host.Outcome State Fault Refusal := (s.failGroup tenant group).done

/-- A launch record of another rank appended to a queue here, its status returned (R379) by the port it came through; one that the fabric
brings is dropped while the engine is frozen (R139). -/
def execRemoteLaunchRecord (tenant queue : Nat) (rec : List W64) (src : Nat) (s : State) : Host.Outcome State Fault Refusal :=
  let pod := match rankLookup s tenant src with
    | .ok leaf => !leaf.ether
    | .error _ => false
  if s.frozen && !pod then s.done
  else
    let r := s.appendRecord tenant queue rec
    (r.1.send (.launchReply src r.2 pod)).done

end Sys2Proof.Machine
end

