-- ==== Sys2Proof/Machine/Pod.lean ====
section
/-!
DEFINITION. Pod memory over UALink (R111 to R122, R494): the home directory and its service, recalls, the lines this device holds of
other homes, answers to its requests, and the loss of a link or of an owner.
-/

namespace Sys2Proof.Machine

/-! ### The home -/

def State.dirAt (s : State) (line : Nat) : DirEntry := Tab.get {} s.dir line
def State.modDir (s : State) (line : Nat) (f : DirEntry → DirEntry) : State := { s with dir := Tab.put {} s.dir line (f (s.dirAt line)) }

def PodWork.acc : PodWork → Acc
  | .read => .read
  | .own => .write
  | .home (.atomic _ _ _ _ red _) => if red then .red else .atomic
  | .home (.bytes ..) => .write

/-- Lease length of the home's tenant (R113, R115). -/
def Tenant.lease (t : Tenant) : Nat := bits t.cur.podCfg 47 32 + 1

/-- A response of this home: kind 0 read, 1 ownership, 2 atomic, 3 RED or bytes of a copy done, 4 error, 5 a line returned. -/
def State.podReply (s : State) (kind : Nat) (q : PodReq) (data : List Byte) (wts lend : Nat) (pois : Bool) : State :=
  s.send (.podReply kind q.src { tenant := q.tenant, line := q.line, src := s.accel, data := data, wts := wts, lend := lend,
                                 pc := (s.tenant q.tenant).podClock, pois := pois, wave := 0 })

def lineLocs (line : Nat) : List Loc := (List.range 128).map fun i => .mem (128 * line + i)

/-- The count at the target counter of a put or of an ATOMR that comes as a pod write (R132, R374), once what it places is placed, or when it
fails: whether the counter was found. -/
def State.podCount (s : State) (q : PodReq) (w : PodWork) (failed : Bool) : State × Bool :=
  match w with
  | .home (.atomic _ l _ _ _ ctr) => s.targetCount q.tenant ctr l.bytes true failed
  | .home (.bytes data ctr tag total) =>
    if ctr = 0 then (s, true)
    else
      let (s, last) := s.putStep q.tenant q.src tag total
      s.targetCount q.tenant ctr data.length last failed
  | _ => (s, true)

/-- The request at the head of a line is served, or waits (R115 to R119, R494). A read by the owner itself recalls nothing. The grant
of ownership takes its place among the home's own chunks as a write does (log entry 26). -/
def State.podServe (s : State) (line : Nat) (q : PodReq) (w : PodWork) : Except State State :=
  let e := s.dirAt line
  let places := lineLocs line
  let t := s.tenant q.tenant
  if s.poisoned (128 * line) then
    match w with
    | .read => .ok (s.podReply 0 q (places.map s.peek) e.wts e.lend true)
    | _ => .ok (s.podReply 4 q [] 0 0 true)
  else
    let plain := w == .read && e.owner == some q.src
    match (if plain then s.modDir line fun e => { e with owner := none } else s).arrivalStall w.acc.writes places with
    | some st => .error (s.engAsk (.wait st))
    | none =>
      match w with
      | .read =>
        let lend := max e.lend (max t.podClock q.pv + t.lease)
        .ok ((s.modDir line fun e => { e with lend := lend }).podReply 0 q (places.map s.peek) e.wts lend false)
      | .own =>
        let g := max t.podClock (max e.lend q.pv) + 1
        let s := (s.testPlace (.mem (128 * line))).modTenant q.tenant fun t => { t with podClock := g }
        .ok ((s.modDir line fun e => { e with wts := g, owner := some q.src }).podReply 1 q (places.map s.peek) g 0 false)
      | .home (.atomic op l x y red _) =>
        let n := l.bytes
        let at_ := 128 * line + q.byte
        if (s.logRefuses [.mem at_] n).isSome then .error s
        else
          let old := leNat (s.peekN (.mem at_) n)
          let s := s.modTenant q.tenant fun t => { t with podClock := max t.podClock q.pv }
          let s := match atomVal op (8 * n) old (x.toNat % 2 ^ (8 * n)) (y.toNat % 2 ^ (8 * n)) with
            | some v => s.placeOutside (.mem at_) (leBytes n v)
            | none => s
          let wts := (s.dirAt line).wts
          let (s, ok) := (s.invUse places).podCount q w false
          .ok (if ok then s.podReply (if red then 3 else 2) q (leBytes n old) wts 0 false else s.podReply 4 q [] 0 0 false)
      | .home (.bytes data _ _ _) =>
        let at_ := 128 * line + q.byte
        let bs := data.take (128 - q.byte)
        if bs.isEmpty then .ok (s.podReply 3 q [] e.wts 0 false)
        else if (s.logRefuses [.mem at_] bs.length).isSome then .error s
        else
          let s := s.modTenant q.tenant fun t => { t with podClock := max t.podClock q.pv }
          let s := s.placeOutside (.mem at_) bs
          let wts := (s.dirAt line).wts
          let (s, ok) := (s.invUse places).podCount q w false
          .ok (if ok then s.podReply 3 q [] wts 0 false else s.podReply 4 q [] 0 0 false)

/-- The line its owner returned is written at the home, which is HOME again (R116). -/
def State.podBack (s : State) (line : Nat) (r : PodRsp) : Except State State :=
  let e := s.dirAt line
  let clear := s.modDir line fun _ => {}
  match clear.arrivalStall true (lineLocs line) with
  | some st => .error (s.engAsk (.wait st))
  | none =>
    if (s.logRefuses [.mem (128 * line)] 128).isSome then .error s
    else
      let u := if s.poisoned (128 * line) then clear else clear.placeOutside (.mem (128 * line)) ((r.data ++ List.replicate 128 0).take 128)
      let u := if r.pois then u.poisonPlaces [.mem (128 * line)] else u
      let w := (u.tenant e.tenant).podClock + 1
      let u := (u.modTenant e.tenant fun t => { t with podClock := w }).modDir line fun _ =>
        { e with wts := w, owner := none, recalling := false, back := none }
      .ok (u.invUse (lineLocs line)).retryHome

/-- Waiting requests of a line in arrival order, as far as they can be served. -/
def State.podQueue (s : State) (line : Nat) : Nat → State
  | 0 => s
  | n + 1 =>
    match (s.dirAt line).waiting with
    | [] => s
    | (q, w) :: rest =>
      match s.podServe line q w with
      | .error t => t
      | .ok t => (t.modDir line fun e => { e with waiting := rest }).podQueue line n
def State.podService (s : State) (line : Nat) : State :=
  let e := s.dirAt line
  match e.back with
  | none => s.podQueue line e.waiting.length
  | some r =>
    match s.podBack line r with
    | .error t => t
    | .ok t => t.podQueue line e.waiting.length

/-- A request arrives at this home (R114, R119, R29): its entry is created, and it is served in its turn. -/
def State.podArrive (s : State) (q : PodReq) (w : PodWork) : State :=
  let s := (s.mergePc q.tenant q.pc).fillInbound q.tenant q.line.region (128 * q.line.line) 128
  match inbound s q.tenant q.line.region (128 * q.line.line) 128 (some w.acc) with
  | .error (cause, d, va) => (((s.contextFault q.tenant false cause d 0 0 va).podCount q w true).1.podReply 4 q [] 0 0 false).wakeAll
  | .ok ls =>
    match ls with
    | (.mem a, _) :: _ =>
      let line := a / 128
      let s := if (s.dirAt line).present then s
        else s.modDir line fun _ => { present := true, tenant := q.tenant, wts := (s.tenant q.tenant).podClock, name := q.line }
      let s := ((s.countArrival ls w.acc.writes).modDir line fun e => { e with waiting := e.waiting ++ [(q, w)] }).podService line
      match (s.dirAt line).waiting, w.acc.writes, s.logRefuses [.mem a] 16 with
      | _ :: _, true, some u => (s.interrupt u 2).wakeAll
      | _, _, _ => s.wakeAll
    | _ => s

/-- All lines with requests waiting or a returned line, tried again. -/
def State.retryPods (s : State) : State :=
  (s.dir.filter fun p => !p.2.waiting.isEmpty || p.2.back.isSome).foldl (fun s p => s.podService p.1) s

def execPodReadRequest (req : PodReq) (s : State) : Host.Outcome State Fault Refusal := (s.podArrive req .read).done
def execPodOwnershipRequest (req : PodReq) (s : State) : Host.Outcome State Fault Refusal := (s.podArrive req .own).done
def execPodAtomicRequest (req : PodReq) (work : PodOp) (s : State) : Host.Outcome State Fault Refusal := (s.podArrive req (.home work)).done

/-- The owner's answer to a recall, or its write-back, arrives (R116). -/
def execRecallResponse (rsp : PodRsp) (s : State) : Host.Outcome State Fault Refusal :=
  let s := s.mergePc rsp.tenant rsp.pc
  match s.dir.find? fun p => p.2.tenant == rsp.tenant && p.2.name == rsp.line && p.2.owner == some rsp.src with
  | none => s.done
  | some (line, _) => ((s.modDir line fun e => { e with back := some rsp }).podService line).wakeAll.done

/-! ### Lines held here -/

/-- An owned line goes back to its home with the device's clock. -/
def State.yieldLine (s : State) (t : Nat) (l : PodLine) (dst : Nat) : State :=
  match s.copy? t l with
  | none => s
  | some c =>
    if !c.owned then s
    else (s.dropCopy t l).podReply 5 { tenant := t, line := l, byte := 0, src := dst, pv := 0, pc := 0 } c.data c.wts 0 false

/-- An owner gives a line back unasked (R116); the rank table names its home's accelerator. -/
def execPodOwnerEvict (tenant : Nat) (line : PodLine) (s : State) : Host.Outcome State Fault Refusal :=
  match rankLookup s tenant line.rank with
  | .ok leaf => (s.yieldLine tenant line (bits leaf.fabric 9 0)).done
  | .error _ => s.done
def execLeasedCopyEviction (tenant : Nat) (line : PodLine) (s : State) : Host.Outcome State Fault Refusal :=
  match s.copy? tenant line with
  | none => s.done
  | some c => (if c.owned then s else s.dropCopy tenant line).done

def FarTarget.onLine (l : PodLine) : FarTarget → Option Nat
  | .pod m b _ => if m = l then some b else none
  | _ => none
def FarLane.podLoad (l : PodLine) (f : FarLane) : Bool := !f.op.writes && (f.target.onLine l).isSome
def FarLane.podStore (l : PodLine) (f : FarLane) : Bool :=
  match f.op with
  | .store .. => (f.target.onLine l).isSome
  | _ => false

/-- The ownership of a line is asked for and not yet granted. -/
def State.wantsLine (s : State) (t : Nat) (l : PodLine) : Bool :=
  s.waves.any fun p => (s.wg p.2.wg).tenant == t && p.2.posted.any fun f => f.podStore l && !f.held
/-- A recall reaches the owner, which gives the line back; one that comes before the grant of a line waits until the store that the line was
asked for is applied (R116, R119). -/
def execRecall (req : PodReq) (s : State) : Host.Outcome State Fault Refusal :=
  let s := s.mergePc req.tenant req.pc
  (if (s.copy? req.tenant req.line).any (·.owned) then s.yieldLine req.tenant req.line req.src
    else if s.wantsLine req.tenant req.line then { s with recalls := s.recalls ++ [req] }
    else s).done
/-- Recalls that waited for the device's own stores on a line. -/
def State.yieldRecalled (s : State) (t : Nat) (l : PodLine) : State :=
  let mine := s.recalls.filter fun q => q.tenant == t && q.line == l
  if mine.isEmpty then s
  else mine.foldl (fun s q => s.yieldLine t l q.src) { s with recalls := s.recalls.filter fun q => !(q.tenant == t && q.line == l) }

/-- An answer made once for each of a wave's operations that a test picks. -/
def State.answerAll (s : State) (k : Nat) (p : FarLane → Bool) (r : State → FarLane → State × FarLane) : State :=
  let w := s.wave k
  let n := ((if w.wait.kind = .far then w.wait.lanes else []).filter fun f => p f && f.reply.isNone).length + (w.posted.filter p).length
  (List.range n).foldl (fun s _ => s.answer k p r) s

/-- The response to a pod read (R115): the copy is installed unless a newer one, or the owned line, stands; loads take the data of
what stands. Poisoned data fail the loads and install nothing (R41, R494). -/
def State.podRead (s : State) (r : PodRsp) : State :=
  let s := s.mergePc r.tenant r.pc
  if r.pois then s.answerAll r.wave (FarLane.podLoad r.line) fun s f => (s, { f with reply := some (.fail causePoison 3) })
  else
    let fresh := match s.copy? r.tenant r.line with
      | some c => !c.owned && decide (c.wts ≤ r.wts)
      | none => true
    let s := if fresh then s.putCopy { tenant := r.tenant, line := r.line, data := r.data, wts := r.wts, lend := r.lend, owned := false } else s
    s.answerAll r.wave (FarLane.podLoad r.line) fun s f =>
      match s.copy? r.tenant r.line, f.target.onLine r.line with
      | some c, some b => (s, { f with reply := some (.data ((c.data.drop b).take f.op.bytes) c.wts 0) })
      | _, _ => (s, f)
def execPodReadResponse (rsp : PodRsp) (s : State) : Host.Outcome State Fault Refusal := (s.podRead rsp).done

/-- The grant of ownership (R116): the line installed, PV raised, the stores that wait for it applied; for poison they fail (R494). -/
def State.podGrant (s : State) (r : PodRsp) : State :=
  let s := s.mergePc r.tenant r.pc
  if r.pois then
    { (s.answerAll r.wave (FarLane.podStore r.line) fun s f => (s, { f with reply := some (.fail causePoison 3) })) with
      recalls := s.recalls.filter fun q => !(q.tenant == r.tenant && q.line == r.line) }
  else
    let s := (s.putCopy { tenant := r.tenant, line := r.line, data := r.data, wts := r.wts, lend := 0, owned := true }).raisePv r.wave r.wts
    let waves := (s.waves.filter fun (_, w) => (s.wg w.wg).tenant == r.tenant && w.posted.any (FarLane.podStore r.line)).map (·.1)
    (waves.foldl (fun s k => (s.raisePv k r.wts).answerAll k (FarLane.podStore r.line) fun s f =>
      match s.copy? r.tenant r.line, f.target.onLine r.line with
      | some c, some b => s.podPerform f c b
      | _, _ => (s, f)) s).yieldRecalled r.tenant r.line
def execPodOwnershipGrant (rsp : PodRsp) (s : State) : Host.Outcome State Fault Refusal := (s.podGrant rsp).done

/-- The acknowledgement of a pod write performed at its home, a RED (R112, R117). -/
def execPodWriteAck (wave stamp pc : Nat) (s : State) : Host.Outcome State Fault Refusal :=
  let s := (s.mergePc (s.waveTenant wave) (max pc stamp)).raisePv wave stamp
  (s.answer wave (fun f => match f.op, f.target with
    | .red .., .pod .. => true
    | _, _ => false) fun s f => (s, { f with reply := some .done })).done

/-- The pod clock ticks (R112). -/
def execPodClockTick (s : State) : Host.Outcome State Fault Refusal :=
  (s.tenants.foldl (fun s p => if p.2.loaded then s.modTenant p.1 fun t => { t with podClock := t.podClock + 1 } else s) s).done

/-! ### Answers to a wave's or a command's operations -/

def FarTarget.isPod : FarTarget → Bool
  | .pod .. => true
  | _ => false
def FarTarget.port : FarTarget → Bool
  | .host .. | .pool .. => true
  | _ => false

/-- Whether a part of a command waits for data of its source, and the end beyond the chip that it waits on. -/
def State.awaitsSource (s : State) (c : Cmd) (k : Nat) : Bool :=
  let (r, lo, hi) := c.part k
  let ea := c.srcRow r + BitVec.ofNat 64 lo
  c.op != .afill &&
    (match s.engTargets c ea (hi - lo) (c.srcPlace.scope ea) .read with
    | .ok ts => (c.nextPiece k ea ts).isSome || ts.any fun t => (s.missingLine false t).isSome
    | .error _ => false)
def State.partEnd (s : State) (c : Cmd) (k : Nat) : Option FarTarget :=
  let (r, lo, hi) := c.part k
  let src := s.awaitsSource c k
  let ea := (if src then c.srcRow r else c.dstRow r) + BitVec.ofNat 64 lo
  if c.op = .atomr then
    match resolve s c.wave (leading c.mask) c.c c.rowb .fab .atomic with
    | .ok r => some r.target
    | _ => none
  else match s.engTargets c ea (hi - lo) ((if src then c.srcPlace else c.dstPlace).scope ea) (if src then .read else .write) with
  | .ok ts => ts.find? FarTarget.beyond
  | .error _ => none

/-- A reply for a part of a command: data of its source, a part performed at its home (R112, R372), or a failure; poisoned data are
placed and poison (R41). -/
def State.partReply (s : State) (id k : Nat) (r : FarReply) : State :=
  match s.cmd? id with
  | none => s
  | some c =>
    match r with
    | .data bs stamp pc =>
      let s := s.mergePc c.tenant (max pc stamp)
      if c.op = .atomr then s.atomrDone id bs false
      else if s.awaitsSource c k then s.partData id k bs false
      else s.partAck id k
    | .done => s.partAck id k
    | .fail cause d =>
      if cause = causePoison ∧ d = 3 ∧ c.op = .atomr then s.atomrDone id (List.replicate c.rowb 0) true
      else if cause = causePoison ∧ d = 3 ∧ s.awaitsSource c k then
        let p := c.part k
        s.partData id k (List.replicate (p.2.2 - p.2.1) 0) true
      else s.partFail id k cause d

/-- A pod operation of a lane answered by its home (R79, R317). Lanes from 128 on stand for the parts of a command, whose number is then in
the place of the wave's. -/
def State.farReply (s : State) (k lane : Nat) (r : FarReply) : State :=
  if 128 ≤ lane then s.partReply k (lane - 128) r
  else
    let s := match r with
      | .data _ _ pc => s.mergePc (s.waveTenant k) pc
      | _ => s
    s.answer k (fun f => f.lane == lane && f.target.isPod) fun s f => (s, { f with reply := some r })
def execFarResponse (wave lane : Nat) (reply : FarReply) (s : State) : Host.Outcome State Fault Refusal := (s.farReply wave lane reply).done

/-- A pod request fails (R122, R134). -/
def State.podFail (s : State) (k lane detail : Nat) : State :=
  if 128 ≤ lane then s.partFail k (lane - 128) causeFabricFail detail
  else s.answer k (fun f => f.lane == lane && f.target.isPod) fun s f => (s, { f with reply := some (.fail causeFabricFail detail) })
def execPodRequestTimeout (wave lane : Nat) (s : State) : Host.Outcome State Fault Refusal := (s.podFail wave lane 3).done
def execDestinationUnreachable (wave lane : Nat) (s : State) : Host.Outcome State Fault Refusal := (s.podFail wave lane 2).done

/-! ### Loss -/

/-- Every operation in flight to a target that a test picks fails. -/
def State.failTo (s : State) (p : FarTarget → Bool) (cause detail : Nat) : State :=
  let s := s.waves.foldl (fun s (k, _) => s.answerAll k (fun f => p f.target) fun s f => (s, { f with reply := some (.fail cause detail) })) s
  (s.cmds.filter fun c => !c.op.isMatrix && c.op != .agath && c.op != .ascat).foldl (fun s (c : Cmd) =>
    match c.waiting.find? fun k => (s.partEnd c k).any p with
    | some k => s.partFail c.id k cause detail
    | none => s) s

def State.link (s : State) (n : Nat) : Link := Tab.get {} s.links n
def State.modLink (s : State) (n : Nat) (f : Link → Link) : State := { s with links := Tab.put {} s.links n (f (s.link n)) }

/-- A link goes down (R121, R144, R161): what is in flight over it fails; later requests fail when they are made. -/
def State.linkDown (s : State) (link : Nat) : State :=
  let s := s.modLink link fun x => { x with down := true }
  if link = hostPort then s.failTo FarTarget.port causeUncorrected 0x23
  else s.failTo (fun t => match t with
    | .pod _ _ a => Config.carries link a
    | _ => false) causeFabricFail 4
def execLinkDown (link : Nat) (s : State) : Host.Outcome State Fault Refusal := (s.linkDown link).done

/-- When each owner of a line of this home last renewed it, once the keep-alives of this period are in: whose arrived is left free. -/
def State.renewals (s : State) : Tab Nat :=
  (s.dir.filterMap (·.2.owner)).foldl (fun r o => if Config.renews s.fresh o then Tab.put 0 r o s.time else r) s.renewed
/-- A period of 100 µs ends (R121): the keep-alive that renews the device's ownerships goes out, and those of its peers are in. -/
def execKeepalive (s : State) : Host.Outcome State Fault Refusal :=
  ({ s.send .keepalive with renewed := s.renewals, fresh := s.fresh + 1 } : State).done

/-- The tables of a tenant map a granule of device memory in a range of virtual addresses, from a table of a level down whose addresses begin
at `base`. -/
def mapsFrom (s : State) (t page lo hi : Nat) : Nat → Nat → Nat → Bool
  | level, base, table =>
    let unit := 2 ^ (12 + 9 * level)
    let first := (max lo base - base) / unit
    let last := (min hi (base + (if level = 3 then 262144 else 512) * unit) - base + unit - 1) / unit
    let here := fun (e : Tlb) =>
      let at_ := (if e.tgt = 0 then 0 else tierBase) + e.pa
      let va := e.va + (4096 * page - at_)
      e.tgt.toNat < 2 && decide (at_ ≤ 4096 * page) && decide (4096 * page < at_ + e.size) && decide (lo ≤ va) && decide (va < hi)
    (List.range' first (last - first)).any fun i =>
      let va := base + i * unit
      match level with
      | 0 => (match walk0 s t table va with
        | .ok e => here e
        | .error _ => false)
      | l + 1 =>
        let e := s.walkEntry 0 t (l + 1) va (table + 8 * i)
        if !e.getLsbD 0 || pteBad (l + 1) e then false
        else if e.getLsbD 1 then
          (s.tenant t).owns 0 (bits e 51 12 * 4096) 4096 && mapsFrom s t page lo hi l va (bits e 51 12 * 4096)
        else match leafOf s t va unit e with
          | .ok e => here e
          | .error _ => false
/-- A region of a tenant maps a granule (R27, R121). -/
def State.regionMaps (s : State) (t page : Nat) : Bool :=
  let root := (s.tenant t).cur.ptRoot.toNat
  (s.tenant t).loaded && (s.tenant t).owns 0 root 2097152 && (List.range 32).any fun r => match regionOf s t r with
    | some x => mapsFrom s t page x.base (x.base + x.len) 3 0 root
    | none => false

/-- An owner of a tenant's lines has failed (R121): its link is down, and it has renewed nothing for the tenant's timeout (R113). -/
def State.ownerGone (s : State) (t o : Nat) : Bool :=
  let tmo := bits (s.tenant t).cur.podCfg 31 16
  (s.links.any fun (l, x) => l != hostPort && x.down && Config.carries l o)
    && decide (Tab.get 0 s.renewed o + (if tmo = 0 then 1000 else tmo) * microsecond ≤ s.time)
/-- Owners to be declared failed. -/
def State.goneOwners (s : State) : List (Nat × Nat) :=
  ((s.dir.filterMap fun p => p.2.owner.map fun o => (p.2.tenant, o)).eraseDups).filter fun (t, o) => s.ownerGone t o

/-- An owner declared failed (R121): its lines are HOME again with their stale data, their granules poisoned; waiting requests
complete with poison. -/
def State.ownerLost (s : State) (t o : Nat) : State :=
  let lines := if s.ownerGone t o then (s.dir.filter fun p => p.2.tenant == t && p.2.owner == some o).map (·.1) else []
  let s := lines.foldl (fun (s : State) line =>
    let w := (s.tenant t).podClock + 1
    (s.modTenant t fun x => { x with podClock := w }).modDir line fun e =>
      { e with owner := none, wts := w, recalling := false, back := none }) s
  let pages := (lines.map (· / 32)).eraseDups
  let s := pages.foldl (fun s p => s.poisonGranule p) s
  if lines.isEmpty then s
  else
    let hit := (s.tenants.map (·.1)).filter fun u => pages.any (s.regionMaps u)
    let s := hit.foldl (fun s u => s.interrupt u 4) (s.send (.fabricLoss t o))
    (lines.foldl (fun s line => s.podService line) s).retryHome.wakeAll
def execOwnerTimeout (tenant owner : Nat) (s : State) : Host.Outcome State Fault Refusal := (s.ownerLost tenant owner).done

end Sys2Proof.Machine
end

