-- ==== Sys2Proof/Machine/LinkSec.lean ====
section
/-!
DEFINITION. Sealed UALink (R140 to R144) and link errors (R416): key slots, the transmitter's counters and switch-over, the
receiver's checks, delivery in order, acknowledgements and NAKs.
-/

namespace Sys2Proof

/-! ### The header of a flit (R141) -/

def Flit.slot (f : Flit) : Bool := f.header.getLsbD 63
def Flit.kind (f : Flit) : Nat := bits f.header 62 60
def Flit.seq (f : Flit) : BitVec 16 := BitVec.ofNat 16 (bits f.header 47 32)
def Flit.ctr (f : Flit) : Nat := bits f.header 31 0
/-- The slot that a switch marker names. -/
def Flit.newSlot (f : Flit) : Bool := (f.payload.headD 0).getLsbD 0
/-- A control flit is a NAK. DESIGN CHOICE: where its payload says so is not in the spec (log entry 36). -/
def Flit.nak (f : Flit) : Bool := f.payload.headD 0 == 1
def flitHeader (slot : Bool) (kind : Nat) (seq : BitVec 16) (ctr : Nat) : W64 :=
  BitVec.ofNat 64 ((if slot then 2 ^ 63 else 0) + kind % 8 * 2 ^ 60 + seq.toNat * 2 ^ 32 + ctr % 2 ^ 32)

namespace Machine

/-! ### The transmitter -/

def Link.tx (x : Link) (slot : Bool) : KeySlot := if slot then x.tx1 else x.tx0
def Link.modTx (x : Link) (slot : Bool) (f : KeySlot → KeySlot) : Link := if slot then { x with tx1 := f x.tx1 } else { x with tx0 := f x.tx0 }
def Link.rx (x : Link) (slot : Bool) : KeySlot := if slot then x.rx1 else x.rx0
def Link.modRx (x : Link) (slot : Bool) (f : KeySlot → KeySlot) : Link := if slot then { x with rx1 := f x.rx1 } else { x with rx0 := f x.rx0 }
/-- The transmitter may seal: its slot is active. -/
def Link.seals (x : Link) : Bool := (x.tx x.txSlot).active && !x.down
/-- The switch-over value of R142, and the first value that is not used. -/
def switchCtr : Nat := 0xFFF00000
def lastCtr : Nat := 0xFFFFFFFF
/-- The idle slot holds a key that has not been used. -/
def Link.spare (x : Link) : Bool := (x.tx !x.txSlot).loaded && !(x.tx !x.txSlot).active

/-- A slot that is no longer in use: its key is spent, so LOADED reads 0 (log entry 27). -/
def KeySlot.close (k : KeySlot) : KeySlot := { k with active := false, loaded := false }

/-- The IV of a flit (R140). -/
def KeySlot.iv (k : KeySlot) : BitVec 96 := k.salt ++ BitVec.ofNat 64 k.ctr
/-- A flit under the current slot with its next counter value (R140, R141). -/
def State.emit (s : State) (n kind : Nat) (seq : BitVec 16) (payload : List Byte) : State :=
  let x := s.link n
  let k := x.tx x.txSlot
  let h := flitHeader x.txSlot kind seq k.ctr
  let p := (payload ++ List.replicate 232 0).take 232
  (s.modLink n fun x => x.modTx x.txSlot fun k => { k with ctr := k.ctr + 1 }).send (.flit n h k.iv p (Config.gcmTag k.key k.iv h p))

/-- Switch-over from counter 0xFFF0_0000 on (R142): the marker under the old slot, then the new slot from 0; or a key request, once;
or, with every value used, no marker. -/
def State.switchOver (s : State) (n : Nat) : State :=
  let x := s.link n
  if !x.seals || (x.tx x.txSlot).ctr < switchCtr then s
  else if x.spare then
    let s := if (x.tx x.txSlot).ctr < lastCtr then s.emit n 1 0 [if x.txSlot then 0 else 1] else s
    s.modLink n fun x =>
      let y := x.modTx (!x.txSlot) fun k => { k with active := true, ctr := 0 }
      { y with txSlot := !x.txSlot, txStopped := false, asked := false }
  else if x.asked then s
  else (s.modLink n fun x => { x with asked := true }).send (.keyRequest n)

/-- Every counter value of the key is used and no other is loaded: the transmitter is silent (R142). -/
def State.exhaust (s : State) (n : Nat) : State :=
  let x := s.link n
  if x.seals && decide (lastCtr ≤ (x.tx x.txSlot).ctr) && !x.spare then s.modLink n fun x => { x with txStopped := true } else s

/-- A flit sent, after the switch-over that is due before it; false when the transmitter is silent. -/
def State.transmit (s : State) (n kind : Nat) (seq : BitVec 16) (payload : List Byte) : State × Bool :=
  let s := (s.switchOver n).exhaust n
  if (s.link n).seals && !(s.link n).txStopped then (s.emit n kind seq payload, true) else (s, false)

/-- A payload goes out, or waits for a key. -/
def State.sendData (s : State) (n : Nat) (q : BitVec 16) (p : List Byte) : State :=
  let (s, ok) := s.transmit n 0 q p
  if ok || (s.link n).unsent.any (·.1 == q) then s else s.modLink n fun x => { x with unsent := x.unsent ++ [(q, p)] }
/-- A payload of the link's traffic: kept until it is acknowledged (R144). -/
def State.sendPayload (s : State) (n : Nat) (p : List Byte) : State :=
  let q := (s.link n).nextSeq
  (s.modLink n fun x => { x with nextSeq := q + 1, unacked := x.unacked ++ [(q, p)] }).sendData n q p
/-- Payloads that waited for a key. -/
def State.sendWaiting (s : State) (n : Nat) : State :=
  (s.link n).unsent.foldl (fun s (q, p) => s.sendData n q p) (s.modLink n fun x => { x with unsent := [] })

/-- Messages that travel over UALink. -/
def Out.pod : Out → Bool
  | .podRead .. | .podReply .. | .recall .. | .keepalive => true
  | .far _ _ (.pod ..) .. | .copyFar _ _ (.pod ..) .. | .copyAtomic _ (.pod ..) .. => true
  | .launchRecord _ _ _ _ pod | .launchReply _ _ pod => pod
  | _ => false
/-- New messages to pod peers go out as sealed payloads where a link is sealed (R140); which link and which bytes are free. -/
def State.sealTraffic (s : State) : State :=
  let new := (s.outbox.drop s.packed).filter Out.pod
  let s := { s with packed := s.outbox.length }
  new.foldl (fun (s : State) _ =>
    match (s.links.filter fun p => p.2.seals).map (·.1) with
    | [] => s
    | l :: ls => ({ s with fresh := s.fresh + 1 } : State).sendPayload ((l :: ls).getD (Config.order s.fresh % (ls.length + 1)) l)
        (((Config.payload s.fresh) ++ List.replicate 232 0).take 232)) s

/-- A key armed by the security firmware (R140, R143); the first of a direction is in use at once. A silent or waiting transmitter
goes on under it. -/
def State.loadKey (s : State) (n : Nat) (tx slot : Bool) (salt : W32) (key : BitVec 256) : State :=
  if tx then
    let first := !(s.link n).tx0.active && !(s.link n).tx1.active
    let s := s.modLink n fun x =>
      let y := x.modTx slot fun _ => { salt := salt, key := key, loaded := true, active := first, ctr := 0 }
      if first then { y with txSlot := slot, txStopped := false } else y
    (s.switchOver n).sendWaiting n
  else
    s.modLink n fun x =>
      let first := !x.rx0.active && !x.rx1.active
      x.modRx slot fun _ => { salt := salt, key := key, loaded := true, active := first, ctr := 0 }
def execKeyLoad (link : Nat) (tx slot : Bool) (salt : W32) (key : BitVec 256) (s : State) : Host.Outcome State Fault Refusal :=
  (s.loadKey link tx slot salt key).done
def execKeySwitchover (link : Nat) (s : State) : Host.Outcome State Fault Refusal := (s.switchOver link).done
def execKeyExhausted (link : Nat) (s : State) : Host.Outcome State Fault Refusal := (s.exhaust link).done

/-! ### The receiver -/

/-- The checks of R143. -/
def Link.admits (x : Link) (f : Flit) : Bool :=
  let k := x.rx f.slot
  f.authentic && decide (f.kind ≤ 3) && k.loaded && decide (k.ctr ≤ f.ctr)

/-- A flit that fails (R144): a NAK, and after 16 in a row the link is down with an alert. -/
def State.refuseFlit (s : State) (n : Nat) (f : Flit) : State :=
  let s := (s.modLink n fun x => { x with bad := x.bad + 1 })
  let s := (s.transmit n 3 f.seq [1]).1
  if 16 ≤ (s.link n).bad then (s.send (.securityAlert n)).linkDown n else s

/-- The slot of an accepted flit: its counter moves; a flit under the loaded idle slot opens it as the lost marker would have; the
first under a new slot closes the old one. -/
def State.acceptUnder (s : State) (n : Nat) (f : Flit) : State :=
  let opened := !((s.link n).rx f.slot).active
  let s := s.modLink n fun x =>
    let y := x.modRx f.slot fun k => { k with ctr := f.ctr + 1, active := true }
    let y := if opened || x.rxNew = some f.slot then { y.modRx (!f.slot) KeySlot.close with rxNew := none } else y
    { y with bad := 0, replays := 0 }
  if opened then (s.transmit n 2 0 []).1 else s

/-- Payloads in order from `expect` on (R143). -/
def State.deliverHeld (s : State) (n : Nat) : Nat → State
  | 0 => s
  | fuel + 1 =>
    let x := s.link n
    match x.heldPay.find? fun p => p.1 == x.expect with
    | none => s
    | some p =>
      ((s.modLink n fun x => { x with expect := x.expect + 1, heldPay := x.heldPay.filter fun q => q.1 != p.1 }).send
        (.delivered n p.2)).deliverHeld n fuel
/-- A data payload: delivered, held across a gap, or dropped as seen before. DESIGN CHOICE: one beyond the 64 that are held is dropped, with no
NAK (log entry 36). -/
def State.arrive (s : State) (n : Nat) (f : Flit) : State :=
  let x := s.link n
  let ahead := (f.seq - x.expect).toNat
  if ahead = 0 then
    let s := ((s.modLink n fun x => { x with expect := x.expect + 1 }).send (.delivered n f.payload)).deliverHeld n 64
    (s.transmit n 3 ((s.link n).expect - 1) [0]).1
  else if ahead < 2 ^ 15 ∧ x.heldPay.length < 64 ∧ !(x.heldPay.any fun p => p.1 == f.seq) then
    s.modLink n fun x => { x with heldPay := x.heldPay ++ [(f.seq, f.payload)] }
  else s

/-- A sealed flit arrives (R142 to R144). -/
def State.receive (s : State) (n : Nat) (f : Flit) : State :=
  if (s.link n).down then s
  else if !(s.link n).admits f then s.refuseFlit n f
  else
    let s := s.acceptUnder n f
    match f.kind with
    | 0 => s.arrive n f
    | 1 =>
      -- the named slot opens beside the old one
      let new := f.newSlot
      if new = f.slot ∨ !((s.link n).rx new).loaded then s
      else ((s.modLink n fun x => { x.modRx new fun k => { k with active := true } with rxNew := some new }).transmit n 2 0 []).1
    | 2 => s.modLink n fun x => if (x.tx !x.txSlot).active then x.modTx (!x.txSlot) KeySlot.close else x
    | _ =>
      if f.nak then
        match (s.link n).unacked.find? fun p => p.1 == f.seq with
        | some p => s.sendData n p.1 p.2
        | none => s
      else s.modLink n fun x => { x with unacked := x.unacked.filter fun p => decide (2 ^ 15 ≤ (f.seq - p.1).toNat) }

def execSealedDataFlit (link : Nat) (flit : Flit) (s : State) : Host.Outcome State Fault Refusal := (s.receive link flit).done
def execSwitchMarker (link : Nat) (flit : Flit) (s : State) : Host.Outcome State Fault Refusal := (s.receive link flit).done
def execAcknowledgingMarker (link : Nat) (flit : Flit) (s : State) : Host.Outcome State Fault Refusal := (s.receive link flit).done
def execSealedControlFlit (link : Nat) (flit : Flit) (s : State) : Host.Outcome State Fault Refusal := (s.receive link flit).done

/-- A CRC error is replayed and recorded; after 16 in a row the link goes down (R416). -/
def execLinkCrcError (link : Nat) (s : State) : Host.Outcome State Fault Refusal :=
  let s := (s.modLink link fun x => { x with replays := x.replays + 1 }).errRecord 1 5 link link 0 0
  (if 16 ≤ (s.link link).replays then (s.modLink link fun x => { x with replays := 0 }).linkDown link else s).done

end Machine

end Sys2Proof
end

