-- ==== Sys2Proof/Machine/HostPort.lean ====
section
/-!
DEFINITION. The host port (R145 to R172): host accesses to device memory, back-invalidation and bias flips, the host's answers to the
device's own requests, launch windows, and what module and tenant software write of windows, extents and the tenant context.
-/

namespace Sys2Proof.Machine

/-! ### Host accesses to device memory (R149, R151, R165) -/

/-- An entry of the inbound identity table that covers a request (R165, R166). -/
def identityCovers (rid dpa len : Nat) (e : W64 × W64) : Bool :=
  e.1.getLsbD 63 && bits e.1 62 52 == 0 && bits e.1 20 12 == 0 && bits e.2 63 52 == 0 && bits e.2 20 0 == 0 && bits e.1 11 0 == rid
    && decide (bits e.1 51 21 * 2097152 ≤ dpa) && decide (dpa + len ≤ bits e.1 51 21 * 2097152 + bits e.2 51 21 * 2097152)

/-- The base die whose snoop filter tracks a 64-byte line: that of its home slice. -/
def dieOf (line : Nat) : Nat := homeSlice (64 * line) / 64
/-- A line that the host may hold now: tracked in device bias; a full filter gives up its oldest line (R151). -/
def State.track (s : State) (line : Nat) : State :=
  if s.hostBias (64 * line) || s.snoop.contains line then s
  else
    let mine := s.snoop.filter fun l => dieOf l == dieOf line
    let s := match mine with
      | l :: _ => if 524288 ≤ mine.length then { s with snoop := s.snoop.erase l }.send (.backInval l true) else s
      | [] => s
    { s with snoop := s.snoop ++ [line] }
def runLines (dpa len : Nat) : List Nat := (List.range ((dpa + len + 63) / 64 - dpa / 64)).map (dpa / 64 + ·)
def runPages (dpa len : Nat) : List Nat := (List.range ((dpa + len + 4095) / 4096 - dpa / 4096)).map (dpa / 4096 + ·)

/-- What a host access waits for: a locked line, a recall (R118), for a write the reservation's holder (R92) and the end of a reverse
command (R451); never a
back-invalidation or a bias flip (R152, R155), nor room in a log, which a host write ends instead (R450). -/
def State.hostStall (s : State) (q : HostReq) : Option Stall :=
  let lines := (List.range ((q.dpa + q.len + 127) / 128 - q.dpa / 128)).map (q.dpa / 128 + ·)
  let held := (runPages q.dpa q.len).any fun p => (s.ownersOf p).any fun t => (s.tenant t).reverse.isSome
  if (lines.any fun l => s.pendingLine (.mem (128 * l))) || (q.write.isSome && held) then some .commit
  else match lines.find? fun l => (s.dirAt l).owner.isSome with
    | some l => some (.recall l)
    | none =>
      if q.write.isSome && s.resBlocks none (sigOf (s.keysOf (lines.map fun l => .mem (128 * l)))) then some .commit else none

/-- Bytes of a run that lie in poisoned granules are not written (R149). -/
def State.hostPut (s : State) (dpa : Nat) (data : List Byte) (pois : Bool) : State :=
  let bs := (data.zipIdx).filter fun (_, i) => !s.poisoned (dpa + i)
  let s' := (pieces (bs.map fun (b, i) => (Loc.mem (dpa + i), b))).foldl (fun s (l, b) => s.placeOutside l b) s
  if pois then s'.poisonPlaces (bs.map fun (_, i) => .mem (dpa + i)) else s'

/-- A record of a host access to a poisoned granule (R149, R423). -/
def State.hostPoison (s : State) (dpa len : Nat) : State :=
  ((runPages dpa len).filter fun p => s.poisoned (4096 * p)).foldl (fun s p =>
    s.errRecord 4 7 0 0 ((s.ownersOf p).headD 0) (if 4096 * p < tierBase then 4096 * p else 4096 * p - tierBase)) s

/-- A host access served at its home. -/
def State.hostServe (s : State) (q : HostReq) : State :=
  let bad := (runPages q.dpa q.len).any fun p => s.poisoned (4096 * p)
  let ls := runLines q.dpa q.len
  -- the host may hold the line again: a device access that has had its answer asks once more (R152)
  let s := if q.aperture then s
    else { (ls.foldl State.track (s.hostPoison q.dpa q.len)) with invDone := s.invDone.filter fun d => !ls.contains d.1 }
  match q.write with
  | none =>
    let bs := s.peekN (.mem q.dpa) q.len
    s.send (if q.aperture then .aperture bs else .hostData bs bad)
  | some (data, pois) => (s.hostPut q.dpa data pois).wakeAll

/-- Waiting host accesses in arrival order. -/
def State.serveHost (s : State) : Nat → State
  | 0 => s
  | n + 1 =>
    match s.hostQueue with
    | [] => s
    | q :: rest =>
      match s.hostStall q with
      | some st => s.engAsk (.wait st)
      | none => (({ s with hostQueue := rest } : State).hostServe q).serveHost n
def State.hostArrive (s : State) (q : HostReq) : State :=
  let s := { s with hostQueue := s.hostQueue ++ [q] }
  s.serveHost s.hostQueue.length

/-- The device physical address that the HDM decoder gives a run of host physical addresses, where an identity admits it (R148, R165). -/
def State.hdm (s : State) (rid hpa len : Nat) : Option Nat :=
  let dpa := hpa - s.hdmBase
  if s.hdmBase ≤ hpa && decide (dpa + len ≤ memEnd) && s.identities.any (identityCovers rid dpa len) then some dpa else none
/-- A host access reaches device memory in CXL mode alone (R146); one that no identity admits reads poisoned data or is dropped, or as a UIO
request completes with Completer Abort (R165). -/
def execHostRead (src : HostSource) (hpa len : Nat) (s : State) : Host.Outcome State Fault Refusal :=
  if !s.cxl then s.done
  else match s.hdm src.rid hpa len with
    | none => (s.send (if src.uio then .completerAbort src.rid else .hostData (List.replicate len 0) true)).done
    | some dpa => (s.hostArrive { dpa := dpa, len := len, write := none }).done
def execHostWrite (src : HostSource) (hpa : Nat) (data : List Byte) (pois : Bool) (s : State) : Host.Outcome State Fault Refusal :=
  if !s.cxl then s.done
  else match s.hdm src.rid hpa data.length with
    | none => (if src.uio then s.send (.completerAbort src.rid) else s).done
    | some dpa => (s.hostArrive { dpa := dpa, len := data.length, write := some (data, pois) }).done

/-! ### Back-invalidation and bias flips (R151 to R155) -/

/-- The host's answer: modified data written as a host write; the entry dropped; asked again where a host request in between left the
host holding the line (R152). -/
def State.invAnswer (s : State) (line : Nat) (data : Option (List Byte)) (held : Bool) : State :=
  let s := match data with
    | some bs => s.hostPut (64 * line) ((bs ++ List.replicate 64 0).take 64) false
    | none => s
  match s.invWaits.find? (·.1 == line) with
  | none => s
  | some (_, w, flip) =>
    let s := { s with invWaits := s.invWaits.erase (line, w, flip) }
    if held then { s with invWaits := s.invWaits ++ [(line, w, flip)] }.send (.backInval line w)
    else
      let s := { s with snoop := s.snoop.filter (· != line) }
      if flip then
        { s with flips := s.flips.map fun (f : Flip) => if f.asked && f.page == line / 64 then { f with left := f.left - 1 } else f }.push
          [.biasFlipComplete (line / 64)]
      else if s.hostBias (64 * line) then { s with invDone := s.invDone ++ [(line, w)] }
      else s
def execBackInvalResponse (line : Nat) (data : Option (List Byte)) (held : Bool) (s : State) : Host.Outcome State Fault Refusal :=
  (s.invAnswer line data held).wakeAll.done

/-- A flip goes on (R153, R154) once the commands that were moving bytes of the page have passed it and the chunks stamped before the block
have applied their lines: for device bias 64 back-invalidations, all to be answered; then the bit, with no line of the page left in the
filter or in a level-1 cache. -/
def execBiasFlipComplete (page : Nat) (s : State) : Host.Outcome State Fault Refusal :=
  match s.flips.find? (·.page == page) with
  | none => s.done
  | some f =>
    let busy := s.cmds.any fun c => f.movers.contains c.id && c.left.any fun k => s.partOnPage c k page
    let locked := (List.range 32).any fun i => s.pendingLine (.mem (4096 * page + 128 * i))
    if busy || locked || decide (0 < f.left) then s.done
    else if !f.toHost && !f.asked then
      let s := { s with flips := s.flips.map fun (x : Flip) => if x.page = page then { x with asked := true, left := 64 } else x,
                        invWaits := s.invWaits ++ (List.range 64).map fun i => (page * 64 + i, true, true) }
      ((List.range 64).foldl (fun (s : State) i => s.send (.backInval (page * 64 + i) true)) s).done
    else
      let s := (s.setBitmap s.biasBase.toNat page f.toHost).l1Drop ((List.range 32).filterMap fun i => s.lineKey (.mem (4096 * page + 128 * i)))
      let s := { s with flips := s.flips.filter (·.page != page), snoop := s.snoop.filter fun l => l / 64 != page,
                        invDone := s.invDone.filter fun d => d.1 / 64 != page }
      s.retryHome.wakeAll.done

/-! ### Host memory reached by the device (R156 to R161) -/

/-- A snoop of a host line held here: it is written back if modified, and dropped or kept shared. -/
def execHostSnoop (addr : Nat) (inv : Bool) (s : State) : Host.Outcome State Fault Refusal :=
  match s.hostLine? addr with
  | none => (s.send (.snoopAnswer (addr / 64 * 64) false)).done
  | some h =>
    let s := if h.dirty then s.send (.hostWriteback h.addr h.data) else s
    let s := { s with hostLines := if inv then s.hostLines.filter (·.addr != h.addr)
      else s.hostLines.map fun (x : HostLine) => if x.addr == h.addr then { x with dirty := false, owned := false } else x }
    (s.send (.snoopAnswer h.addr true)).done

/-- A lane's completion: a host line installed and the operation performed in it (R158, R159), a step of an atomic loop (R160), or the
end of the operation. -/
def State.portLane (s : State) (k : Nat) (r : FarReply) (f : FarLane) : State × FarLane :=
  match r, f.target with
  | .fail .., _ => (s, { f with reply := some r })
  | .data bs _ _, .host pa true step =>
    let s := s.hostInstall (f.asked.getD pa) ((bs ++ List.replicate 64 0).take 64) f.op.writes
    (match s.hostNeed pa step f.op.bytes f.op.writes with
      | none => s.hostPerform f pa step
      | some a => s.sendOr { f with asked := some a } (.far k f.lane (.host a true 4) f.op false 0 0 (s.portAttr false)))
  | .data bs _ _, _ =>
    let v := leNat (bs.take f.op.bytes)
    if f.looped && f.cmp != some v then
      let g := { f with cmp := some v }
      s.sendOr g (.far k g.lane g.target g.wire false 0 0 (s.portAttr false))
    else (s, { f with reply := some r })
  | .done, _ => (s, { f with reply := some r })

/-- What a completion means to the access that made the request (R41, R161). -/
def portMeaning : PortReply → FarReply
  | .data bs => .data bs 0 0
  | .done => .done
  | .unsupported => .fail causeUncorrected 0x21
  | .abort => .fail causeUncorrected 0x22
  | .poisoned => .fail causePoison 3
  | .cacheFailed => .fail causeUncorrected 0x23
/-- A zero-length read completes: the posted writes that it was sent after are performed, or have failed with it (R158). -/
def State.zeroBack (s : State) (id : Nat) (r : FarReply) : State :=
  (s.waves.filter fun p => p.2.posted.any (·.zr == some id)).foldl (fun s p =>
    s.answerAll p.1 (fun f => f.zr == some id) fun s f =>
      (s, { f with reply := some (match r with
        | .fail c d => .fail c d
        | _ => .done) })) s

/-- A completion arrives at the port for a wave's lane: for lane 64 a wave's zero-length read, whose number stands in the place of the wave's;
for lane 65 a command's; from lane 128 on a part of a command, whose number stands there. -/
def State.portComplete (s : State) (k lane : Nat) (r : FarReply) : State :=
  if lane = 65 then
    match r with
    | .fail c d => (match s.cmd? k with
      | some x => s.failCmd x c d x.c
      | none => s)
    | _ => s.zeroDone k
  else if lane = 64 then s.zeroBack k r
  else if 128 ≤ lane then
    match s.cmd? k, r with
    | some c, _ =>
      let part := lane - 128
      (match c.asked.find? (·.1 == part), r with
      | some (_, pa, own), .data bs _ _ => s.partLine k part pa ((bs ++ List.replicate 64 0).take 64) own
      | some (_, pa, own), .fail 8 3 => s.partPoison k part pa own
      | _, _ => s.partReply k part r)
    | none, _ => s.partReply k (lane - 128) r
  else s.answer k (fun f => f.lane == lane && f.target.port) fun s f => s.portLane k r f
def execPortCompletion (wave lane : Nat) (reply : PortReply) (s : State) : Host.Outcome State Fault Refusal :=
  (s.portComplete wave lane (portMeaning reply)).done
/-- No completion within 10 ms (R161). -/
def execPortRequestTimeout (wave lane : Nat) (s : State) : Host.Outcome State Fault Refusal :=
  (s.portComplete wave lane (.fail causeUncorrected 0x20)).done

/-! ### Launch windows (R169) -/

/-- A write that is no record: BAD; a posted record without room: DROP; both raise source 3. -/
def State.queueMark (s : State) (t q : Nat) (bad : Bool) : State :=
  (s.modTenant t fun x => { x with queues := x.queues.modify q fun z =>
    if bad then { z with bad := true } else { z with drop := true } }).interrupt t 3

def execLaunchRecordDmwr (tenant queue : Nat) (rec : List W64) (s : State) : Host.Outcome State Fault Refusal :=
  let r := s.appendRecord tenant queue rec
  (if rec.length ≠ 8 ∨ r.2 = 3 then (s.queueMark tenant queue true).send (.dmwrStatus true)
    else if r.2 = 2 then s.send (.dmwrStatus false) else r.1.send (.dmwrStatus true)).done
def execLaunchRecordPosted (tenant queue off bytes : Nat) (rec : List W64) (s : State) : Host.Outcome State Fault Refusal :=
  let r := s.appendRecord tenant queue rec
  (if off ≠ 0 ∨ bytes ≠ 64 ∨ rec.length ≠ 8 ∨ r.2 = 3 then s.queueMark tenant queue true
    else if r.2 = 2 then s.queueMark tenant queue false else r.1).done
def execLqStatWrite (tenant queue : Nat) (val : W64) (s : State) : Host.Outcome State Fault Refusal :=
  (s.modTenant tenant fun x => { x with queues := x.queues.modify queue fun z =>
    { z with bad := z.bad && !val.getLsbD 31, drop := z.drop && !val.getLsbD 30, en := val.getLsbD 29 } }).done

/-! ### Windows and extents (R162, R164, R170) -/

/-- Translations that the tenant's windows and extents no longer cover are dropped. -/
def State.purgeTlb (s : State) (t : Nat) : State :=
  let x := s.tenant t
  { s with walkCache := s.walkCache.filter (·.tenant != t), tlb := s.tlb.filter fun e => e.tenant != t
      || (if e.tgt.toNat < 2 then x.owns e.tgt.toNat e.pa e.size else e.tgt == 2 || x.poolOwns e.pa e.size) }

/-- A memory window written, its reserved bits left out (R170, R492). -/
def execMemoryWindowWrite (tenant entry : Nat) (lo hi : W64) (s : State) : Host.Outcome State Fault Refusal :=
  let e := (lo &&& 0xE00001FFFFE00000, hi &&& 0x000001FFFFE00000)
  ((s.modTenant tenant fun x => { x with windows := x.windows.set entry e }).purgeTlb tenant).done

/-- An extent entry written (R164), its reserved bits left out (R492): DRAIN is the device's own. -/
def execExtentAdd (tenant entry : Nat) (ws : List W64) (s : State) : Host.Outcome State Fault Refusal :=
  let drain := (((s.tenant tenant).extents.getD entry []).getD 0 0) &&& (1#64 <<< 62)
  let e := [(ws.getD 0 0 &&& 0x800001FFFFE00000) ||| drain, ws.getD 1 0 &&& 0x000001FFFFE00000, ws.getD 2 0 &&& 0xFFFFFFFFFFE00000, ws.getD 3 0]
  let s := (s.modTenant tenant fun x => { x with extents := x.extents.set entry e }).purgeTlb tenant
  (if (e.getD 0 0).getLsbD 63 then s.interrupt tenant 6 else s).done

/-- Releases requested (R164): DRAIN set, the extents' translations dropped; each completes when nothing uses it. -/
def execExtentRelease (tenant : Nat) (bits : W64) (s : State) : Host.Outcome State Fault Refusal :=
  let es := (List.range 64).filter fun e => bits.getLsbD e && !(s.tenant tenant).extRelease.getLsbD e
  let s := s.modTenant tenant fun x =>
    { x with extRelease := x.extRelease ||| bits,
             extents := es.foldl (fun xs e => xs.modify e fun w => w.modify 0 (· ||| 1#64 <<< 62)) x.extents }
  ((s.purgeTlb tenant).push (es.map fun e => .extentReleaseComplete tenant e)).done

/-- Whether a far target lies in an extent: the pool device and its addresses. -/
def inExtent (e : List W64) : FarTarget → Bool
  | .pool p d _ =>
    match extentOf (e.modify 0 (· &&& 0xBFFFFFFFFFFFFFFF#64)) with
    | some (_, n, q, b) => p == q && decide (b ≤ d) && decide (d < b + n)
    | none => false
  | _ => false
/-- An extent still in use by an access or a command. -/
def State.extentBusy (s : State) (t : Nat) (e : List W64) : Bool :=
  (s.waves.any fun (_, w) => (s.wg w.wg).tenant == t && (w.wait.lanes ++ w.posted).any fun f => inExtent e f.target)
    || s.cmds.any fun c => c.tenant == t && c.op == .acopySys && (c.owed != 0 || c.left.any fun k =>
      let (r, lo, hi) := c.part k
      [(c.srcRow r, Acc.read), (c.dstRow r, Acc.write)].any fun (a, acc) =>
        match s.engTargets c (a + BitVec.ofNat 64 lo) (hi - lo) .chip acc with
        | .ok ts => ts.any (inExtent e)
        | .error _ => true)
def execExtentReleaseComplete (tenant entry : Nat) (s : State) : Host.Outcome State Fault Refusal :=
  let x := s.tenant tenant
  let e := x.extents.getD entry []
  if !x.extRelease.getLsbD entry || s.extentBusy tenant e then s.done
  else
    let s := s.modTenant tenant fun x =>
      { x with extRelease := x.extRelease &&& ~~~(1#64 <<< entry),
               extents := x.extents.modify entry fun w => w.modify 0 (· &&& 0x3FFFFFFFFFFFFFFF#64) }
    ((s.send (.extentDone tenant entry)).interrupt tenant 6).done

/-! ### The tenant context (R171, R210, R415) -/

def State.liveOf (s : State) (t : Nat) : List Nat := (s.wgs.filter fun p => p.2.live && p.2.tenant == t).map (·.1)

def execTenantReload (tenant : Nat) (s : State) : Host.Outcome State Fault Refusal :=
  ((s.modTenant tenant fun x => { x with reload := true }).push [.contextLoad tenant]).done

/-- The context block loaded (R415), when no workgroup of the tenant is resident or saved. The reserved bits of the registers read
zero. -/
def Ctx.masked (c : Ctx) : Ctx :=
  { c with ptRoot := c.ptRoot &&& ~~~0x1FFFFF, rgnBase := c.rgnBase &&& ~~~0x1FF, rankBase := c.rankBase &&& ~~~0x1F,
           psetBase := c.psetBase &&& ~~~0x3F, jobRank := c.jobRank &&& 0x1FFFF, podCfg := c.podCfg &&& 0x0000FFFFFFFF0000, saveBase := c.saveBase &&& 0x000FFFFFFFE00000, saveSlots := c.saveSlots &&& 0xFFFF }
def execContextLoad (tenant : Nat) (s : State) : Host.Outcome State Fault Refusal :=
  if !(s.tenant tenant).reload || !(s.liveOf tenant).isEmpty then s.done
  else (s.modTenant tenant fun x =>
    { x with cur := x.block.masked, tables := s.mem, loaded := true, reload := false, lastLaunch := 0, progcnt := List.replicate 16 0,
             groups := x.groups.map fun g => { g with failed := false } }).done

def execLastRejectClear (tenant : Nat) (s : State) : Host.Outcome State Fault Refusal :=
  (s.modTenant tenant fun x => { x with lastReject := x.lastReject &&& 0x00FF00000000000F }).done

end Sys2Proof.Machine
end

