-- ==== Sys2Proof/Machine/Save.lean ====
section
/-!
DEFINITION. Saves and restores of workgroups (R407 to R413), the free places on a core (R44 to R46, R199), and evictions (R191,
R216).
-/

namespace Sys2Proof.Machine

/-! ### Saves (R407, R408, R412) -/

/-- A wave stands at a blocking point, or has ended (R407). -/
def Wave.blocked (w : Wave) : Bool :=
  let stands := match w.wait.kind with
    | .bwait | .gsync | .qpop | .ctrwait | .far => true
    | _ => false
  !w.handler && !(w.lanes.any (·.halted)) && w.com.isNone && (w.lanes.all (·.exited) || (stands && w.trapQ.isEmpty && !w.haltPending))
/-- An evictable workgroup. -/
def State.evictable (s : State) (g : Nat) : Bool :=
  let x := s.wg g
  x.live && !x.saved && !x.saving && !x.restoring && (s.wgWaves g).all (fun k => (s.wave k).blocked)
    && !(s.wgWaves g).all (fun k => (s.wave k).lanes.all (·.exited))
    && !(s.cmds.any fun c => c.wg == g && (c.intoCore || c.op.isMatrix))

/-- The lowest-numbered free slots of a tenant. -/
def State.freeSlots (s : State) (t n : Nat) : Option (List Nat) :=
  let x := s.tenant t
  let free := ((List.range (x.slotsUsed.length + n)).filter fun i => !x.slotsUsed.contains i && decide (i < x.cur.saveSlots.toNat)).take n
  if free.length = n then some free else none

/-- An evictable workgroup is written into its slots; its matrix engine state goes with it, its ownership is remembered (R198). -/
def execWorkgroupSave (wg : Nat) (s : State) : Host.Outcome State Fault Refusal :=
  let x := s.wg wg
  match s.evictable wg, s.freeSlots x.tenant x.parts.length with
  | true, some (a :: rest) =>
    let s := s.modTenant x.tenant fun t => { t with slotsUsed := t.slotsUsed ++ a :: rest }
    let s := s.modWg wg fun g => { g with saving := true, ready := false, slot := a, slotOdd := rest.headD 0 }
    let put := fun (s : State) (odd : Bool) =>
      let base := s.slotBase x.tenant ((s.wg wg).partSlot odd)
      ((s.partPieces wg odd) ++ [(slotScr, scrPart x odd)]).foldl (fun s (o, bs) => s.stBytes (base + o) bs) s
    let s := x.parts.foldl put s
    let s := (s.wgWaves wg).foldl (fun (s : State) k =>
      let own := (s.wave k).own
      let engs := x.parts.filterMap fun odd =>
        let c := s.core (x.partCore odd)
        if c.owner = some k then some (if odd then 1 else 0, c.granted.getD c.eng) else none
      ((s.modWave k fun w => { w with engs := engs }).dropEngine k).modWave k fun w => { w with own := own }) s
    (s.push [.saveComplete wg]).done
  | _, _ => s.done

/-- The wake condition of a saved workgroup (R407): an object that meets a wait, far data returned, a queued trap or a halt. -/
def State.wakes (s : State) (g : Nat) : Bool :=
  (s.wg g).unwindDue.isSome || (s.wgWaves g).any fun k =>
    let w := s.wave k
    (w.wait.kind != .none && w.wait.kind != .far && s.waitMet w.wait)
      || (w.wait.kind == .far && !w.wait.lanes.any (·.reply.isNone)) || !w.trapQ.isEmpty || w.haltPending

/-- The slots of a workgroup given back. -/
def State.freeSlotsOf (s : State) (g : Nat) : State :=
  let x := s.wg g
  s.modTenant x.tenant fun t => { t with slotsUsed := t.slotsUsed.filter fun i => !(x.parts.map x.partSlot).contains i }

/-- A save ends (R412): the core is free, an aborted workgroup is discarded, and one whose wake condition holds is ready. -/
def execSaveComplete (wg : Nat) (s : State) : Host.Outcome State Fault Refusal :=
  let x := s.wg wg
  if !x.saving then s.done
  else
    let s := s.modWg wg fun g => { g with saving := false, saved := true, ready := g.ready || s.wakes wg }
    let s := (x.parts.map x.partCore).foldl (fun s c => if (s.core c).pending.isSome then s.push [.coreHandover c] else s)
      ((x.parts.map x.partCore).foldl State.l1Clear s)
    (if (s.launch x.launch).aborted then s.push [.workgroupRetire wg] else s).done

/-! ### Free places on a core (R44 to R46, R199) -/

/-- Resident workgroups with a part on a core. -/
def State.residents (s : State) (core : Nat) : List (Nat × Wg) :=
  s.wgs.filter fun (_, x) => x.live && !x.saved && (x.core == core || (x.pair && x.core + 1 == core))
def Wg.onOdd (x : Wg) (core : Nat) : Bool := x.pair && x.core + 1 == core
/-- Register units of a wave, and the runs of units a workgroup holds on a core. -/
def Wg.regRun (x : Wg) : Nat := (x.regs + 7) / 8
def Wg.runs (x : Wg) (core : Nat) : List (Nat × Nat) :=
  ((x.partIdx (x.onOdd core)).flatMap fun i => [(x.regUnits.getD i 0, x.regRun), (x.stashUnits.getD i 0, 4)])
    ++ [(if x.onOdd core then x.scrUnitOdd else x.scrUnit, x.scrUnits)]
/-- The lowest free run of n among `used`, below `top`. -/
def lowestRun (used : List (Nat × Nat)) (top n : Nat) : Option Nat :=
  (0 :: used.map fun (a, m) => a + m).foldl (fun best a =>
    if a + n ≤ top ∧ (used.all fun (b, m) => decide (a + n ≤ b) || decide (b + m ≤ a) || m == 0 || n == 0) = true then
      (match best with
        | none => some a
        | some b => some (min a b))
    else best) none

/-- What a placement needs: waves on the part, registers, scratchpad units, banks, and the bank run a restored one must have. -/
structure Need where
  waves : Nat
  regs : Nat
  scr : Nat
  acc : Nat
  bank : Option Nat := none
  pair : Bool := false
  deriving DecidableEq, Repr

/-- The runs found for the waves (registers and stash of each) and the scratchpad. -/
structure Fit where
  regUnits : List Nat := []
  stashUnits : List Nat := []
  scrUnit : Nat := 0
  deriving DecidableEq, Repr

/-- A part fitted on a core beside the workgroups in `there` (R46). -/
def fitPart (there : List Wg) (core : Nat) (n : Need) : Option Fit :=
  let used := there.flatMap fun x => x.runs core
  let waves := (there.map fun x => (x.partIdx (x.onOdd core)).length).sum + n.waves
  let regs := (there.map fun x => (x.partIdx (x.onOdd core)).length * x.regRun).sum + n.waves * ((n.regs + 7) / 8)
  let total := (used.map (·.2)).sum + n.waves * ((n.regs + 7) / 8 + 4) + n.scr
  if 64 < waves ∨ 512 < regs ∨ 752 < total then none
  else
    let r := (List.range n.waves).foldl (fun (a : Option (List (Nat × Nat) × Fit)) _ => a.bind fun (u, f) =>
      (lowestRun u 768 ((n.regs + 7) / 8)).bind fun r =>
        (lowestRun ((r, (n.regs + 7) / 8) :: u) 768 4).map fun t =>
          ((t, 4) :: (r, (n.regs + 7) / 8) :: u, { f with regUnits := f.regUnits ++ [r], stashUnits := f.stashUnits ++ [t] }))
      (some (used, {}))
    r.bind fun (u, f) => (lowestRun u 768 n.scr).map fun q => { f with scrUnit := q }

/-- The bank run for a placement (R199, R413). -/
def fitBanks (there : List Wg) (n : Need) : Option Nat :=
  let used := there.map fun x => (x.accBase, x.accCount)
  match n.bank with
  | none => lowestRun used 128 n.acc
  | some b => if used.all fun (a, m) => decide (b + n.acc ≤ a) || decide (a + m ≤ b) || m == 0 || n.acc == 0 then some b else none

/-- A workgroup fitted on a core, or a pair from its even core: bank run and one fit per part. -/
def fitOn (there : Nat → List Wg) (core : Nat) (n : Need) : Option (Nat × List Fit) :=
  let cores := if n.pair then [core, core + 1] else [core]
  (fitBanks (cores.flatMap there) n).bind fun b => (cores.mapM fun c => fitPart (there c) c n).map fun fs => (b, fs)

/-- A core that may take work of a tenant. -/
def State.takes (s : State) (t c : Nat) : Bool :=
  let x := s.core c
  x.assigned && x.tenant == t && x.pending.isNone && !x.out && !(s.quarantine.any fun q => q.1 == 6 && q.2.1 == c)
def State.placeable (s : State) (t core : Nat) (n : Need) (gone : List Nat) : Option (Nat × List Fit) :=
  if (if n.pair then [core, core + 1] else [core]).all (s.takes t) then
    fitOn (fun c => ((s.residents c).filter fun p => !gone.contains p.1).map (·.2)) core n
  else none

/-! ### Restores (R217, R410, R413) -/

def Wg.need (x : Wg) : Need :=
  { waves := (x.partIdx false).length, regs := x.regs, scr := x.scrUnits, acc := x.accCount, bank := some x.accBase, pair := x.pair }
/-- Its places on a core taken by a workgroup. -/
def Wg.placeOn (x : Wg) (core bank : Nat) (fs : List Fit) : Wg :=
  let a := fs.headD {}
  let b := (fs.drop 1).headD {}
  { x with core := core, accBase := bank, regUnits := a.regUnits ++ b.regUnits, stashUnits := a.stashUnits ++ b.stashUnits,
           scrUnit := a.scrUnit, scrUnitOdd := b.scrUnit }

/-- The images of a workgroup's slots read back. -/
def State.readSlots (s : State) (g : Nat) : State :=
  let x := s.wg g
  x.parts.foldl (fun s odd =>
    let base := s.slotBase x.tenant (x.partSlot odd)
    let rd := fun o i n => Tab.bytes s.mem (base + o + i) n
    let core := x.partCore odd
    let s := (x.partIdx odd).zipIdx.foldl (fun s (i, n) =>
      s.modWave (32 * g + i) fun w => w.fromImage x.alloc (rd (slotWaves + 2048 * n)) (rd (slotRegs + n * (256 * x.alloc)))) s
    let s := s.modCore core fun c => { c with acc := Tab.store c.acc (2048 * x.accBase) (rd slotBanks 0 (2048 * x.accCount)) }
    let s := s.modWg g fun y => { y with scr := Tab.store y.scr (if odd then 2 ^ 23 else 0) (rd slotScr 0 (2048 * x.scrUnits)) }
    match MatrixRegs.fromImage (rd 0) (rd slotMatrix) with
    | none => s
    | some e => (s.wgWaves g).foldl (fun s k => s.modWave k fun w =>
        { w with engs := w.engs.map fun (p, y) => (p, if p = (if odd then 1 else 0) then e else y) }) s) s

/-- A wave after a restore: one that waits at an object issues its instruction again (R410), the slot of its first issue kept as its
chunk's (R223); its latches are invalid. -/
def Wave.restored (w : Wave) : Wave :=
  if w.wait.kind = .far then w
  else
    let v := Wave.freshRun { w with wait := {}, held := none }
    { v with run := { v.run with slots := w.run.slots } }

/-- The stores of cores on which a workgroup takes a place are on, their banks active, and their level-1 lines dropped with the units
that the cache gives up (R45, R65, R73, R75). -/
def State.openStores (s : State) (cores : List Nat) : State :=
  cores.foldl (fun s c => ((s.l1Clear c).modCore c fun x => { x with storeOff := false }).touch ((List.range 48).map fun b => (c, b))) s
/-- A launch's first workgroup on a core drops its tenant's instruction lines there (R66). -/
def State.reach (s : State) (n : Nat) (cores : List Nat) : State :=
  let l := s.launch n
  ((cores.filter fun c => !l.reached.contains c).foldl (fun s c =>
    s.modCore c fun x => { x with icache := x.icache.filter (·.tenant != l.tenant) }) s).modLaunch n fun l =>
      { l with reached := (l.reached ++ cores).eraseDups }

def Launch.prio (x : Launch) : Nat := bits (x.record.getD 0 0) 6 4
/-- The victims on some cores in the order of R216: evictable workgroups of priority `prio` or lower, lowest priority first, then
highest index, then latest admission. -/
def State.victims (s : State) (prio : Nat) (cores : List Nat) : List Nat :=
  let key := fun (g : Nat) =>
    let x := s.wg g
    let l := s.launch x.launch
    (l.prio, x.index, l.admittedAt, x.launch)
  let before := fun (a b : Nat) =>
    let (p, i, t, n) := key a
    let (q, j, u, m) := key b
    decide (p < q) || (p == q && (decide (j < i) || (i == j && (decide (u < t) || (t == u && decide (m < n))))))
  sorted before (((cores.flatMap s.residents).map (·.1)).eraseDups.filter fun g =>
    s.evictable g && decide ((s.launch (s.wg g).launch).prio ≤ prio))
/-- The prefix of the victims of the first core or pair on which such a prefix makes room, if the tenant has slots for it. None while a save
of the tenant is in progress (R412). -/
def State.evictSet (s : State) (t prio : Nat) (n : Need) (order : List Nat) : Option (List Nat) :=
  if s.wgs.any fun (_, x) => x.live && x.saving && x.tenant == t then none
  else match order.findSome? fun c =>
      let vs := s.victims prio (if n.pair then [c, c + 1] else [c])
      (List.range' 1 vs.length).findSome? fun i => if (s.placeable t c n (vs.take i)).isSome then some (vs.take i) else none with
  | none => none
  | some vs =>
    let parts := (vs.map fun g => (s.wg g).parts.length).sum
    if (s.freeSlots t parts).isSome then some vs else none
/-- A placement on a core: each half makes one in a cycle (R215). One that would be its second waits for the next cycle, and those behind it
in the scheduler's order wait with it. -/
def State.onHalf (s : State) (c : Nat) (f : State → State) : State :=
  if s.halves.contains (c / 128) then { s with halves := [0, 1] } else f { s with halves := s.halves ++ [c / 128] }

/-- A ready workgroup is restored on the lowest-numbered core or pair that fits it (R217); where none does, victims make room for its
promised progress (R191). DESIGN CHOICE: a restore is no placement from which the launch's next search starts (log entry 62). -/
def execWorkgroupRestore (wg : Nat) (s : State) : Host.Outcome State Fault Refusal :=
  let x := s.wg wg
  if !(x.live && x.saved && x.ready) then s.done
  else
    let cores := if x.pair then (List.range 128).map (2 * ·) else List.range 256
    match cores.findSome? fun c => (s.placeable x.tenant c x.need []).map fun f => (c, f) with
    | none => (match s.evictSet x.tenant (s.launch x.launch).prio x.need cores with
      | some vs => s.push (vs.map fun g => .workgroupSave g)
      | none => s).done
    | some (c, b, fs) => (s.onHalf c fun s =>
      let at_ := if x.pair then [c, c + 1] else [c]
      let late := if at_.any fun e => (s.core e).storeOff then 200 else 0
      let s := ((s.reach x.launch at_).openStores at_).modWg wg fun g =>
        { g.placeOn c b fs with saved := false, restoring := true, ready := false, readyAt := s.cycle + late }
      let s := s.readSlots wg
      let s := (s.wgWaves wg).foldl (fun s k => s.modWave k fun w =>
        { w.restored.takeHalt with active := false }) s
      s.push [.restoreComplete wg]).done

/-- A restore ends (R411, R425): the slots are free; an unwind recorded meanwhile comes first; far data and queued traps are taken. -/
def execRestoreComplete (wg : Nat) (s : State) : Host.Outcome State Fault Refusal :=
  let x := s.wg wg
  if !x.restoring then s.done
  else
    let s := ((s.freeSlotsOf wg).modWg wg fun g => { g with restoring := false }).settleUnwind wg
    let s := (s.wgWaves wg).foldl (fun s k =>
      let s := s.farTry k
      if (s.wave k).trapQ.isEmpty then s else s.push [.trapDelivery k]) s
    s.wakeAll.done

end Sys2Proof.Machine
end

