-- ==== Sys2Proof/Machine/Sync.lean ====
section
/-!
DEFINITION. Synchronisation (R330 to R344) and completion counters (R376, R377): barrier objects, group synchronisation, stage queues,
window marks, CTRSET and CTRWAIT.
-/

namespace Sys2Proof.Machine

/-- The home object that an instruction names through its leading lane (R330, R376): the checks of R11 with the placement check in
the place of SCOPE, and the page's target before PERMISSION. `bad` is the cause and detail of a wrong place; `scr`: the scratchpad
window is allowed. -/
def State.homeObject (s : State) (ea : W64) (scr : Bool) (acc : Acc) (bad : Nat × Nat) : Except Stop Loc :=
  let k := s.cur.wave
  let tag := bits ea 63 62
  let own := (s.tenant (s.waveTenant k)).cur.jobRank.toNat
  let wrong := (tag = 1 ∧ (bits ea 61 56 ≠ 0 ∨ scr = false)) ∨ (tag = 3 ∧ bits ea 61 45 ≠ own)
  let placed : Except Stop Loc := .error (.trap bad.1 bad.2 ea)
  match resolve s k (leading s.cur.mask) ea 16 .chip acc with
  | .err e =>
    if e.order = 1 then .error (.trap e.cause e.detail ea)
    else if wrong then placed
    else if 6 < e.order ∧ 2 ≤ s.pageTgt k (leading s.cur.mask) ea ∧ tag ≠ 1 then placed
    else .error (.trap e.cause e.detail ea)
  | .miss va => if wrong then placed else .error (.walk va)
  | .ok r =>
    if wrong then placed
    else match r.target with
      | .chip (l :: _) => .ok l
      | _ => placed

def badBarrier : Nat × Nat := (causeBarrier, 2)
def badCounter : Nat × Nat := (causeEngine, 0x0C)

/-- The address and the second operand of the leading lane. -/
def State.leadA (s : State) (a : Operand) : W64 := s.me.read64 (leading s.cur.mask) a
def State.leadB (s : State) (b : Operand) : W32 := s.me.read32 (leading s.cur.mask) b

/-- An object found, and nothing to wait for before it is read or changed. -/
def State.withObject (s : State) (ea : W64) (scr : Bool) (acc : Acc) (bad : Nat × Nat) (f : Loc → Except State State) :
    Except State State :=
  match s.homeObject ea scr acc bad with
  | .error e => .error (s.stop e)
  | .ok l =>
    let x : Granted := (0, ea, { target := .chip ((List.range 16).map l.add), far := false, cnt := false })
    match s.accessWait s.cur.wave 16 acc.writes [x] with
    | some t => .error t
    | none => f l

/-- An object that its home reads for the wave (R43, R73). -/
def State.readObject (s : State) (l : Loc) (ea : W64) : State :=
  (if countedAt s s.cur.wave (leading s.cur.mask) ea then s.countLine l.line false false else s).useBanks [l.line]

/-- A closing change of a home object: its line enters both signatures (R82, R334). -/
def State.closeAt (s : State) (l : Loc) (ea : W64) (c : Closing) : State :=
  let k := s.cur.wave
  let cnt := countedAt s k (leading s.cur.mask) ea
  ((s.noteRead k [l]).noteWrite k [l]).modWave k fun w => { w with run := { w.run with closing := c, closingCnt := cnt } }

/-- A wait begins, and ends at once where its condition already holds. -/
def State.waitOn (s : State) (i : Instr) (x : Waiting) : State :=
  let t := s.beginWait i x
  if t.waitMet x then t.release t.cur.wave else t

/-! ### Barriers -/

def State.barrierWith (s : State) (i : Instr) (a : Operand) (op : State → Except State BarOp) : Host.Outcome State Fault Refusal :=
  s.perform i false fun t =>
    let ea := t.leadA a
    t.withObject ea true .atomic badBarrier fun l =>
      match op t with
      | .error u => .error u
      | .ok o => .ok (t.closeAt l ea (.barrier o l ea t.cur.pc t.cur.mask))

/-- BINIT (R333): a count outside 1 to 1,048,575 traps at issue. -/
def execBinit (a b : Operand) (s : State) : Host.Outcome State Fault Refusal :=
  s.barrierWith (.binit a b) a fun t =>
    let n := (t.leadB b).toNat
    if 1 ≤ n ∧ n ≤ 1048575 then .ok (.init n) else .error (t.trap causeBarrier 3 t.cur.mask (t.leadA a))
def execBarr (a : Operand) (s : State) : Host.Outcome State Fault Refusal :=
  s.barrierWith (.barr a) a fun _ => .ok .arrive
def execBexp (a b : Operand) (s : State) : Host.Outcome State Fault Refusal :=
  s.barrierWith (.bexp a b) a fun t => .ok (.expect (t.leadB b).toInt)

/-- BWAIT (R335). -/
def execBwait (w : Bool) (d a b : Operand) (s : State) : Host.Outcome State Fault Refusal :=
  s.perform (.bwait w d a b) false fun t =>
    let ea := t.leadA a
    t.withObject ea true .read badBarrier fun l =>
      .error ((t.readObject l ea).waitOn (.bwait w d a b)
        { kind := .bwait, ea := ea, obj := some l, val := BitVec.ofNat 64 (bits (t.leadB b) 15 0), pc := t.cur.pc, mask := t.cur.mask,
          w := w, d := d })

/-- BTEST (R336): an ordinary 16-byte load inside the running chunk. -/
def execBtest (w : Bool) (d a b : Operand) (s : State) : Host.Outcome State Fault Refusal :=
  s.perform (.btest w d a b) false fun t =>
    t.withObject (t.leadA a) true .read badBarrier fun l =>
      let k := t.cur.wave
      let x := Barrier.ofBytes (t.chunkBytes k ((List.range 16).map l.add))
      let st := x.status (bits (t.leadB b) 15 0)
      let u := (t.readLines t.myCore [(l, countedAt t k (leading t.cur.mask) (t.leadA a))]).useBanks [l.line]
      .ok (((u.noteRead k [l]).modWave k fun w => { w with run := { w.run with rbytes := w.run.rbytes + 16 } }).results w d 1
        fun _ _ => st.setWidth 128)

/-- What an operation on an object of device memory waits for. -/
def State.waitLine (s : State) (line : Nat) : Option Stall := s.locStall s.cur.wave true (.mem line)

/-- GSYNC (R338): the wave's arrival for its next phase, the workgroup's when it is due, and the wait. -/
def execGsync (w : Bool) (d : Operand) (n : BitVec 8) (s : State) : Host.Outcome State Fault Refusal :=
  s.perform (.gsync w d n) false fun t =>
    let k := t.cur.wave
    match t.myWg.groups.idxOf? n.toNat with
    | none => .error (t.trap causeBarrier 5 t.cur.mask (n.setWidth 64))
    | some i =>
      match (t.groupObj t.me.wg i).bind t.waitLine with
      | some st => .error (t.stallOn st)
      | none =>
      let q := t.me.gDone.getD i 0
      let t := t.modWave k fun w => { w with gArrived := setAt w.gArrived i true }
      let bad := t.arrivalFault t.me.wg
      let t := t.makeArrivals t.me.wg
      let u := (t.waitOn (.gsync w d n)
        { kind := .gsync, obj := (t.groupObj t.me.wg i).map .mem, val := BitVec.ofNat 64 (i * 65536 + q % 65536), pc := t.cur.pc,
          mask := t.cur.mask, w := w, d := d }).wakeAll
      .error (match bad with
        | some (d, at_) => u.trapAsync k t.cur.pc causeBarrier d true t.cur.mask at_
        | none => u)

/-! ### Stage queues (R339 to R342) -/

def State.myStages (s : State) : List Stage := (s.launch s.myWg.launch).stages
/-- STAGE_QUEUE of the issuing set: detail, with the stage number (R206, R342). -/
def State.stageTrap (s : State) (detail : Nat) : State := s.trap causeStage detail s.cur.mask (BitVec.ofNat 64 s.myWg.stage)

/-- The queue that stage `n` pushes to, if pair a names it. -/
def State.queueOf (s : State) (n : Nat) (last : Bool) (a : W64) : Except Nat Nat :=
  match s.myStages[n]? with
  | none => .error 1
  | some g => if last then .error 1 else if g.oq = a then .ok g.oqDpa else .error 2

/-- QPUSH (R340): the registers are read at issue. -/
def execQpush (w : Bool) (d a b : Operand) (s : State) : Host.Outcome State Fault Refusal :=
  s.perform (.qpush w d a b) false fun t =>
    let n := t.myWg.stage
    match t.queueOf n (n + 1 = t.myStages.length) (t.leadA a) with
    | .error x => .error (t.stageTrap x)
    | .ok line =>
      match t.waitLine line with
      | some st => .error (t.stallOn st)
      | none =>
        let es := t.myLanes.map fun l => (l, t.me.group l 16 b)
        let t := t.modWave t.cur.wave fun x => if w then x.saveRows (destRegs d 1) else x
        .ok (t.closeAt (.mem line) (t.leadA a) (.qpush line es w d))

/-- QPOP (R341). -/
def execQpop (w : Bool) (d a b : Operand) (s : State) : Host.Outcome State Fault Refusal :=
  s.perform (.qpop w d a b) false fun t =>
    let n := t.myWg.stage
    match t.queueOf (n - 1) (n = 0) (t.leadA a) with
    | .error x => .error (t.stageTrap x)
    | .ok line =>
      match t.waitLine line with
      | some st => .error (t.stallOn st)
      | none =>
        .error (t.waitOn (.qpop w d a b)
          { kind := .qpop, ea := t.leadA a, obj := some (.mem line), pc := t.cur.pc, mask := t.cur.mask, w := w, d := d, b := b }).wakeAll

/-! ### Completion counters (R376, R377) -/

def execCtrset (a b : Operand) (s : State) : Host.Outcome State Fault Refusal :=
  s.perform (.ctrset a b) false fun t =>
    t.withObject (t.leadA a) false .atomic badCounter fun l =>
      .ok (t.closeAt l (t.leadA a) (.ctrset l (t.me.read64 (leading t.cur.mask) b)))

def execCtrwait (a b : Operand) (s : State) : Host.Outcome State Fault Refusal :=
  s.perform (.ctrwait a b) false fun t =>
    let ea := t.leadA a
    t.withObject ea false .read badCounter fun l =>
      .error ((t.readObject l ea).waitOn (.ctrwait a b)
        { kind := .ctrwait, ea := ea, obj := some l, val := t.me.read64 (leading t.cur.mask) b, pc := t.cur.pc, mask := t.cur.mask })

/-! ### LOGMARK (R343) -/

/-- A window is requested; it opens when the context's waves and engines allow (R448). -/
def State.wantWindow (s : State) (t : Nat) : State :=
  s.push [.logWindowOpen t]

def execLogmark (w : Bool) (d : Operand) (s : State) : Host.Outcome State Fault Refusal :=
  s.perform (.logmark w d) false fun t =>
    let ten := t.waveTenant t.cur.wave
    if (t.tenant ten).logging then
      .error ((t.beginWait (.logmark w d)
        { kind := .logmark, pc := t.cur.pc, mask := t.cur.mask, w := w, d := d }).wantWindow ten)
    else .ok (t.results w d 1 fun _ _ => 0xFFFFFFFF)

end Sys2Proof.Machine
end

