-- ==== Sys2Proof/Machine/System.lean ====
section
/-!
DEFINITION. System instructions (R378 to R393): traps, control registers, containment, progress points, translation invalidation,
bias flips, the time base, rank and stage queries, and launches.
-/

namespace Sys2Proof.Machine

/-! ### TRAP and TRET (R381, R382) -/

def execTrap (n : BitVec 15) (s : State) : Host.Outcome State Fault Refusal :=
  s.perform (.trap n) false fun t =>
    .ok (t.trapNext t.cur.wave t.cur.pc causeSoftware 0 t.cur.mask (n.setWidth 64))

def execTret (s : State) : Host.Outcome State Fault Refusal :=
  match s.gate .tret with
  | .error t => .next t
  | .ok t =>
    if t.me.handler then
      -- the handler's chunk that holds TRET commits, and the saved state comes back
      let k := t.cur.wave
      let t := t.count k t.cur.pc
      let c := t.me.run
      match t.logCommit k c true t.lastTs with
      | none => .next ((t.refuseLog k t.me.lanes).modWave k fun w => { w with run := { w.run with issued := 0 } })
      | some t =>
        let t := (t.commitMarks k c).trapReturn k
        .next (if c.step.isSome then t.modWave k Wave.endStep else t)
    else .next (t.trap causeIllegal 0x08 t.cur.mask (t.cur.word.setWidth 64))

/-! ### Control registers (R383 to R385) -/

def csrFrame : Csr → Bool
  | .tcause | .tpc | .tfpc | .tmask | .tinfo => true
  | _ => false

/-- The value lane l reads. -/
def State.csrValue (s : State) (n : Csr) (l : Nat) : W64 :=
  let w := s.me
  let t := s.tenant (s.waveTenant s.cur.wave)
  match n with
  | .ptRoot => t.cur.ptRoot
  | .rgnBase => t.cur.rgnBase
  | .rankBase => t.cur.rankBase
  | .rankCount => t.cur.rankCount
  | .jobRank => t.cur.jobRank
  | .jobSize => t.cur.jobSize
  | .jobPrefix => t.cur.jobPrefix
  | .poisonStat => BitVec.ofNat 64 t.poisonStat
  | .scopeCfg => s.scopeCfg
  | .podCfg => t.cur.podCfg
  | .psetBase => t.cur.psetBase
  | .psetCount => t.cur.psetCount
  | .podTime => BitVec.ofNat 64 t.podClock
  | .fpctl => w.fpctl
  | .tvec => t.cur.tvec
  | .tcause => w.tcause
  | .tpc => w.tpc.getD l 0
  | .tfpc => w.tfpc
  | .tmask => w.tmask
  | .tinfo => w.tinfo
  | .cntStat => s.myWg.cntStat
  | .progcnt i => t.progcnt.getD i.val 0

/-- Values that the log takes as inputs (R446). -/
def csrLogged : Csr → Bool
  | .podTime | .progcnt _ => true
  | _ => false

def State.privilege (s : State) (detail : Nat) (n : Csr) : State := s.trap causePrivilege detail s.cur.mask (n.code.setWidth 64)

def execCsrr (w : Bool) (d : Operand) (n : Csr) (s : State) : Host.Outcome State Fault Refusal :=
  s.perform (.csrr w d n) false fun t =>
    if csrFrame n && !t.me.handler then .error (t.privilege 2 n)
    else
      if csrLogged n then
        (t.inputs 8 (t.myLanes.map fun l => (l, (t.csrValue n l).toNat))).map fun (u, vs) => u.results w d 2 fun _ l => inputAt vs l
      else .ok (t.results w d 2 fun _ l => (t.csrValue n l).setWidth 128)

def execCsrw (a : Operand) (n : Csr) (s : State) : Host.Outcome State Fault Refusal :=
  s.perform (.csrw a n) false fun t =>
    let k := t.cur.wave
    if csrFrame n && !t.me.handler then .error (t.privilege 2 n)
    else match n with
      | .fpctl =>
        let v := t.leadA a
        if v &&& fpReserved ≠ 0 then .error (t.trap causeReserved 2 t.cur.mask (t.cur.word.setWidth 64))
        else .ok (t.modWave k fun w => { w with fpctl := v })
      | .tpc =>
        let w := t.me
        .ok (t.modWave k fun x => { x with tpc := t.myLanes.foldl (fun ps l => ps.set l (w.read64 l a)) x.tpc })
      | _ => .error (t.privilege 1 n)

/-! ### Containment and progress points (R386, R389) -/

/-- CNTOPEN (R386): under .r with logging on, the region opens with the window it asks for (R448). -/
def execCntopen (a : Operand) (r : Bool) (s : State) : Host.Outcome State Fault Refusal :=
  s.perform (.cntopen a r) false fun t =>
    let h := t.leadA a
    let ten := t.waveTenant t.cur.wave
    if t.myWg.cntOpen then .ok t
    else if r && (t.tenant ten).logging then
      .error ((t.beginWait (.cntopen a r) { kind := .cntopen, val := h, pc := t.cur.pc, mask := t.cur.mask }).wantWindow ten)
    else .ok (t.modWg t.me.wg fun g => { g with cntOpen := true, cntRev := r, cntH := h, cntStat := 0xFFFFFFFF })
def execCntclose (s : State) : Host.Outcome State Fault Refusal :=
  s.simple .cntclose fun t => t.modWg t.me.wg fun g => { g with cntOpen := false }

def execProgpt (n : BitVec 4) (s : State) : Host.Outcome State Fault Refusal :=
  s.simple (.progpt n) fun t =>
    t.modWave t.cur.wave fun w => { w with run := { w.run with prog := w.run.prog ++ [(n.toNat, t.myLanes.length)] } }

/-! ### Translation (R390) -/

/-- An outstanding engine command of a tenant that holds translations. -/
def Cmd.translates (c : Cmd) (t : Nat) : Bool :=
  c.tenant == t && !c.held && (match c.op with
    | .mgath | .mmaF .. | .mmaI .. | .mscale _ | .mzero | .msnap => false
    | _ => true)

/-- The entries, in every cache, dropped once the tenant's engine commands and the packets in work for it have finished with their
pages; until then the wave waits. -/
def State.invalidate (s : State) (drop : Nat → Nat → Bool) : Except State State :=
  let t := s.waveTenant s.cur.wave
  if s.cmds.any (·.translates t) || s.arrivals.any (·.tenant == t) then .error (s.hold .localmem)
  else .ok { s with
    tlb := s.tlb.filter fun e => !(e.tenant == t && drop (e.va / e.size) e.size),
    walkCache := s.walkCache.filter fun w => !(w.tenant == t && drop w.unit (2 ^ (12 + 9 * w.level))) }

/-- The address checks of TLBINV and BIASFLIP: tag 0b00 and bits [61:57] zero. -/
def tag00 (ea : W64) : Option Nat :=
  if bits ea 63 62 = 2 then some 1 else if bits ea 63 57 ≠ 0 then some 3 else none

def execTlbinv (a : Operand) (s : State) : Host.Outcome State Fault Refusal :=
  s.perform (.tlbinv a) false fun t =>
    let ea := t.leadA a
    match tag00 ea with
    | some d => .error (t.trap causeAddrTag d t.cur.mask ea)
    | none => t.invalidate fun unit size => ea.toNat / size == unit
def execTlbinvAll (s : State) : Host.Outcome State Fault Refusal :=
  s.perform .tlbinvAll false fun t => t.invalidate fun _ _ => true

/-- A walk for a cache and a tenant completes (R15, R38): the waiting access is issued again and finds the translation, or its fault. -/
def execPageWalk (asker : TlbHome × Nat) (va : W64) (s : State) : Host.Outcome State Fault Refusal :=
  (s.fillTlb asker.1 asker.2 va.toNat).done

/-- The words of an instruction line at a translation. DESIGN CHOICE: a line of an executable host or pool page is filled with words
that the model leaves free, as the host or the pool device answers them (log entry 54). -/
def State.lineWords (s : State) (e : Tlb) (va : Nat) : List W32 :=
  let pa := e.pa + (va - e.va)
  (List.range 32).map fun i =>
    if e.tgt.toNat < 2 then le32 (Tab.bytes s.mem ((if e.tgt = 0 then 0 else tierBase) + pa + 4 * i) 4)
    else Config.outsideWord s.fresh e.tgt.toNat (pa + 4 * i)
/-- A line fill completes (R178): the words as memory holds them now enter the instruction cache (R66), in the place of a free
victim when it is full. A fill from the last-level cache counts as a line read (R43). -/
def execIcacheFill (core tenant : Nat) (line : W64) (s : State) : Host.Outcome State Fault Refusal :=
  let s := s.modCore core fun c => { c with fills := c.fills.filter fun f => f.2 != (tenant, line) }
  match translate s (.l1 core) tenant line.toNat with
  | .hit e =>
    if (pageCheck s e line.toNat 4 .fetch).isSome then s.done
    else
      let ws := s.lineWords e line.toNat
      let s := if e.cnt && e.tgt.toNat < 2 then
          s.countLine (.mem ((if e.tgt = 0 then 0 else tierBase) + e.pa + (line.toNat - e.va))) false false else s
      let old := (s.core core).icache.filter fun l => !(l.tenant == tenant && l.va == line)
      let old := if 512 ≤ old.length then old.eraseIdx (Config.victim s.fresh % 512) else old
      (({ s with fresh := s.fresh + 1 } : State).modCore core fun c => { c with icache := { tenant := tenant, va := line, words := ws } :: old }).done
  | _ => s.done

/-! ### Bias flips (R153 to R155, R391) -/

/-- A flip of the page that holds the address: completes at once in PCIe mode, for host and pool pages, and for a page already in the
requested bias; else the wave waits until the flip is done. -/
def State.biasFlip (s : State) (a : Operand) (toHost : Bool) : Except State State :=
  let k := s.cur.wave
  let ea := s.leadA a
  match tag00 ea with
  | some d => .error (s.trap causeAddrTag d s.cur.mask ea)
  | none =>
    match resolve s k (leading s.cur.mask) ea 1 .chip .write with
    | .miss va => .error (s.stop (.walk va))
    | .err e => .error (s.trap e.cause e.detail s.cur.mask ea)
    | .ok r =>
      match r.target with
      | .chip (.mem d :: _) =>
        let page := d / 4096
        if !s.cxl then .ok s
        else if s.flips.any (·.page == page) then .error (s.hold .localmem)
        else if s.hostBias d = toHost then .ok s
        else
          let t : State := { s with flips := s.flips ++ [{ page := page, toHost := toHost, wave := k, movers := s.moversOf page }] }
          .error ((t.push [.biasFlipComplete page]).hold .localmem)
      | _ => .ok s

def execBiasflipHost (a : Operand) (s : State) : Host.Outcome State Fault Refusal :=
  s.perform (.biasflipHost a) false fun t => t.biasFlip a true
def execBiasflipDev (a : Operand) (s : State) : Host.Outcome State Fault Refusal :=
  s.perform (.biasflipDev a) false fun t => t.biasFlip a false

/-! ### Queries (R378, R380, R392) -/

/-- CLKQ (R392): nanoseconds since reset. -/
def execClkq (w : Bool) (d : Operand) (s : State) : Host.Outcome State Fault Refusal :=
  s.perform (.clkq w d) false fun t =>
    let v := t.time / 756
    (t.inputs 8 (t.myLanes.map fun l => (l, v % 2 ^ 64))).map fun (u, vs) => u.results w d 2 fun _ l => inputAt vs l

def execRankq (w : Bool) (d : Operand) (n : BitVec 2) (s : State) : Host.Outcome State Fault Refusal :=
  s.perform (.rankq w d n) false fun t =>
    let c := (t.tenant (t.waveTenant t.cur.wave)).cur
    let v := match n.toNat with
      | 0 => c.jobRank.toNat
      | 1 => c.jobSize.toNat
      | 2 => t.accel
      | _ => t.myCore
    if n = 3 then (t.inputs 4 (t.myLanes.map fun l => (l, v % 2 ^ 32))).map fun (u, vs) => u.results w d 1 fun _ l => inputAt vs l
    else .ok (t.results w d 1 fun _ _ => BitVec.ofNat 128 (v % 2 ^ 32))

/-- Resident workgroups of a stage, those being placed among them. -/
def State.stageRes (s : State) (launch stage : Nat) : Nat :=
  (s.wgs.filter fun p => p.2.live && p.2.launch == launch && p.2.stage == stage && !p.2.saved).length
/-- At least three quarters of a queue's entries are held (R218). -/
def State.queueFull (s : State) (dpa : Nat) : Bool :=
  let q := s.queueAt dpa
  decide (3 * 2 ^ q.2.2.2 ≤ 4 * queueOcc q)

/-- The word of STAGEX (R380). -/
def State.stageWord (s : State) (g : Wg) : W32 :=
  let st := (s.launch g.launch).stages
  let res := s.stageRes g.launch g.stage
  let out := g.stage + 1 < st.length && s.queueFull ((st.getD g.stage {}).oqDpa)
  let input := s.queueAt ((st.getD (g.stage - 1) {}).oqDpa)
  let drained := decide (0 < g.stage) && input.2.2.1 && queueOcc input == 0
  let target := (st.getD g.stage {}).target
  let higher := (s.wgs.filter fun p => p.2.live && p.2.launch == g.launch && p.2.stage == g.stage && decide (g.slotNo < p.2.slotNo)).length
  let shrink := decide (0 < g.stage) && decide (target < res) && decide (higher < res - target)
  BitVec.ofNat 32 (min res 65535 * 65536 + g.stage * 256 + (if out then 4 else 0) + (if drained then 2 else 0) + (if shrink then 1 else 0))

def execStagex (w : Bool) (d : Operand) (s : State) : Host.Outcome State Fault Refusal :=
  s.perform (.stagex w d) false fun t =>
    if t.myStages.isEmpty then .error (t.stageTrap 1)
    else
      let v := t.stageWord t.myWg
      (t.inputs 4 (t.myLanes.map fun l => (l, v.toNat))).map fun (u, vs) => u.results w d 1 fun _ l => inputAt vs l

/-! ### LAUNCH (R379) -/

/-- An end of a LAUNCH: placement before the checks of R11, range by range. -/
def State.launchEnd (s : State) (ea : W64) (n : Nat) (acc : Acc) : Except Stop (List Loc) :=
  let k := s.cur.wave
  let own := (s.tenant (s.waveTenant k)).cur.jobRank.toNat
  let place : Except Stop (List Loc) := .error (.trap causeEngine 0x0B ea)
  if bits ea 63 62 = 3 ∧ bits ea 61 45 ≠ own then place
  else (List.range (n / 8)).foldlM (fun ls i =>
    match resolve s k (leading s.cur.mask) (ea + BitVec.ofNat 64 (8 * i)) 8 .chip acc with
    | .miss va => .error (.walk va)
    | .err e => .error (.trap e.cause e.detail ea)
    | .ok r => match r.target with
      | .chip bs => .ok (ls ++ bs)
      | _ => place) []

def State.launchChecks (s : State) (c : W32) (a b : W64) (remote : Bool) : Except Stop (List Loc × Option Loc) := do
  demand (bits c 14 4 = 0 && (remote || bits c 31 15 = 0) && a.toNat % 64 = 0 && b.toNat % 8 = 0) causeEngine 5
    (if a.toNat % 64 ≠ 0 then a else if b.toNat % 8 ≠ 0 then b else s.cur.word.setWidth 64)
  let rec_ ← s.launchEnd a 64 .read
  if b = 0 then return (rec_, none)
  let st ← s.launchEnd b 8 .write
  return (rec_, st.head?)

def State.launchWith (s : State) (i : Instr) (c a b : VReg) (remote : Bool) : Host.Outcome State Fault Refusal :=
  s.perform i false fun t =>
    let l := leading t.cur.mask
    let cw := t.me.read32 l (.v c)
    let aw := t.me.read64 l (.v a)
    match t.launchChecks cw aw (t.me.read64 l (.v b)) remote with
    | .error e => .error (t.stop e)
    | .ok (ls, st) =>
      if remote && t.frozen then .error (t.hold .farmem)
      else
        let put := fun (u : State) => u.modWave u.cur.wave fun w =>
          { w with run := { w.run with closing := .launch (bits cw 3 0) (if remote then some (bits cw 31 15) else none) ls st } }
        if remote then match t.logSeal t.cur.wave aw with
          | some u => .ok (put u)
          | none => .error t.logHold
        else .ok (put t)

def execLaunch (c a b : VReg) (s : State) : Host.Outcome State Fault Refusal := s.launchWith (.launch c a b) c a b false
def execLaunchRank (c a b : VReg) (s : State) : Host.Outcome State Fault Refusal := s.launchWith (.launchRank c a b) c a b true

/-- The reply for a LAUNCH.rank record (R379): its status word is written. -/
def execLaunchStatusResponse (_tenant tag code : Nat) (s : State) : Host.Outcome State Fault Refusal :=
  match s.launchTags.find? (·.1 == tag) with
  | none => s.done
  | some (_, l) =>
    let s := { s with launchTags := s.launchTags.filter (·.1 != tag) }
    (s.atHome l (.put (bytes64 (BitVec.ofNat 64 (code % 256))))).wakeAll.done

end Sys2Proof.Machine
end

