-- ==== Sys2Proof/Machine/Sched.lean ====
section
/-!
DEFINITION. From launch record to workgroup (R187 to R218): validation, admission, placement, retirement, the queues of stages, and
the completion of a launch.
-/

namespace Sys2Proof.Machine

/-! ### The launch record (R207, R208) -/

/-- Doubleword i of a record. -/
def recW (r : List W64) (i : Nat) : W64 := r.getD i 0
def recThreads (r : List W64) : Nat := bits (recW r 2) 31 20
def recWaves (r : List W64) : Nat := (recThreads r + 63) / 64
def recPair (r : List W64) : Bool := (recW r 0).getLsbD 3
def recPrio (r : List W64) : Nat := bits (recW r 0) 6 4
def recNwg (r : List W64) : Nat := bits (recW r 2) 63 32
def recDone (r : List W64) : Nat := bits (recW r 4) 56 6 * 64
def recXptr (r : List W64) : Nat := bits (recW r 5) 56 6 * 64
def recXk (r : List W64) : Bool := (recW r 0).getLsbD 1

/-- The DPA of a 32-byte completion block or counter, where it resolves as R208 requires. -/
def State.doneBlock (s : State) (t va : Nat) : Option Nat := if va = 0 ∨ 2 ^ 57 ≤ va then none else deviceVa s t va 32 true

/-- The virtual address of the counter of dependence n, if it is named. -/
def recDep (r : List W64) (n : Nat) : Option (W64 × W32) :=
  let d := recW r (6 + n)
  if bits d 63 32 = 0 then none
  else some (BitVec.ofNat 64 (recDone r) + ((d.extractLsb' 32 32).signExtend 64 <<< 6), d.setWidth 32)
def recDeps (r : List W64) : List (W64 × W32) := (recDep r 0).toList ++ (recDep r 1).toList

/-! ### Tables in device virtual memory -/

/-- A word of a table that validation reads; none where it cannot be read. -/
def State.tableBytes (s : State) (t va n : Nat) : Option (List Byte) :=
  if 2 ^ 57 ≤ va then none
  else (deviceVa s t va n false).bind fun a => if s.poisoned a then none else some (Tab.bytes s.mem a n)
def State.tableW (s : State) (t va : Nat) : Option W64 := (s.tableBytes t va 8).map le64

def rising : List Nat → Bool
  | a :: b :: xs => decide (a < b) && rising (b :: xs)
  | _ => true

/-- A group entry (R192, R193): its object and its members, if it is well formed. -/
def State.groupEntry (s : State) (t va nwg : Nat) : Option Group := do
  let w0 ← s.tableW t va
  let w1 ← s.tableW t (va + 8)
  let w2 ← s.tableW t (va + 16)
  let w3 ← s.tableW t (va + 24)
  let n := bits w1 51 32
  let first := bits w1 31 0
  if bits w0 63 57 ≠ 0 ∨ bits w0 3 0 ≠ 0 ∨ bits w1 61 52 ≠ 0 ∨ w3 ≠ 0 ∨ n = 0 then none
  else if (deviceVa s t (bits w0 56 4 * 16) 16 true).isNone then none
  else if bits w1 63 62 = 0 then
    let step := bits w2 31 0
    if bits w2 63 32 ≠ 0 ∨ step = 0 ∨ nwg ≤ first + (n - 1) * step then none
    else some { bar := BitVec.ofNat 64 (bits w0 56 4 * 16), members := (List.range n).map fun i => first + i * step }
  else if bits w1 63 62 = 1 then
    if bits w2 63 57 ≠ 0 ∨ bits w2 1 0 ≠ 0 ∨ first ≠ 0 then none
    else
      let ms ← (List.range n).mapM fun i => (s.tableBytes t (bits w2 56 2 * 4 + 4 * i) 4).map leNat
      if rising ms && ms.all (decide <| · < nwg) then some { bar := BitVec.ofNat 64 (bits w0 56 4 * 16), members := ms } else none
  else none

/-- The group table of a record: every group, and no workgroup in more than four (R193). -/
def State.groupTable (s : State) (t : Nat) (r : List W64) : Option (List Group) := do
  let va := recXptr r
  let h ← s.tableW t va
  let z ← s.tableW t (va + 8)
  let n := bits h 8 0
  if bits h 63 9 ≠ 0 ∨ z ≠ 0 ∨ n = 0 ∨ 256 < n then none
  else
    let gs ← (List.range n).mapM fun i => s.groupEntry t (va + 16 + 32 * i) (recNwg r)
    let all := gs.flatMap (·.members)
    if all.any fun m => decide (4 < (all.filter (· == m)).length) then none else some gs

/-- A stage entry (R202); stage 0 takes its shape from the record, the last stage has no queue. -/
def State.stageEntry (s : State) (t : Nat) (r : List W64) (i nst : Nat) : Option Stage := do
  let ws ← (List.range 8).mapM fun j => s.tableW t (recXptr r + 64 + 64 * i + 8 * j)
  let w := fun j => ws.getD j 0
  let last := i = nst
  let depth := bits (w 6) 4 0
  if w 7 ≠ 0 ∨ bits (w 5) 63 57 ≠ 0 ∨ bits (w 5) 6 0 ≠ 0 ∨ bits (w 6) 63 5 ≠ 0 then none
  else if (if last then w 5 ≠ 0 ∨ depth ≠ 0 else depth < 6 ∨ 16 < depth) then none
  else
    let oq := bits (w 5) 56 7 * 128
    let dpa ← if last then some 0 else deviceVa s t oq 128 true
    if i = 0 then
      if w 0 ≠ 0 ∨ w 1 ≠ 0 ∨ w 2 ≠ 0 ∨ w 3 ≠ 0 ∨ w 4 ≠ 0 then none
      else some { oq := BitVec.ofNat 64 oq, odepth := depth, oqDpa := dpa, slots := 65535 }
    else if bits (w 0) 63 57 ≠ 0 ∨ bits (w 0) 1 0 ≠ 0 ∨ 128 < bits (w 2) 63 56 ∨ bits (w 2) 55 49 = 0 ∨ 120 < bits (w 2) 55 49
        ∨ bits (w 2) 48 44 = 0 ∨ 16 < bits (w 2) 48 44 ∨ 384 < bits (w 2) 43 35 ∨ bits (w 2) 34 0 ≠ 0 ∨ bits (w 4) 63 48 = 0
        ∨ bits (w 4) 47 21 ≠ 0 ∨ 1048576 < bits (w 4) 20 0 ∨ bits (w 4) 3 0 ≠ 0 then none
    else some { entry := w 0, args := w 1, acc := bits (w 2) 63 56, regs := bits (w 2) 55 49, waves := bits (w 2) 48 44,
                scr := bits (w 2) 43 35, pbase := w 3, slots := bits (w 4) 63 48, priv := bits (w 4) 20 0,
                oq := BitVec.ofNat 64 oq, odepth := depth, oqDpa := dpa }
def State.stageTable (s : State) (t : Nat) (r : List W64) : Option (List Stage) := do
  let hs ← (List.range 8).mapM fun j => s.tableW t (recXptr r + 8 * j)
  let h := hs.headD 0
  if bits h 63 3 ≠ 0 ∨ (hs.drop 1).any (· != 0) then none
  else (List.range (bits h 2 0 + 1)).mapM fun i => s.stageEntry t r i (bits h 2 0)

def State.groupsOf (s : State) (t : Nat) (r : List W64) : Option (List Group) :=
  if recXk r ∨ recXptr r = 0 then some [] else s.groupTable t r
def State.stagesOf (s : State) (t : Nat) (r : List W64) : Option (List Stage) :=
  if !recXk r ∨ recXptr r = 0 then some [] else s.stageTable t r

/-! ### Validation (R209, R210) -/

/-- The lowest rejection code that a record meets, DONE aside. -/
def State.rejection (s : State) (t : Nat) (r : List W64) : Option Nat :=
  let w := recW r
  let regs := bits (w 0) 63 57
  let th := recThreads r
  let range := regs = 0 ∨ 120 < regs ∨ (if recPair r then th < 65 ∨ 2048 < th ∨ 192 < bits (w 2) 19 11
      else th < 1 ∨ 1024 < th ∨ 384 < bits (w 2) 19 11) ∨ 128 < bits (w 2) 10 3 ∨ 65536 < bits (w 3) 20 4 ∨ recNwg r = 0
  let reserved := bits (w 1) 63 57 ≠ 0 ∨ bits (w 2) 2 0 ≠ 0 ∨ bits (w 3) 63 57 ≠ 0 ∨ bits (w 3) 3 0 ≠ 0 ∨ bits (w 4) 63 57 ≠ 0
      ∨ bits (w 4) 5 0 ≠ 0 ∨ bits (w 5) 63 57 ≠ 0 ∨ bits (w 5) 5 0 ≠ 0
  if range then some 1
  else if reserved then some 2
  else if recPair r ∧ recWaves r % 2 = 1 then some 3
  else if (s.groupsOf t r).isNone then some 4
  else if (s.stagesOf t r).isNone ∨ (recPair r ∧ recXk r) then some 5
  else if (recDeps r).any fun d => (s.doneBlock t d.1.toNat).isNone then some 6
  else none

/-- The head record leaves its queue. -/
def State.popRecord (s : State) (t q : Nat) : State :=
  s.modTenant t fun x => { x with queues := x.queues.modify q fun z =>
    { z with recs := z.recs.drop 1, stamps := z.stamps.drop 1, validated := false } }

/-- LAST_REJECT takes a discarded record. -/
def rejectWord (w : W64) (q : Nat) : W64 :=
  if w.getLsbD 63 then
    let n := min 65535 (bits w 47 32 + 1)
    (w &&& ~~~(0xFFFF#64 <<< 32)) ||| BitVec.ofNat 64 (2 ^ 62 + n * 2 ^ 32)
  else BitVec.ofNat 64 (2 ^ 63 + 7 * 2 ^ 48 + 2 ^ 32 + q % 16)

/-- The count that tells of a launch's end, and its vector (R211). -/
def State.countDone (s : State) (t : Nat) (r : List W64) (done : Option Nat) : State :=
  let s := match done with
    | some a => s.atHome (.mem a) (.count 1 1)
    | none => s
  (if (recW r 0).getLsbD 0 then s.vector t (bits (recW r 1) 5 0) else s).wakeAll

def execLaunchValidate (tenant queue : Nat) (s : State) : Host.Outcome State Fault Refusal :=
  let q := (s.tenant tenant).queues.getD queue {}
  match q.recs with
  | [] => s.done
  | r :: rest =>
    if q.validated then s.done
    else
      let next := if rest.isEmpty then [] else [Instr.launchValidate tenant queue]
      match s.doneBlock tenant (recDone r) with
      | none =>
        let s := (s.popRecord tenant queue).modTenant tenant fun x => { x with lastReject := rejectWord x.lastReject queue }
        ((s.interrupt tenant 0).push next).done
      | some a =>
        match s.rejection tenant r with
        | some code =>
          let s := (s.popRecord tenant queue).faultCellAt tenant (some a) 0 code 0 0
          ((s.countDone tenant r (some a)).push next).done
        | none =>
          let s := s.modTenant tenant fun x => { x with queues := x.queues.modify queue fun z => { z with validated := true } }
          (s.push [.launchAdmit tenant queue]).done

/-! ### Admission (R213) -/

/-- Every named dependence is met. -/
def State.depsMet (s : State) (t : Nat) (r : List W64) : Bool :=
  (recDeps r).all fun (va, v) => match s.doneBlock t va.toNat with
    | some a => decide (((s.ld64 a).setWidth 32 - v).toNat < 2 ^ 31)
    | none => false

/-- The head of a queue waits for an active slot alone: its priority and arrival. -/
def State.readyHead (s : State) (t q : Nat) : Option (Nat × Nat) :=
  let x := s.tenant t
  let z := x.queues.getD q {}
  match z.recs with
  | [] => none
  | r :: _ => if z.validated && !x.stopAdmit && s.depsMet t r then some (recPrio r, z.stamps.headD 0) else none

def State.active (s : State) : Nat := (s.launches.filter (·.2.live)).length
def State.activeOf (s : State) (t : Nat) : Nat := (s.launches.filter fun p => p.2.live && p.2.tenant == t).length
/-- Ready heads that go before a head of some priority and arrival; `own`: those of the same tenant alone. -/
def State.headsBefore (s : State) (t : Nat) (h : Nat × Nat) (own : Bool) : Nat :=
  ((s.tenants.filter fun (u, _) => (!own || u == t) && (own || decide (s.activeOf u < 64))).flatMap fun (u, _) =>
    (List.range 16).filter fun q => match s.readyHead u q with
      | some (p, a) => decide (h.1 < p) || (p == h.1 && decide (a < h.2))
      | none => false).length

/-- Sync-group objects started by the device (R194), and the control lines of the stage queues (R339). -/
def State.startGroups (s : State) (t : Nat) (gs : List Group) : State :=
  gs.foldl (fun s g => match deviceVa s t g.bar.toNat 16 true with
    | some a => s.atHome (.mem a) (.start g.members.length)
    | none => s) s
def State.writeControl (s : State) (a : Nat) (bs : List Byte) : State :=
  (((s.logOutside (.mem a) bs).testPlace (.mem a)).stBytes a bs).stampHome a
def State.startQueues (s : State) (ss : List Stage) : State :=
  ss.foldl (fun s x => if x.odepth = 0 then s
    else s.writeControl x.oqDpa (bytes64 0 ++ bytes64 0 ++ bytes64 (BitVec.ofNat 64 x.odepth) ++ List.replicate 104 0)) s

/-- An admission kept for a reverse command (R496). -/
def State.admitted (s : State) (t q : Nat) (r : List W64) : State :=
  s.modTenant t fun x =>
    if x.logging then
      { x with admits := x.admits ++ [(x.revTarget.getD x.logTail, q, r, (x.queues.getD q {}).stamps.headD 0)] }
    else x

/-- The next launch number of a tenant (R430). -/
def Tenant.nextNum (t : Tenant) : Nat := (t.lastLaunch + 1) % 2 ^ 32

def execLaunchAdmit (tenant queue : Nat) (s : State) : Host.Outcome State Fault Refusal :=
  match s.readyHead tenant queue with
  | none => s.done
  | some h =>
    if 256 - s.active ≤ s.headsBefore tenant h false ∨ 64 - s.activeOf tenant ≤ s.headsBefore tenant h true then s.done
    else
      let r := (((s.tenant tenant).queues.getD queue {}).recs).headD []
      let groups := (s.groupsOf tenant r).getD []
      let stages := (s.stagesOf tenant r).getD []
      let key := s.nextId
      let num := (s.tenant tenant).nextNum
      let s := s.admitted tenant queue r
      let s := (({ s with nextId := key + 1 } : State).popRecord tenant queue).modTenant tenant fun x => { x with lastLaunch := num }
      let s := (s.startGroups tenant groups).startQueues stages
      let s := s.setLaunch key { live := true, num := num, tenant := tenant, queue := queue, record := r, admittedAt := s.cycle,
                                 groups := groups, stages := stages }
      let s := (s.traceLaunch key 6 0).wakeAll
      (s.push [.launchValidate tenant queue]).done

/-! ### Placement (R190, R191, R199, R214 to R216) -/

/-- A workgroup that a launch would place next: stage, index, slot, and its shape. -/
structure Shape where
  stage : Nat
  index : Nat
  slotNo : Nat
  entry : W64
  args : W64
  threads : Nat
  waves : Nat
  regs : Nat
  scr : Nat
  acc : Nat
  pbase : W64
  priv : Nat
  pair : Bool
  /-- others may be evicted for it -/
  promised : Bool
  deriving DecidableEq, Repr

def Shape.need (x : Shape) : Need :=
  { waves := if x.pair then x.waves / 2 else x.waves, regs := x.regs, scr := x.scr, acc := x.acc, pair := x.pair }

/-- The lowest slot of a stage that no workgroup of it has (R205). -/
def State.stageSlot (s : State) (n stage : Nat) : Nat :=
  let taken := (s.wgs.filter fun p => p.2.live && p.2.launch == n && p.2.stage == stage).map (·.2.slotNo)
  ((List.range (taken.length + 1)).find? fun j => !taken.contains j).getD 0

/-- A later stage wants a workgroup more: its last evaluation started it, or its input waits with none of it resident (R204, R218). -/
def State.stageWants (s : State) (n i : Nat) : Bool :=
  let x := s.launch n
  let st := x.stages.getD i {}
  let res := s.stageRes n i
  let q := s.queueAt (x.stages.getD (i - 1) {}).oqDpa
  decide (0 < queueOcc q) && (decide (0 < st.due) || res == 0) && decide (s.stageSlot n i < st.slots)

/-- The next grid workgroup of a launch. -/
def State.gridShape (s : State) (n : Nat) : Option Shape :=
  let x := s.launch n
  let r := x.record
  if recNwg r ≤ x.nextWg ∨ (1 < x.stages.length ∧ s.queueFull (x.stages.headD {}).oqDpa) then none
  else some { stage := 0, index := x.nextWg, slotNo := 0, entry := BitVec.ofNat 64 (bits (recW r 0) 56 7 * 128),
              args := BitVec.ofNat 64 (bits (recW r 1) 56 6 * 64), threads := recThreads r, waves := recWaves r,
              regs := bits (recW r 0) 63 57, scr := bits (recW r 2) 19 11, acc := bits (recW r 2) 10 3,
              pbase := BitVec.ofNat 64 (bits (recW r 3) 56 21 * 2097152), priv := bits (recW r 3) 20 4 * 16, pair := recPair r,
              promised := true }
/-- The workgroups that a launch would place next: of its waiting stages, the highest-numbered first, then of its grid (R215). One that no
core can take leaves the next its turn, so that the grid workgroup that is promised progress starts (R190). -/
def State.nextShapes (s : State) (n : Nat) : List Shape :=
  let x := s.launch n
  (((List.range x.stages.length).reverse.filter fun i => decide (0 < i) && s.stageWants n i).map fun i =>
    let st := x.stages.getD i {}
    { stage := i, index := st.started, slotNo := s.stageSlot n i, entry := st.entry, args := st.args, threads := 64 * st.waves,
      waves := st.waves, regs := st.regs, scr := st.scr, acc := st.acc, pbase := st.pbase, priv := st.priv, pair := false,
      promised := s.stageRes n i == 0 : Shape }) ++ (s.gridShape n).toList

/-- Lanes and registers with which a wave starts (R173, R214). -/
def startLanes (entry : W64) (threads idx : Nat) : List Lane :=
  (List.range 64).map fun l => { pc := entry, exited := decide (threads ≤ 64 * idx + l) }
def startRegs (x : Shape) : Tab W32 :=
  let row := fun (v : Nat) (val : W32) (t : Tab W32) => (List.range 64).foldl (fun t l => Tab.put 0 t (64 * v + l) val) t
  row 5 (BitVec.ofNat 32 x.priv) (row 4 (BitVec.ofNat 32 x.slotNo) (row 3 (BitVec.ofNat 32 x.stage)
    (row 2 (BitVec.ofNat 32 x.index) (row 1 (x.args.extractLsb' 32 32) (row 0 (x.args.setWidth 32) [])))))

/-- Positions of the groups of which a workgroup is a member (R193). -/
def Launch.groupsFor (x : Launch) (index : Nat) : List Nat :=
  (x.groups.zipIdx.filter fun (g, _) => g.members.contains index).map (·.2)

/-- A workgroup placed on a core or pair (R45, R47, R214). The launch's first on a core drops its tenant's instruction lines there
(R66). -/
def State.placeWg (s : State) (n : Nat) (x : Shape) (core bank : Nat) (fs : List Fit) : State :=
  let key := s.nextId
  let l := s.launch n
  let cores := if x.pair then [core, core + 1] else [core]
  let g : Wg := { live := true, launch := n, tenant := l.tenant, index := x.index, stage := x.stage, slotNo := x.slotNo, pair := x.pair,
                  nwaves := x.waves, threads := x.threads, regs := x.regs, privBase := x.pbase, privSize := x.priv,
                  scrUnits := x.scr, accCount := x.acc, groups := if x.stage = 0 then l.groupsFor x.index else [],
                  placedAt := s.cycle,
                  readyAt := s.cycle + (16 * x.scr + 47) / 48 + (if cores.any fun c => (s.core c).storeOff then 200 else 0) }
  let s := ({ s with nextId := key + 1 } : State).setWg key (g.placeOn core bank fs)
  let s := (List.range x.waves).foldl (fun (s : State) i =>
    let ls := startLanes x.entry x.threads i
    s.setWave (32 * key + i) { live := true, wg := key, idx := i, lanes := ls, regs := startRegs x, run := Chunk.fresh ls 4096,
                               pv := (s.tenant l.tenant).podClock }) s
  let s := (s.reach n cores).openStores cores
  s.modLaunch n fun l =>
    if x.stage = 0 then { l with nextWg := l.nextWg + 1, lastCore := some core }
    else { l with stages := l.stages.modify x.stage fun st => { st with started := st.started + 1, due := st.due - 1 }, lastCore := some core }

/-- The order in which cores or pairs are tried (R216). -/
def searchOrder (last : Option Nat) (pair : Bool) : List Nat :=
  if pair then
    let from_ := match last with
      | some c => (c / 2 + 1) % 128
      | none => 0
    (List.range 128).map fun i => 2 * ((from_ + i) % 128)
  else
    let from_ := match last with
      | some c => (c + 1) % 256
      | none => 0
    (List.range 256).map fun i => (from_ + i) % 256

/-- The next workgroup of a launch placed (R214 to R216), or others evicted for one that is promised progress (R191). -/
def execWorkgroupPlace (launch : Nat) (s : State) : Host.Outcome State Fault Refusal :=
  let l := s.launch launch
  if !l.live || l.aborted || l.stopped || (s.tenant l.tenant).stopAdmit then s.done
  else
    let xs := s.nextShapes launch
    match xs.findSome? fun x => (searchOrder l.lastCore x.pair).findSome? fun c => (s.placeable l.tenant c x.need []).map fun f => (x, c, f) with
    | some (x, c, b, fs) => (s.onHalf c fun s => s.placeWg launch x c b fs).done
    | none =>
      (match (xs.filter Shape.promised).findSome? fun (x : Shape) => s.evictSet l.tenant l.prio x.need (searchOrder l.lastCore x.pair) with
        | some vs => s.push (vs.map fun g => .workgroupSave g)
        | none => s).done

/-! ### Retirement (R189, R204) -/

/-- Queues whose stage has ended close, first to last (R204). -/
def State.closeQueues (s : State) (n : Nat) : State :=
  let x := s.launch n
  (List.range (x.stages.length - 1)).foldl (fun s i =>
    let st := (s.launch n).stages.getD i {}
    let done := if i = 0 then decide (recNwg x.record ≤ x.nextWg)
      else
        let q := s.queueAt ((s.launch n).stages.getD (i - 1) {}).oqDpa
        q.2.2.1 && queueOcc q == 0
    let live := s.wgs.any fun p => p.2.live && p.2.launch == n && p.2.stage == i
    if st.closed || !done || live || x.aborted then s
    else
      let s := s.modLaunch n fun l => { l with stages := l.stages.modify i fun y => { y with closed := true } }
      (s.writeControl (st.oqDpa + 16) (bytes64 (s.ld64 (st.oqDpa + 16) ||| 1#64 <<< 63))).push [.stageRebalance n]) s

/-- Whether the auditor samples a finished workgroup (R426). -/
def Tenant.samples (t : Tenant) (index : Nat) : Bool :=
  let k := min 20 (bits t.auditCfg 4 0)
  let h := (BitVec.ofNat 32 index ^^^ t.auditCfg.extractLsb' 32 32) * 0x9E3779B9#32
  k == 0 || bits h 31 (32 - k) == 0
/-- AUDIT_STAT with the count at bit `lo` raised. -/
def auditCount (w : W64) (lo : Nat) : W64 :=
  (w &&& ~~~(0xFFFF#64 <<< lo)) ||| (((w >>> lo) + 1 &&& 0xFFFF) <<< lo)

/-- A finished workgroup is sampled, skipped or left (R426, R427). -/
def State.sample (s : State) (g : Nat) : State :=
  let x := s.wg g
  if !s.auditable g || (s.launch x.launch).aborted || !(s.tenant x.tenant).samples x.index then s
  else if 1048576 < x.readBytes then s.modTenant x.tenant fun t => { t with auditStat := auditCount t.auditStat 16 }
  else (s.modWg g fun y => { y with audited := true }).push [.auditReplay g 0 0 false]

/-- A workgroup retires when its waves have ended and its commands into the core have completed; its record stays, not live, until
its launch completes. -/
def execWorkgroupRetire (wg : Nat) (s : State) : Host.Outcome State Fault Refusal :=
  let x := s.wg wg
  let ended := fun k =>
    let w := s.wave k
    w.lanes.all (·.exited) && !w.handler && w.com.isNone
  if !x.live || x.saving || x.restoring || !(s.wgWaves wg).all ended || s.cmds.any fun c => c.wg == wg && c.intoCore then s.done
  else
    let s := if x.saved then s.freeSlotsOf wg else s
    let s := (s.wgWaves wg).foldl (fun (s : State) k => (s.dropEngine k).zeroRead k) s
    let s := s.sample wg
    let s := (s.wgWaves wg).foldl (fun (s : State) k => s.modWave k fun w => { w with live := false }) s
    let s := s.modWg wg fun g => { g with live := false, held := 0, cntOpen := false }
    let s := (x.parts.map x.partCore).foldl (fun s c => if (s.core c).pending.isSome then s.push [.coreHandover c] else s)
      ((x.parts.map x.partCore).foldl State.l1Clear s)
    ((s.closeQueues x.launch).wakeAll.push [.launchComplete x.launch, .contextLoad x.tenant]).done

/-! ### Stages (R218) -/

/-- The target of stage i. -/
def State.stageTarget (s : State) (n i : Nat) : Nat :=
  let ss := (s.launch n).stages
  let st := ss.getD i {}
  let q := s.queueAt (ss.getD (i - 1) {}).oqDpa
  let occ := queueOcc q
  let dep := 2 ^ q.2.2.2
  if occ = 0 then 0
  else if i + 1 < ss.length ∧ s.queueFull st.oqDpa = true then max 1 (s.stageRes n i)
  else min st.slots ((4 * st.slots * occ + dep - 1) / dep)

/-- The stages of a launch evaluated, each with the number of workgroups that it then starts. -/
def execStageRebalance (launch : Nat) (s : State) : Host.Outcome State Fault Refusal :=
  if !(s.launch launch).live then s.done
  else
    let s := (List.range' 1 ((s.launch launch).stages.length - 1)).foldl (fun (s : State) i =>
      let t := s.stageTarget launch i
      s.modLaunch launch fun l => { l with stages := l.stages.modify i fun st => { st with target := t, due := t - s.stageRes launch i } }) s
    (s.closeQueues launch).wakeAll.done

/-! ### Completion (R211) -/

/-- Nothing of the launch is outstanding. -/
def State.launchOver (s : State) (n : Nat) : Bool :=
  let x := s.launch n
  let mine := fun (g : Nat) => (s.wg g).launch == n
  let placed := x.aborted || (decide (recNwg x.record ≤ x.nextWg)
    && (x.stages.take (x.stages.length - 1)).all fun st => st.closed && queueOcc (s.queueAt st.oqDpa) == 0)
  placed && (s.launchWgs n).isEmpty && !(s.cmds.any fun c => c.launch == n)
    && !(s.waves.any fun (_, w) => mine w.wg && !w.posted.isEmpty)
    && !(s.wgs.any fun (_, g) => g.launch == n && g.audited)

def execLaunchComplete (launch : Nat) (s : State) : Host.Outcome State Fault Refusal :=
  let x := s.launch launch
  if !x.live || !s.launchOver launch then s.done
  else
    let at_ := s.doneAt launch
    let bad := match at_ with
      | some a => (s.ld64 (a + 16)).getLsbD 63
      | none => false
    let s := (s.countDone x.tenant x.record at_).traceLaunch launch 7 (if bad then 1 else 0)
    let gs := (s.wgs.filter fun p => p.2.launch == launch).map (·.1)
    let s := (s.waves.filter fun p => gs.contains p.2.wg).foldl (fun (s : State) p => s.setWave p.1 {}) s
    let s := gs.foldl (fun (s : State) g => s.setWg g {}) s
    (s.setLaunch launch {}).done

end Sys2Proof.Machine
end

