-- ==== Sys2Proof/Machine/Account.lean ====
section
/-!
DEFINITION. Slot accounts (R224 to R226) and the assignment of cores to tenants (R414).
-/

namespace Sys2Proof.Machine

/-! ### The account table -/

def Cause.code : Cause → Nat
  | .issue => 0 | .squash => 1 | .operand => 2 | .localmem => 3 | .farmem => 4 | .barrier => 5 | .engine => 6 | .fetch => 7
  | .commit => 8 | .pause => 9 | .trap => 10 | .replay => 11 | .trial => 12 | .halt => 13 | .idle => 14 | .empty => 15

/-- Key of an account entry, USED aside. -/
def acctKey (c : Cause) (pc : W64) : Nat := c.code * 2 ^ 59 + bits pc 56 2
/-- First entry probed in a table of 2^m entries. -/
def acctHash (key m : Nat) : Nat := key * 0xB5A37C19E46D2F8B % 2 ^ 64 / 2 ^ (64 - m)

/-- One slot folded: added to the entry of its key, to a claimed entry, or to the overflow count of its cause. -/
def State.fold (s : State) (base m : Nat) (c : Cause) (pc : W64) : State :=
  let key := acctKey c pc
  let entries := (List.range 16).map fun i => base + 256 + 16 * ((acctHash key m + i) % 2 ^ m)
  let used := fun (a : Nat) => (s.ld64 a).getLsbD 63
  match entries.find? fun a => !used a || bits (s.ld64 a) 62 0 == key with
  | some a => (s.st64 a (BitVec.ofNat 64 (2 ^ 63 + key))).st64 (a + 8) (if used a then s.ld64 (a + 8) + 1 else 1)
  | none => s.st64 (base + 16 + 8 * c.code) (s.ld64 (base + 16 + 8 * c.code) + 1)

/-- Charges that a fold takes: while a flush is requested, only those before its cut. -/
def Tenant.folds (t : Tenant) (x : Charge) : Bool := t.flushes.all fun f => decide (x.cut < f.1)

/-- The charges of a core that may be folded now. -/
def State.foldCore (s : State) (c : Nat) : State :=
  let now := fun (x : Charge) => (s.tenant x.tenant).folds x
  let xs := (s.core c).charges.filter now
  let s' := s.modCore c fun k => { k with charges := k.charges.filter fun x => !now x }
  xs.foldl (fun s x =>
    let t := s.tenant x.tenant
    if t.acctOn then s.fold t.acctBase.toNat (bits t.acctBits 4 0) x.cause x.pc else s) s'
def execAcctFold (core : Nat) (s : State) : Host.Outcome State Fault Refusal := (s.foldCore core).done

/-- CORECYC of a tenant now. -/
def State.coreCycNow (s : State) (t : Nat) : Nat :=
  (s.tenant t).coreCyc + ((s.cores.filter fun p => p.2.assigned && p.2.tenant == t).map (·.2.cyc)).sum

/-- A flush requested: its cut is now; a third request joins the second (R224). -/
def execAcctFlush (tenant : Nat) (s : State) : Host.Outcome State Fault Refusal :=
  let t := s.tenant tenant
  if 2 ≤ t.flushes.length then s.done
  else
    let s := s.modTenant tenant fun x => { x with cuts := x.cuts + 1, flushes := x.flushes ++ [(x.cuts + 1, s.coreCycNow tenant)] }
    (s.push [.acctFlushPerform tenant]).done

/-- A flush is performed once every chunk with a slot before its cut has resolved. -/
def execAcctFlushPerform (tenant : Nat) (s : State) : Host.Outcome State Fault Refusal :=
  let t := s.tenant tenant
  match t.flushes with
  | [] => s.done
  | (cut, cyc) :: rest =>
    let open_ := fun (c : Chunk) => c.slots.any fun x => decide (x.2 < cut)
    let busy := s.waves.any fun (_, w) => (s.wg w.wg).tenant == tenant && w.live && (open_ w.run || w.com.any fun c => c.ts.isNone && open_ c)
    if busy then s.done
    else
      let s := (s.cores.map (·.1)).foldl State.foldCore s
      let s := if t.acctOn then s.st64 t.acctBase.toNat (BitVec.ofNat 64 cyc) else s
      let s := s.modTenant tenant fun x => { x with flushes := rest }
      (if rest.isEmpty then s else s.push [.acctFlushPerform tenant]).done

/-! ### Cores and tenants (R414) -/

/-- A write of a core's entry of the assignment table; none in recovery mode (R487), nor for a core that has left the table (R422). -/
def execCoreAssign (core : Nat) (val : W64) (s : State) : Host.Outcome State Fault Refusal :=
  let v := val.getLsbD 7
  let t := bits val 4 0
  let c := s.core core
  if s.recovery || c.out then s.done
  else if c.assigned = v ∧ (c.tenant = t ∨ v = false) then (s.modCore core fun x => { x with pending := none }).done
  else ((s.modCore core fun x => { x with pending := some (v, t) }).push [.coreHandover core]).done

/-- The core passes on once it holds nothing of the old tenant; meanwhile what is evictable is saved. -/
def execCoreHandover (core : Nat) (s : State) : Host.Outcome State Fault Refusal :=
  let c := s.core core
  match c.pending with
  | none => s.done
  | some (v, t) =>
    let here := s.residents core
    if here.isEmpty then
      let s := if c.assigned then s.modTenant c.tenant fun x => { x with coreCyc := x.coreCyc + c.cyc } else s
      let s := s.modCore core fun x => { x with assigned := v, tenant := t, pending := none, cyc := 0 }
      (if v && !(s.tenant t).loaded then (s.modTenant t fun x => { x with reload := true }).push [.contextLoad t] else s).done
    else
      (s.push (((here.map (·.1)).filter s.evictable).map fun g => .workgroupSave g)).done

end Sys2Proof.Machine
end

