-- ==== Sys2Proof/Machine/Atomics.lean ====
section
/-!
DEFINITION. Atomics and no-return reductions (R325 to R329): on chip memory the closing operation of their chunk (R327), applied at
its home; far ones are sent as R317 sets out.
-/

namespace Sys2Proof.Machine

def acquires : Order → Bool
  | .acq | .acqrel => true
  | _ => false
def releases : Order → Bool
  | .rel | .acqrel => true
  | _ => false

/-- The operand `n` registers further on: the new value of ACAS follows its comparison value (R268). -/
def operandAfter (d : Operand) (n : Nat) : Operand :=
  match d with
  | .v v => if h : v.val + n < 120 then .v ⟨v.val + n, h⟩ else .zero
  | o => o

/-- The operands x and y of a lane. -/
def atomX (w : Wave) (lane : Nat) (d : Operand) (l : Width) : BitVec 128 := w.readN lane l.regs d
def atomY (w : Wave) (lane : Nat) (op : AtomOp) (d : Operand) (l : Width) : BitVec 128 :=
  if op = .cas then w.readN lane l.regs (operandAfter d l.regs) else 0

/-- The destination register of an atomic with a result. -/
def destOf : Operand → Option VReg
  | .v n => some n
  | _ => none

/-- A chip atomic or RED (R327, R329): both halves enter the signatures, and the operation closes its chunk. -/
def State.chipAtomic (s : State) (xs : List Granted) (op : AtomOp) (ret : Bool) (d : Operand) (l : Width) : State :=
  let k := s.cur.wave
  let w := s.me
  let lanes := xs.map fun (ln, ea, r) =>
    ({ lane := ln, locs := r.locs, ea := ea, x := atomX w ln d l, y := atomY w ln op d l, cnt := r.cnt } : AtomLane)
  let s := ((s.noteRead k (allLocs xs)).noteWrite k (allLocs xs)).invUse (allLocs xs)
  s.modWave k fun w =>
    let w := if ret then w.saveRows (destRegs d l.regs) else w
    { w with run := { w.run with closing := .atomic op l lanes (destOf d) ret, last := true } }

/-- An atomic (`ret`) or RED: checks of every lane, then the far or the chip form. -/
def State.atomWith (s : State) (i : Instr) (op : AtomOp) (ret : Bool) (acq rel : Bool) (d a : Operand) (sc : Scope) (l : Width) :
    Host.Outcome State Fault Refusal :=
  s.perform i false fun t =>
    match t.granted (t.resolveAll a 0 l.bytes sc (if ret then .atomic else .red)) with
    | .error u => .error u
    | .ok xs =>
      let w := t.me
      if xs.any (·.2.2.far) then
        t.farAccess i xs
          (fun ln => if ret then .atomic op l (atomX w ln d l) (atomY w ln op d l) else .red op l (atomX w ln d l)) acq rel sc ret d
      else match t.accessWait t.cur.wave l.bytes true xs with
        | some u => .error u
        | none => .ok ((if acq && Scope.num sc = 3 then t.viewNow t.cur.wave else t).chipAtomic xs op ret d l)

def execAadd (d a : Operand) (sc : Scope) (l : Width) (r : Order) (s : State) : Host.Outcome State Fault Refusal :=
  s.atomWith (.aadd d a sc l r) .add true (acquires r) (releases r) d a sc l
def execAaddF (d a : Operand) (sc : Scope) (l : Width) (r : Order) (s : State) : Host.Outcome State Fault Refusal :=
  s.atomWith (.aaddF d a sc l r) .addF true (acquires r) (releases r) d a sc l
def execAminS (d a : Operand) (sc : Scope) (l : Width) (r : Order) (s : State) : Host.Outcome State Fault Refusal :=
  s.atomWith (.aminS d a sc l r) .minS true (acquires r) (releases r) d a sc l
def execAminW (d a : Operand) (sc : Scope) (l : Width) (r : Order) (s : State) : Host.Outcome State Fault Refusal :=
  s.atomWith (.aminW d a sc l r) .minW true (acquires r) (releases r) d a sc l
def execAmaxS (d a : Operand) (sc : Scope) (l : Width) (r : Order) (s : State) : Host.Outcome State Fault Refusal :=
  s.atomWith (.amaxS d a sc l r) .maxS true (acquires r) (releases r) d a sc l
def execAmaxW (d a : Operand) (sc : Scope) (l : Width) (r : Order) (s : State) : Host.Outcome State Fault Refusal :=
  s.atomWith (.amaxW d a sc l r) .maxW true (acquires r) (releases r) d a sc l
def execAand (d a : Operand) (sc : Scope) (l : Width) (r : Order) (s : State) : Host.Outcome State Fault Refusal :=
  s.atomWith (.aand d a sc l r) .and true (acquires r) (releases r) d a sc l
def execAor (d a : Operand) (sc : Scope) (l : Width) (r : Order) (s : State) : Host.Outcome State Fault Refusal :=
  s.atomWith (.aor d a sc l r) .or true (acquires r) (releases r) d a sc l
def execAxor (d a : Operand) (sc : Scope) (l : Width) (r : Order) (s : State) : Host.Outcome State Fault Refusal :=
  s.atomWith (.axor d a sc l r) .xor true (acquires r) (releases r) d a sc l
def execAxchg (d a : Operand) (sc : Scope) (l : Width) (r : Order) (s : State) : Host.Outcome State Fault Refusal :=
  s.atomWith (.axchg d a sc l r) .xchg true (acquires r) (releases r) d a sc l
def execAcas (d a : Operand) (sc : Scope) (l : Width) (r : Order) (s : State) : Host.Outcome State Fault Refusal :=
  s.atomWith (.acas d a sc l r) .cas true (acquires r) (releases r) d a sc l

def execRedAdd (d a : Operand) (sc : Scope) (l : Width) (rel : Bool) (s : State) : Host.Outcome State Fault Refusal :=
  s.atomWith (.redAdd d a sc l rel) .add false false rel d a sc l
def execRedAddF (d a : Operand) (sc : Scope) (l : Width) (rel : Bool) (s : State) : Host.Outcome State Fault Refusal :=
  s.atomWith (.redAddF d a sc l rel) .addF false false rel d a sc l
def execRedMinS (d a : Operand) (sc : Scope) (l : Width) (rel : Bool) (s : State) : Host.Outcome State Fault Refusal :=
  s.atomWith (.redMinS d a sc l rel) .minS false false rel d a sc l
def execRedMinW (d a : Operand) (sc : Scope) (l : Width) (rel : Bool) (s : State) : Host.Outcome State Fault Refusal :=
  s.atomWith (.redMinW d a sc l rel) .minW false false rel d a sc l
def execRedMaxS (d a : Operand) (sc : Scope) (l : Width) (rel : Bool) (s : State) : Host.Outcome State Fault Refusal :=
  s.atomWith (.redMaxS d a sc l rel) .maxS false false rel d a sc l
def execRedMaxW (d a : Operand) (sc : Scope) (l : Width) (rel : Bool) (s : State) : Host.Outcome State Fault Refusal :=
  s.atomWith (.redMaxW d a sc l rel) .maxW false false rel d a sc l
def execRedAnd (d a : Operand) (sc : Scope) (l : Width) (rel : Bool) (s : State) : Host.Outcome State Fault Refusal :=
  s.atomWith (.redAnd d a sc l rel) .and false false rel d a sc l
def execRedOr (d a : Operand) (sc : Scope) (l : Width) (rel : Bool) (s : State) : Host.Outcome State Fault Refusal :=
  s.atomWith (.redOr d a sc l rel) .or false false rel d a sc l
def execRedXor (d a : Operand) (sc : Scope) (l : Width) (rel : Bool) (s : State) : Host.Outcome State Fault Refusal :=
  s.atomWith (.redXor d a sc l rel) .xor false false rel d a sc l

end Sys2Proof.Machine
end

