-- ==== Sys2Proof/Machine/Fetch.lean ====
section
/-!
DEFINITION. What the next step does: an issue set fetches its word through the instruction cache of its core (R66, R178) and
decodes it (R264); with no set chosen, the next due event of the device's agents runs; with none due, the picker of the next core
takes a cycle (log entry 4). Also the small machine in which a given word is the next to issue (log entry 7).
-/

namespace Sys2Proof.Machine

/-- The checks of a fetch at a counter by a core (R7, R9, R11, R38, R39): none while the walk is still to be made. -/
def fetchFault (s : State) (c t : Nat) (pc : W64) : Option AddrErr :=
  if bits pc 63 62 ≠ 0 then some ⟨causeAddrTag, 4⟩
  else if bits pc 61 57 ≠ 0 then some ⟨causeAddrTag, 3⟩
  else if bits pc 1 0 ≠ 0 then some ⟨causeAlignment, 2⟩
  else match translate s (.l1 c) t pc.toNat with
    | .miss => none
    | .fail d => some ⟨causeNotPresent, d⟩
    | .hit e => pageCheck s e pc.toNat 4 .fetch
/-- The fetch waits for a walk (R38). -/
def fetchWalks (s : State) (c t : Nat) (pc : W64) : Bool := translate s (.l1 c) t pc.toNat == .miss

/-- The instruction line that holds a counter, and the word in it. -/
def lineVa (pc : W64) : W64 := BitVec.ofNat 64 (pc.toNat / 128 * 128)
def Core.word? (c : Core) (t : Nat) (pc : W64) : Option W32 :=
  (c.icache.find? fun l => l.tenant == t && l.va == lineVa pc).map fun l => l.words.getD (pc.toNat % 128 / 4) 0

/-- What the fetch of a counter finds (R178, R289): every fetch is checked, with its line held or not. -/
inductive Fetched where
  | fault (e : AddrErr)
  | walk
  | line
  | word (w : W32)
  deriving DecidableEq, Repr
def State.fetchOf (s : State) (c t : Nat) (pc : W64) : Fetched :=
  match fetchFault s c t pc with
  | some e => .fault e
  | none =>
    if fetchWalks s c t pc then .walk
    else match (s.core c).word? t pc with
      | some w => .word w
      | none => .line
/-- The same for an issue set. -/
def State.fetched (s : State) (x : Slot) : Fetched := s.fetchOf (s.coreOf x.wave) (s.waveTenant x.wave) x.pc

/-- A fill of a line begins for a wave, unless it is under way or the wave has two fills outstanding (R178). -/
def State.fill (s : State) (k : Nat) (line : W64) : State :=
  let c := s.coreOf k
  let t := s.waveTenant k
  let fills := (s.core c).fills
  if (fills.any fun f => f.2 == (t, line)) || decide (2 ≤ (fills.filter (·.1 == k)).length) then s
  else (s.modCore c fun y => { y with fills := y.fills ++ [(k, t, line)] }).push [.icacheFill c t line]
/-- The fill of a set's line begins, and the path switch breaks the latches of its lanes (R178). -/
def State.startFill (s : State) (x : Slot) : State :=
  (s.modWave x.wave fun w => w.modLanes (lanesOf x.mask) Lane.noLatch).fill x.wave (lineVa x.pc)
/-- The walk for a set's fetch is asked for. -/
def State.fetchWalk (s : State) (x : Slot) : State :=
  s.push [.pageWalk (.l1 (s.coreOf x.wave), s.waveTenant x.wave) x.pc]

/-- Causes of words that do not decode (R264). -/
def decTrap : DecErr → Nat × Nat
  | .unassigned => (causeIllegal, 1)
  | .reserved => (causeReserved, 1)
  | .undefined => (causeIllegal, 2)
  | .badCode => (causeIllegal, 3)
  | .misaligned => (causeIllegal, 5)

/-- The word of a slot taken for issue. -/
def State.take (s : State) (x : Slot) (rest : List Slot) (w : W32) : State := { s with issue := rest, cur := { x with word := w } }

/-- The chosen set's fetch and decode: the instruction to execute, or the step it ends in. -/
def State.issueNext (s : State) (x : Slot) (rest : List Slot) : Option Instr × State :=
  let t := s.take x rest 0
  if 0 < t.ports && t.setStands then
    match t.fetched x with
    | .fault e =>
      let u := if e.cause = causePoison then t.consume (t.waveTenant x.wave) 1 else t
      (none, if t.me.run.ended then t.hold .commit else u.trap e.cause e.detail x.mask x.pc)
    | .walk => (none, (t.fetchWalk x).hold .localmem)
    | .line => (none, t.hold .fetch)
    | .word w =>
      match decode w with
      | .ok i => (some i, s.take x rest w)
      | .error e =>
        let u := s.take x rest w
        (none, if u.me.run.ended then u.hold .commit else u.trap (decTrap e).1 (decTrap e).2 x.mask (w.setWidth 64))
  else (none, t)

/-- The work of the next step. -/
def State.nextWork (s : State) : Option Instr × State :=
  match s.issue with
  | x :: rest => s.issueNext x rest
  | [] =>
    match s.agenda with
    | i :: rest => (some i, { s with agenda := rest })
    | [] => (some (.pickerCycle s.pick), s)

/-! ### One word to run -/

/-- A counter for a word placed by hand, in a page of its own. -/
def slotPc : W64 := 0x10000

/-- The machine with one launch, one workgroup and one wave of a single lane on core 0, its store's banks active as a placement leaves
them (R73), about to issue the word. -/
def State.placeWord (s : State) (w : W32) : State :=
  let lanes := ({ pc := slotPc, exited := false } : Lane) :: List.replicate 63 {}
  let s := s.setTenant 0 { s.tenant 0 with loaded := true }
  let s := s.modCore 0 fun c =>
    { c with assigned := true, tenant := 0, banks := (List.range 48).map fun b => (b, s.cycle + 1), storeUsed := s.cycle,
             icache := { tenant := 0, va := lineVa slotPc, words := w :: List.replicate 31 0x01000000 } :: c.icache }
  let s := s.setLaunch 1 { live := true, num := 1, tenant := 0, record := List.replicate 8 0 }
  let s := { s with tlb := { home := .l1 0, tenant := 0, va := slotPc.toNat, size := 4096, tgt := 0, pa := 0, r := false, w := false, x := true, coh := false, cnt := false, poison := false } :: s.tlb }
  let s := s.setWg 1 { live := true, launch := 1, nwaves := 1, threads := 1, regs := 120, regUnits := [0] }
  let s := s.setWave 32 { live := true, wg := 1, lanes := lanes, run := Chunk.fresh lanes 4096, active := true }
  { s with issue := [{ wave := 32, pc := slotPc, mask := 1 }], ports := 2, issuedBy := [] }

end Sys2Proof.Machine
end

