-- ==== Sys2Proof/Machine/Control.lean ====
section
/-!
DEFINITION. Control transfer and wave control (R286 to R292), and the prefix instructions IMM and HINT (R260 to R262).
-/

namespace Sys2Proof.Machine

/-- The target of a B-format branch (R270). -/
def branchTarget (pc : W64) (off : BitVec 16) : W64 := pc + 4 * off.signExtend 64

/-- The counters of the active lanes set by a rule; the lanes it names take a 32-bit result first (R288, R289). -/
def State.transfer (s : State) (link : Option Operand) (wb : Bool) (take : Wave → Nat → Bool) (target : Wave → Nat → W64) : State :=
  let pc := s.cur.pc
  let old := s.me
  let takers := s.myLanes.filter (take old)
  let s := match link with
    | some d => s.modWave s.cur.wave fun w => w.writeAll wb d 1 (takers.map fun l => (l, ((pc + 4).setWidth 32).setWidth 128))
    | none => s
  s.modWave s.cur.wave fun w => s.myLanes.foldl (fun w l => w.modLane l fun x =>
    { x with pc := if take old l then target old l else pc + 4 }) w

/-- v118, the link register. -/
def linkReg : Operand := .v 118

def State.branch (s : State) (link : Bool) (off : BitVec 16) (take : Wave → Nat → Bool) : State :=
  s.transfer (if link then some linkReg else none) true take fun _ _ => branchTarget s.cur.pc off

def execNop (s : State) : Host.Outcome State Fault Refusal := s.simple .nop fun t => t
def execBr (off : BitVec 16) (s : State) : Host.Outcome State Fault Refusal :=
  s.perform (.br off) true fun t => .ok (t.branch false off fun _ _ => true)
def execCall (off : BitVec 16) (s : State) : Host.Outcome State Fault Refusal :=
  s.perform (.call off) true fun t => .ok (t.branch true off fun _ _ => true)
def execBz (a : Operand) (off : BitVec 16) (s : State) : Host.Outcome State Fault Refusal :=
  s.perform (.bz a off) true fun t => .ok (t.branch false off fun w l => w.read32 l a == 0)
def execBzl (a : Operand) (off : BitVec 16) (s : State) : Host.Outcome State Fault Refusal :=
  s.perform (.bzl a off) true fun t => .ok (t.branch true off fun w l => w.read32 l a == 0)
def execBnz (a : Operand) (off : BitVec 16) (s : State) : Host.Outcome State Fault Refusal :=
  s.perform (.bnz a off) true fun t => .ok (t.branch false off fun w l => w.read32 l a != 0)
def execBnzl (a : Operand) (off : BitVec 16) (s : State) : Host.Outcome State Fault Refusal :=
  s.perform (.bnzl a off) true fun t => .ok (t.branch true off fun w l => w.read32 l a != 0)

def execJmp (a : Operand) (s : State) : Host.Outcome State Fault Refusal :=
  s.perform (.jmp a) true fun t => .ok (t.transfer none false (fun _ _ => true) fun w l => w.read64 l a)
def execJmpl (d a : Operand) (s : State) : Host.Outcome State Fault Refusal :=
  s.perform (.jmpl d a) true fun t => .ok (t.transfer (some d) true (fun _ _ => true) fun w l => w.read64 l a)
def execRet (a : Operand) (s : State) : Host.Outcome State Fault Refusal :=
  s.perform (.ret a) true fun t =>
    .ok (t.transfer none false (fun _ _ => true) fun w l => t.cur.pc.extractLsb' 32 32 ++ w.read32 l a)

/-- PAUSE n (R179, R290). -/
def execPause (n : BitVec 16) (s : State) : Host.Outcome State Fault Refusal :=
  s.simple (.pause n) fun t => t.modWave t.cur.wave fun w => w.modLanes t.myLanes fun x => { x with pcnt := n.toNat }

/-- CHUNK (R291): the chunk ends after it. -/
def execChunk (s : State) : Host.Outcome State Fault Refusal :=
  s.simple .chunk fun t => t.modWave t.cur.wave fun w => { w with run := { w.run with last := true } }

/-- Every lane of the workgroup outside the set has exited. -/
def State.lastLanes (s : State) : Bool :=
  (s.wgWaves s.me.wg).all fun k => ((s.wave k).lanes.zipIdx).all fun (x, l) =>
    x.exited || (k == s.cur.wave && s.cur.mask.getLsbD l)

/-- Allocated banks of a mask, in increasing order. -/
def heldBanks (h : BitVec 128) : List Nat := (List.range 128).filter fun b => h.getLsbD b

/-- EXIT (R292); what follows when a wave or workgroup has ended is part of the chunk's commit. -/
def execExit (s : State) : Host.Outcome State Fault Refusal :=
  s.perform .exit false fun t =>
    let banks := heldBanks t.myWg.held
    if t.lastLanes && !banks.isEmpty then
      .error (t.trap causeAccLeak 0 t.cur.mask (BitVec.ofNat 64 (banks.headD 0 + 256 * banks.length)))
    else .ok (t.modWave t.cur.wave fun w => w.modLanes t.myLanes fun x => { x with exited := true })

/-- IMM (R260). -/
def Lane.pend (x : Lane) (p : BitVec 24) : Lane :=
  if x.immRun = 1 then
    { x with imm := ((x.imm.setWidth 24) ++ p : BitVec 48).signExtend 64, immCount := 2, immRun := 2 }
  else { x with imm := p.signExtend 64, immCount := 1, immRun := 1 }
def execImm (p : BitVec 24) (s : State) : Host.Outcome State Fault Refusal :=
  s.simple (.imm p) fun t => t.modWave t.cur.wave fun w => w.modLanes t.myLanes fun x => x.pend p

/-- HINT MOD (R262). -/
def execHintMod (m : Round) (sat : Bool) (s : State) : Host.Outcome State Fault Refusal :=
  s.simple (.hintMod m sat) fun t => t.modWave t.cur.wave fun w => w.modLanes t.myLanes fun x => { x with rm := m, sat := sat }
/-- HINT CHUNKSZ (R262): 0 means 4,096. -/
def execHintChunksz (lim : BitVec 13) (s : State) : Host.Outcome State Fault Refusal :=
  s.simple (.hintChunksz lim) fun t => t.modWave t.cur.wave fun w => { w with limit := if lim = 0 then 4096 else lim.toNat }
/-- HINT IPREF (R262): a line that would fault is not filled; nor is one for which the wave has no fill left (R178). -/
def execHintIpref (o : BitVec 16) (s : State) : Host.Outcome State Fault Refusal :=
  s.simple (.hintIpref o) fun t =>
    let line := lineVa t.cur.pc + 128 * o.signExtend 64
    let ten := t.waveTenant t.cur.wave
    if o = 0 ∨ (fetchFault t t.myCore ten line).isSome then t
    else (if fetchWalks t t.myCore ten line then t.push [.pageWalk (.l1 t.myCore, ten) line] else t).fill t.cur.wave line
/-- HINT STICK (R262): first among its priority for n cycles from the next. -/
def execHintStick (n : BitVec 4) (s : State) : Host.Outcome State Fault Refusal :=
  s.simple (.hintStick n) fun t => t.modWave t.cur.wave fun w => { w with stickUntil := t.cycle + n.toNat }

end Sys2Proof.Machine
end

