-- ==== Sys2Proof/Machine/Reliab.lean ====
section
/-!
DEFINITION. Errors and the auditor (R416 to R428): detected errors, quarantine and spares, cleared poison; the auditor's replay and
comparison; the access records of R42 and R43; the power states of banks (R73, R75).
-/

namespace Sys2Proof.Machine

/-! ### Quarantine (R421, R422) -/

/-- The tenant of a core. -/
def State.coreTenant (s : State) (core : Nat) : Nat := if (s.core core).assigned then (s.core core).tenant else 0

/-- Units that share their spares with a unit: of its type and core, lane groups of its path. -/
def sameSpares (u core unit : Nat) (v c n : Nat) : Bool := u == v && core == c && (u != 3 || unit / 8 == n / 8)
def sparesOf : Nat → Nat
  | 1 => 2
  | 2 => 4
  | 3 => 1
  | 4 => 1
  | _ => 0
/-- A spare is free for a unit. -/
def State.spareFree (s : State) (u core unit : Nat) : Bool :=
  decide ((s.quarantine.filter fun q => q.2.2.2 && sameSpares u core unit q.1 q.2.1 q.2.2.1).length
    + (s.mappedOut.filter fun q => sameSpares u core unit q.1 q.2.1 q.2.2).length < sparesOf u)

/-- An error is recorded; a unit not yet in quarantine goes there, its work to a spare if one is free. -/
def State.unitError (s : State) (corrected : Bool) (u core unit ten addr : Nat) : State :=
  let s := s.errRecord (if corrected then 1 else 2) u unit core ten addr
  if s.quarantine.any fun q => q.1 == u && q.2.1 == core && q.2.2.1 == unit then s
  else { s with quarantine := s.quarantine ++ [(u, core, unit, s.spareFree u core unit)] }

/-- A core mapped out as a whole: a spare core of its half takes its number, or it leaves the assignment table. -/
def State.replaceCore (s : State) (core : Nat) : State :=
  let half := core / 128
  let s := s.errRecord 6 6 core core (s.coreTenant core) 0
  if 0 < s.spareCores.getD half 0 then
    { s with spareCores := s.spareCores.modify half (· - 1), quarantine := s.quarantine.filter fun q => q.1 == 4 || q.2.1 != core,
             mappedOut := s.mappedOut.filter fun q => q.1 == 4 || q.2.1 != core }
  else
    ((s.errRecord 7 6 core core (s.coreTenant core) 0).modCore core fun c => { c with out := true, pending := some (false, c.tenant) }).push
      [.coreHandover core]

/-- The self-test of a unit ends (R421): it becomes the spare, or is mapped out; a core is tested once it is empty (R428). -/
def execSelfTestDone (utype core unit : Nat) (pass : Bool) (s : State) : Host.Outcome State Fault Refusal :=
  match s.quarantine.find? fun q => q.1 == utype && q.2.1 == core && q.2.2.1 == unit with
  | none => s.done
  | some q =>
    if utype = 6 ∧ !(s.residents core).isEmpty then s.done
    else
      let s := { s with quarantine := s.quarantine.erase q }
      let ten := if utype = 4 then 0 else s.coreTenant core
      if pass then (s.errRecord 5 utype unit core ten 0).done
      else if utype = 6 then (s.replaceCore core).done
      else
        let s := ({ s with mappedOut := s.mappedOut ++ [(utype, core, unit)] } : State).errRecord 6 utype unit core ten 0
        (if q.2.2.2 || utype = 4 then s else s.replaceCore core).done

/-! ### Detected errors (R416 to R418) -/

/-- The bank of a store line. -/
def State.regBank (s : State) (k v : Nat) : Nat := ((s.bankOf (.reg k (256 * v))).map (·.2)).getD 0
def State.scrBank (s : State) (g line : Nat) : Nat := ((s.bankOf (.scr g (128 * line))).map (·.2)).getD 0

def State.memoryError (s : State) (site : ErrSite) (corrected : Bool) : State :=
  match site with
  | .storeReg k v =>
    let s := s.unitError corrected 1 (s.coreOf k) (s.regBank k v) (s.waveTenant k) 0
    if corrected then s else s.modWave k fun w =>
      { w with bad := (v, allOnes) :: w.bad, run := { w.run with mended := w.run.mended.filter (·.1 != v) } }
  | .scratchLine g line =>
    let core := s.scrCore g (128 * line)
    let s := s.unitError corrected 1 core (s.scrBank g line) (s.wg g).tenant 0
    if corrected then s else s.modWg g fun x => { x with spoiled := Tab.put false x.spoiled line true }
  | .l1Line core bank => s.unitError corrected 1 core bank (s.coreTenant core) 0
  | .accBank core bank =>
    let s := s.unitError corrected 2 core bank (s.coreTenant core) 0
    if corrected then s else s.modCore core fun c => { c with badBanks := (bank :: c.badBanks).eraseDups }
  | .icache core => s.modCore core fun c => { c with icache := [] }
  | .sliceWay slice way dirty =>
    let s := s.unitError corrected 4 slice way 0 0
    (match corrected, dirty with
      | false, some a => s.poisonGranule (a / 4096)
      | _, _ => s)
  | .memory a =>
    if corrected then
      s.errRecord 1 7 0 0 ((s.ownersOf (a / 4096)).headD 0) (if a < tierBase then a else a - tierBase)
    else s.poisonGranule (a / 4096)
  | .lanes k group => (s.discardRun k .replay).unitError true 3 (s.coreOf k) group (s.waveTenant k) 0
where
  /-- every lane -/
  allOnes : LaneMask := 0#64 - 1
def execMemoryError (site : ErrSite) (corrected : Bool) (s : State) : Host.Outcome State Fault Refusal :=
  (s.memoryError site corrected).wakeAll.done

/-! ### Poison cleared (R420) -/

/-- The granule a POISON_CLR value names, in device memory. -/
def clearPage (v : W64) : Option Nat :=
  let n := bits v 62 0
  if v.getLsbD 63 then (if 4096 * n < memEnd - tierBase then some (tierBase / 4096 + n) else none)
  else if 4096 * n < tierBase then some n else none

def execPoisonClear (val : W64) (s : State) : Host.Outcome State Fault Refusal :=
  match clearPage val with
  | none => s.done
  | some p =>
    if 256 ≤ s.clears.length then (s.errRecord 2 7 0 0 ((s.ownersOf p).headD 0) (4096 * bits val 62 0)).done
    else ({ s with clears := s.clears ++ [val] }.push [.poisonClearPerform]).done

/-- The oldest held clear: 4,096 zero bytes as a write of its own, sealed (R447), and the bit. -/
def State.clearGranule (s : State) (page : Nat) : State :=
  let lines := (List.range 32).map fun i => 4096 * page + 128 * i
  let s := lines.foldl (fun (s : State) a => s.testPlace (.mem a)) (s.sealPage page)
  let s := lines.foldl (fun (s : State) a => (s.stBytes a (List.replicate 128 0)).stampHome a) s
  (s.setPoison page false).wakeAll
def execPoisonClearPerform (s : State) : Host.Outcome State Fault Refusal :=
  match s.clears with
  | [] => s.done
  | v :: rest =>
    match clearPage v with
    | none => ({ s with clears := rest } : State).done
    | some p =>
      let lines := (List.range 32).map fun i => 4096 * p + 128 * i
      match lines.findSome? fun a => if s.pendingLine (.mem a) then some Stall.commit else s.memStall a true with
      | some st => (s.engAsk (.wait st)).done
      | none =>
        if s.resBlocks none (sigOf (s.keysOf (lines.map Loc.mem))) then s.done
        else (({ s with clears := rest }.clearGranule p).push (if rest.isEmpty then [] else [.poisonClearPerform])).done

/-! ### The auditor (R427, R428) -/

/-- A finished sample is replayed on a core of the other half that the tenant holds: its signature, changed by what a fault of one of
the cores made of it. -/
def execAuditReplay (wg core : Nat) (err : W64) (trapped : Bool) (s : State) : Host.Outcome State Fault Refusal :=
  let x := s.wg wg
  let fits := fun c => c / 128 != x.core / 128 && decide (c < 256) && s.takes x.tenant c
  if !x.audited || x.replaySig.isSome then s.done
  else match (core :: List.range 256).find? fits with
  | none => s.done
  | some c => ((s.modWg wg fun g => { g with replaySig := some (g.sig + err, c, trapped) }).push [.auditCompare wg]).done

/-- A core leaves placement for its full self-test (R428). -/
def State.retest (s : State) (core : Nat) : State :=
  let s := { s with quarantine := s.quarantine ++ [(6, core, core, false)] }
  s.push (((s.residents core).map (·.1)).filter s.evictable |>.map fun g => .workgroupSave g)

def execAuditCompare (wg : Nat) (s : State) : Host.Outcome State Fault Refusal :=
  let x := s.wg wg
  match x.audited, x.replaySig with
  | true, some (sig, core, trapped) =>
    let s := (s.modWg wg fun g => { g with audited := false }).modTenant x.tenant fun t =>
      { t with auditStat := auditCount t.auditStat 0 }
    let s := if !trapped && sig == x.sig then s
      else
        let s := s.modTenant x.tenant fun t => { t with auditStat := auditCount t.auditStat 32 }
        let s := s.faultCell x.launch causeAudit (if trapped then 2 else 1) x.index (BitVec.ofNat 64 (core * 256 + x.core))
        ((s.interrupt x.tenant 5).retest x.core).retest core
    (s.wakeAll.push [.launchComplete x.launch]).done
  | _, _ => s.done

/-! ### Access records (R42, R43) and the power of banks (R73, R75) -/

/-- The counts gathered for a granule added to its record, saturating. -/
def State.accessAdd (s : State) (n : Nat) (c : Nat × Nat × Nat) : State :=
  let a := s.accessBase.toNat + 8 * n
  let w := s.ld64 a
  s.placeAt (.mem a) (bytes64 (BitVec.ofNat 64 (min (2 ^ 24 - 1) (bits w 63 40 + c.1) * 2 ^ 40
    + min (2 ^ 24 - 1) (bits w 39 16 + c.2.1) * 2 ^ 16 + min (2 ^ 16 - 1) (bits w 15 0 + c.2.2))))
def execAccessCountUpdate (s : State) : Host.Outcome State Fault Refusal :=
  (s.counts.foldl (fun (s : State) x => s.accessAdd x.1 x.2) { s with counts := [] }).done

/-- A bank is drowsy after 4,096 cycles without access (R73). -/
def Core.idleBank (x : Core) (cycle bank : Nat) : Bool :=
  let n := Tab.get 0 x.banks bank
  decide (0 < n) && decide (n + 4095 ≤ cycle)
def execBankDrowsy (core bank : Nat) (s : State) : Host.Outcome State Fault Refusal :=
  (if (s.core core).idleBank s.cycle bank then s.modCore core fun c => { c with banks := Tab.put 0 c.banks bank 0 } else s).done
/-- The store of a core with no resident wave is off after 65,536 cycles without access; its level-1 lines are dropped (R75). -/
def State.idleStore (s : State) (core : Nat) : Bool :=
  let x := s.core core
  !x.storeOff && decide (x.storeUsed + 65536 ≤ s.cycle) && (s.residents core).isEmpty
def execStorePowerOff (core : Nat) (s : State) : Host.Outcome State Fault Refusal :=
  (if s.idleStore core then
    (s.l1Clear core).modCore core fun c => { c with storeOff := true, banks := c.banks.filter (48 ≤ ·.1) }
  else s).done

end Sys2Proof.Machine
end

