-- ==== Sys2Proof/Machine/Sepia.lean ====
section
/-!
DEFINITION. The Sepia log as a whole: windows and their snapshots (R441, R448, R450, R495), and reverse execution (R451 to R455,
R496). What replay computes anew the model takes from the context as it was at each entry (log entry 30).
-/

namespace Sys2Proof.Machine

/-- The result of a debug command; the window that the last reverse command reached stays. -/
def State.dbgResult (s : State) (t r : Nat) : State :=
  s.modTenant t fun x => { x with dbgStat := (x.dbgStat &&& 0x0000FFFFFFFF0000) ||| BitVec.ofNat 64 r }
def State.dbgBusy (s : State) (t : Nat) : Bool := (s.tenant t).dbgStat.getLsbD 63

/-! ### The snapshot (R495) -/

/-- A workgroup part: its frame and its image. -/
def State.partFrame (s : State) (g : Nat) (odd : Bool) : List Byte :=
  let x := s.wg g
  let img := (if x.saved then s.slotPieces g odd else s.partPieces g odd).flatMap (·.2)
  bytes64 (BitVec.ofNat 64 ((if x.saved then 2 ^ 63 else 0) + (if odd then 2 ^ 62 else 0) + img.length))
    ++ bytes64 (BitVec.ofNat 64 (s.launch x.launch).num) ++ bytes64 (BitVec.ofNat 64 (if x.saved then x.partSlot odd else 0))
    ++ bytes64 0 ++ img

def Launch.entry (x : Launch) : List Byte :=
  padTo 96 (padTo 64 (x.record.flatMap bytes64) ++ bytes64 (BitVec.ofNat 64 x.num) ++ bytes64 (BitVec.ofNat 64 x.nextWg))

def State.snapshot (s : State) (t win : Nat) : List Byte :=
  let num := fun (g : Nat) => (s.launch (s.wg g).launch).num
  let before := fun (a b : Nat) => decide (num a < num b) || (num a == num b && decide ((s.wg a).index < (s.wg b).index))
  let parts := (sorted before (s.liveOf t)).flatMap fun g => (s.wg g).parts.map fun odd => (g, odd)
  let ls := sorted (fun (a b : Launch) => decide (a.num < b.num)) ((s.launches.filter fun p => p.2.live && p.2.tenant == t).map (·.2))
  bytes64 (BitVec.ofNat 64 (ls.length * 2 ^ 32 + parts.length)) ++ bytes64 (BitVec.ofNat 64 win) ++ bytes64 0 ++ bytes64 0
    ++ (s.tenant t).progcnt.flatMap bytes64 ++ ls.flatMap Launch.entry ++ parts.flatMap fun p => s.partFrame p.1 p.2

/-- Bytes as log entries, the last one filled with zeros. -/
def entriesOf (bs : List Byte) : List (List W64) :=
  (List.range ((bs.length + 31) / 32)).map fun i => (List.range 4).map fun j => le64 ((bs.drop (32 * i + 8 * j)).take 8)

/-! ### Windows (R448) -/

def Wave.wantsWindow (w : Wave) : Bool := w.wait.kind == .logmark || w.wait.kind == .cntopen
def State.windowWaiters (s : State) (t : Nat) : List Nat := (s.tenantWaves t).filter fun k => (s.wave k).wantsWindow
/-- A window of the tenant is to open: its waves are held at their next chunk starts (R448). -/
def State.windowAsked (s : State) (t : Nat) : Bool := (s.tenant t).windowWanted || !(s.windowWaiters t).isEmpty

/-- A command that writes chip memory. -/
def State.writesChip (s : State) (c : Cmd) : Bool :=
  c.intoCore || (match c.op with
    | .putr => false
    | .atomr => c.w64 6 != 0
    | _ => match s.engTargets c (c.dstRow 0) 1 (c.dstPlace.scope (c.dstRow 0)) .write with
      | .ok ts => ts.any fun x => match x with
        | .chip _ => true
        | _ => false
      | .error _ => true)

/-- Steps 1 and 2 of R448 are done: no chunk of the context in flight but those that wait, no save or restore, no such command. -/
def State.windowReady (s : State) (t : Nat) : Bool :=
  (s.tenantWaves t).all (fun k =>
    let w := s.wave k
    w.com.isNone && (w.run.issued == 0 || w.wait.kind != .none))
    && (s.liveOf t).all (fun g => !(s.wg g).saving && !(s.wg g).restoring)
    && !(s.cmds.any fun c => c.tenant == t && s.writesChip c)

/-- The waves that asked for a window go on with its number, or with none (R343, R386). -/
def State.windowDone (s : State) (t : Nat) (num : Option Nat) : State :=
  let v : Nat := num.getD 0xFFFFFFFF
  (s.windowWaiters t).foldl (fun s k =>
    let x := (s.wave k).wait
    if x.kind = .logmark then s.completeWait k ((lanesOf x.mask).map fun l => (l, BitVec.ofNat 128 v))
    else
      (s.modWg (s.wave k).wg fun g => if g.cntOpen then g
        else { g with cntOpen := true, cntRev := true, cntH := x.val, cntStat := BitVec.ofNat 64 v }).completeWait k []) s

/-- No window will open: logging is off. A MARK that waited was not permitted. -/
def State.windowNone (s : State) (t : Nat) : State :=
  let s := if (s.tenant t).marking then s.dbgResult t 3 else s
  (s.modTenant t fun x => { x with windowWanted := false, marking := false, windowFull := false }).windowDone t none

/-- A full log in stall mode (R450): LOG_FULL at the waves that asked, source 2 once for a window that the context waits for. -/
def State.windowRefused (s : State) (t : Nat) : State :=
  let s := ((s.windowWaiters t).filter fun k => (s.wave k).run.doomed.isNone).foldl
    (fun s k => s.refuseLogAt k (s.wave k).wait.pc (s.wave k).wait.mask) s
  if (s.tenant t).windowWanted && !(s.tenant t).windowFull then
    (s.modTenant t fun x => { x with windowFull := true }).interruptFull t
  else s

/-- The waves that asked stand complete in the window's snapshot (R479): their instructions done with its number and their chunks
committed, the commit records before the marker (log entry 33). None where the log has no room for a record. -/
def State.askersDone (s : State) (t num : Nat) : Option State :=
  let ks := s.windowWaiters t
  let s' := ks.foldl State.localCommit (s.windowDone t (some num))
  if ks.any fun k => (s'.wave k).com.isSome then none else some s'

/-- The marker and the snapshot appended (R448, R495), and the waves released. -/
def State.openWindow (s₀ : State) (t : Nat) : State :=
  let num := ((s₀.tenant t).logWin + 1) % 2 ^ 32
  match s₀.askersDone t num with
  | none => s₀.windowRefused t
  | some s =>
  let bs := s.snapshot t num
  let es := [kindWord 1 ||| BitVec.ofNat 64 num, BitVec.ofNat 64 bs.length, BitVec.ofNat 64 s.lastTs, 0] :: entriesOf bs
  if (s.tenant t).logSize < es.length + 2 then
    (((if (s₀.tenant t).logMode = 0 then s₀.interruptFull t else s₀).truncate t).logStop t).windowNone t
  else match s.logTry t es with
  | none => s₀.windowRefused t
  | some s =>
    if !(s.tenant t).logging then s.windowNone t
    else
      let s := if (s.tenant t).marking then s.dbgResult t 0 else s
      let s := s.modTenant t fun x =>
        { x with markers := x.markers ++ [(x.logTail - es.length, num)], logOldest := if x.markers.isEmpty then num else x.logOldest,
                 logWin := num, commitsInWin := 0, windowWanted := false, marking := false, windowFull := false }
      let s := (s.tenantWaves t).foldl (fun s k => s.modWave k fun w => { w with nchk := 0 }) s
      s.trace t 8 none 0 num 0

def execLogWindowOpen (tenant : Nat) (s : State) : Host.Outcome State Fault Refusal :=
  if !(s.tenant tenant).logging then (s.windowNone tenant).done
  else if !s.windowAsked tenant || (s.tenant tenant).reverse.isSome || !s.windowReady tenant then s.done
  else (s.openWindow tenant).done

/-! ### The log's registers (R441) -/

/-- What waits for entries of the log tries again. -/
def State.logRetry (s : State) (t : Nat) : State :=
  let s := s.modTenant t fun x => { x with windowFull := false }
  let s := (s.tenantWaves t).foldl (fun s k => s.farTry k) (s.retryInterrupts t)
  s.push (if s.windowAsked t then [.logWindowOpen t] else [])

/-- A write of LOG_CTL: n holds while EN is 1; MODE 3, and a ring size out of range with EN, are ignored. -/
def State.logCtlWrite (s : State) (t : Nat) (val : W64) : State :=
  let x := s.tenant t
  let n := bits val 4 0
  let mode := val &&& 0x6000000000000000
  let ctl := mode ||| BitVec.ofNat 64 n
  if bits val 62 61 = 3 then s
  else if val.getLsbD 63 then
    if x.logging then (s.setTenant t { x with logCtl := 1#64 <<< 63 ||| mode ||| BitVec.ofNat 64 x.logN }).logRetry t
    else if n < 16 ∨ 30 < n then s
    else
      (s.setTenant t { x with logCtl := 1#64 <<< 63 ||| ctl, logHead := x.logTail, markers := [], past := [], admits := [],
                              fixedUndo := [], windowWanted := true }).push [.logWindowOpen t]
  else if x.logging then
    let s := ((s.truncate t).logStop t).modTenant t fun x => { x with logCtl := mode ||| BitVec.ofNat 64 x.logN }
    (s.windowNone t).logRetry t
  else s.setTenant t { x with logCtl := ctl }
def execLogEnable (tenant : Nat) (val : W64) (s : State) : Host.Outcome State Fault Refusal :=
  (s.logCtlWrite tenant (val ||| 1#64 <<< 63)).done
def execLogDisable (tenant : Nat) (s : State) : Host.Outcome State Fault Refusal :=
  (s.logCtlWrite tenant ((s.tenant tenant).logCtl &&& ~~~(1#64 <<< 63))).done

/-- LOG_HEAD takes only the index of a kept window marker. -/
def execLogHeadWrite (tenant : Nat) (val : W64) (s : State) : Host.Outcome State Fault Refusal :=
  let x := s.tenant tenant
  match x.markers.find? fun m => m.1 % x.logSize == val.toNat with
  | none => s.done
  | some m =>
    ((s.setTenant tenant { x with logHead := m.1, logOldest := m.2, markers := x.markers.filter fun q => decide (m.1 ≤ q.1) }).logRetry
      tenant).done

/-- MARK (R431, R448): a window asked for by the debugger. -/
def execMarkWindow (tenant : Nat) (s : State) : Host.Outcome State Fault Refusal :=
  if s.dbgBusy tenant then s.done
  else if !(s.tenant tenant).logging then (s.dbgResult tenant 3).done
  else
    ((s.modTenant tenant fun x => { x with windowWanted := true, marking := true, dbgStat := x.dbgStat ||| 1#64 <<< 63 }).push
      [.logWindowOpen tenant]).done

/-! ### Back through the log (R452) -/

/-- First entry after the log's present end: LOG_TAIL, or the target of the last reverse command. -/
def Tenant.present (t : Tenant) : Nat := t.revTarget.getD t.logTail
/-- Entries of the snapshot of a marker. -/
def State.snapLen (s : State) (t i : Nat) : Nat := (((s.logEntry t i).getD 1 0).toNat + 31) / 32
/-- Entry i is a record, not part of a snapshot. -/
def State.isRecord (s : State) (t i : Nat) : Bool :=
  !(s.tenant t).markers.any fun m => decide (m.1 < i) && decide (i ≤ m.1 + s.snapLen t m.1)
def entryKind (e : List W64) : Nat := bits (e.getD 0 0) 63 58

/-- The bytes of memory that an undo entry holds, written back. -/
def State.undoMem (s : State) (e : List W64) : State :=
  let w := e.getD 0 0
  if entryKind e = 4 ∧ bits w 54 53 < 2 then
    let a := bits w 51 0 + (if bits w 54 53 = 0 then 0 else tierBase)
    (s.stBytes a (leBytes (2 ^ bits w 57 55) ((e.getD 1 0).toNat + 2 ^ 64 * (e.getD 2 0).toNat))).stampHome a
  else s
/-- The entries from `hi` - 1 down to `lo`, or those of them that pass a test. -/
def State.undoRange (s : State) (t lo hi : Nat) (p : List W64 → Bool) : State :=
  (List.range (hi - lo)).reverse.foldl (fun s j =>
    let e := s.logEntry t (lo + j)
    if s.isRecord t (lo + j) && p e then s.undoMem e else s) s

/-! ### The context as it was -/

/-- A wave with its unresolved chunks discarded and every lane halted. -/
def Wave.stand (w : Wave) : Wave :=
  let raised := w.run.raised ++ (match w.com with
    | some c => if c.ts.isNone then c.raised else []
    | none => [])
  let u := w.rewind w.run
  let u := match w.com with
    | some c => if c.ts.isNone then u.rewind c else u
    | none => u
  { u with com := none, trapQ := w.trapQ.filter fun e => !raised.contains e, squashes := 0, replays := 0, haltPending := false,
           haltMask := 0, haltReason := 0x13, haltInfo := 0,
           lanes := u.lanes.map fun l => { l with halted := true }, savedLanes := u.savedLanes.map fun l => { l with halted := true } }

/-- Commands beyond the chip, which no reverse command takes back. -/
def Cmd.beyond (c : Cmd) : Bool :=
  match c.op with
  | .putr | .getr | .atomr | .acopySys | .acopyPod | .acopyNear => true
  | _ => false

/-- Stamped writes of the tenant's waves applied at once. -/
def State.settle (s : State) (t : Nat) : State :=
  ((s.packets.filter fun p => s.waveTenant p.wave == t).map (·.home)).foldl State.lineApplied s

/-- A save slot as it was. -/
def restoreSlot (m : Memory) (q : Nat × Memory) : Memory :=
  q.2.foldl (fun m c => Tab.put 0 m c.1 c.2) (m.filter fun c => !(decide (q.1 ≤ c.1) && decide (c.1 < q.1 + 2097152)))

/-- The tenant's part of the device as it was, memory aside: launches and workgroups of the snapshot active again, later ones gone
(R496), cores and banks as they were held (R451). What is on its way beyond the chip stays as it is. -/
def State.restorePast (s : State) (t : Nat) (p : Past) : State :=
  let mine := fun (g : Nat) => (s.wg g).tenant == t
  let now := s
  let s := (now.waves.filter fun q => mine q.2.wg).foldl (fun (s : State) q => s.setWave q.1 {}) s
  let s := (now.wgs.filter fun q => q.2.tenant == t).foldl (fun (s : State) q => s.setWg q.1 {}) s
  let s := (now.launches.filter fun q => q.2.tenant == t).foldl (fun (s : State) q => s.setLaunch q.1 {}) s
  let s := p.launches.foldl (fun (s : State) q => s.setLaunch q.1 q.2) s
  let s := p.wgs.foldl (fun (s : State) q => s.setWg q.1 q.2) s
  let s := p.waves.foldl (fun (s : State) q =>
    let w := q.2.stand
    let v := now.wave q.1
    s.setWave q.1 { w with posted := v.posted, failed := v.failed, pv := max w.pv v.pv }) s
  let s := p.cores.foldl (fun (s : State) q => s.modCore q.1 fun c =>
    { c with owner := q.2.owner, queue := q.2.queue, eng := q.2.eng, granted := q.2.granted, shadow := q.2.shadow, acc := q.2.acc,
             storeOff := false }) s
  let far := s.cmds.filter fun (c : Cmd) => c.tenant == t && c.beyond && p.cmds.any fun (d : Cmd) => d.id == c.id
  let near := (s.cmds.filter fun c => c.tenant != t) ++ p.cmds.filter fun c => !c.beyond
  let s := { s with cmds := near ++ far, resQueue := s.resQueue.filter fun k => now.waveTenant k != t,
                    mem := p.slots.foldl restoreSlot s.mem }
  let back : List (Nat × Nat × List W64 × Nat) := (s.tenant t).admits.filter fun a => decide (p.at_ < a.1)
  let s := s.modTenant t fun x =>
    { x with progcnt := p.progcnt, lastLaunch := p.lastLaunch, slotsUsed := p.slotsUsed, admits := x.admits.filter fun a => decide (a.1 ≤ p.at_),
             queues := back.reverse.foldl (fun qs a => qs.modify a.2.1 fun z =>
               { z with recs := a.2.2.1 :: z.recs, stamps := a.2.2.2 :: z.stamps, validated := false }) x.queues }
  s.push ((back.map fun a => a.2.1).eraseDups.map fun q => .launchValidate t q)

/-- Stamped writes that were on their way at that time: undone and made again. -/
def State.redoPackets (s : State) (t cut : Nat) (p : Past) : State :=
  let ts := p.packets.map fun q => BitVec.ofNat 64 q.ts
  let from_ := (((s.tenant t).markers.filter fun m => decide (m.1 < cut)).getLast?.map (·.1)).getD cut
  let s := s.undoRange t from_ cut fun e => ts.contains (e.getD 3 0)
  ({ s with packets := s.packets ++ p.packets } : State).settle t

/-- The window in which a point of the log lies. -/
def Tenant.windowAt (t : Tenant) (cut : Nat) : Nat := (((t.markers.filter fun m => decide (m.1 < cut)).getLast?).map (·.2)).getD t.logWin

/-- The context taken back to the point before entry `cut`, in the state `p`, or as it stands where nothing lies after that point. -/
def State.reverseTo (s : State) (t cut : Nat) (p : Option Past) (result : Nat) : State :=
  let x := s.tenant t
  let s := match x.revExtra with
    | some (_, es) => es.reverse.foldl State.undoMem s
    | none => s
  let s := s.undoRange t cut x.present fun _ => true
  let s := match p with
    | some p => (s.restorePast t p).redoPackets t cut p
    | none => (s.tenantWaves t).foldl (fun s k => s.modWave k Wave.stand) s
  s.modTenant t fun y => { y with revTarget := some cut, revExtra := none, dbgStat := dbgDone result (x.windowAt cut) }

/-! ### The commands (R451, R453) -/

/-- Every lane of the tenant is halted, or has ended. -/
def State.allHalted (s : State) (t : Nat) : Bool :=
  (s.tenantWaves t).all fun k =>
    let w := s.wave k
    w.lanes.all (fun l => l.exited || l.halted) || ((s.wg w.wg).saved && w.haltPending)
/-- Why a reverse command is refused, if it is. -/
def State.reverseRefused (s : State) (t : Nat) : Option Nat :=
  let x := s.tenant t
  if !x.logging then some 3 else if !s.allHalted t then some 2 else if !x.frozen then some 8 else none

/-- The kept states before the present, newest first; the end of a chunk replayed in part stands first. -/
def Tenant.pasts (t : Tenant) : List Past := t.past.filter fun p => decide (p.at_ < t.present) && decide (t.logHead ≤ p.at_)
/-- The newest seal before the present. -/
def State.newestSeal (s : State) (t : Nat) : Option Nat :=
  let x := s.tenant t
  ((List.range (x.present - x.logHead)).reverse.map (x.logHead + ·)).find? fun i => entryKind (s.logEntry t i) == 7 && s.isRecord t i

/-- Each workgroup that was resident returns to a core the tenant still holds. -/
def State.coresKept (s : State) (t : Nat) (p : Past) : Bool :=
  p.wgs.all fun q => !q.2.live || q.2.saved || (q.2.parts.map q.2.partCore).all fun c => (s.core c).assigned && (s.core c).tenant == t && !(s.core c).out

/-- A target, moved behind the newest seal if it lies before it (R453). -/
def State.reverseAt (s : State) (t cut : Nat) (p : Option Past) (k : State → State) : State :=
  let x := s.tenant t
  let go := fun (cut : Nat) (p : Option Past) (r : Nat) (k : State → State) =>
    if (p.map (s.coresKept t)).getD true then k (s.reverseTo t cut p r) else s.dbgResult t 9
  match s.newestSeal t with
  | some i => if cut ≤ i then go (i + 1) ((x.pasts.filter fun q => decide (i < q.at_)).getLast?) 4 id else go cut p 0 k
  | none => go cut p 0 k

/-- The chunk of a kept state, by the wave whose commit it is. -/
def Past.chunk (p : Past) : Option (Nat × Chunk) := p.wave.bind fun k => ((Tab.get ({} : Wave) p.waves k).com).map fun c => (k, c)
/-- A selector names the wave of a kept commit. -/
def Past.isWave (p : Past) (x : LaneSel) : Bool :=
  match p.wave with
  | none => false
  | some k =>
    let w := Tab.get ({} : Wave) p.waves k
    let g := Tab.get ({} : Wg) p.wgs w.wg
    bits x.lo 63 32 == (Tab.get ({} : Launch) p.launches g.launch).num && bits x.lo 31 0 == g.index && bits x.hi 12 8 == w.idx

/-- The wave that a selector at level 3 or 4 names. -/
def State.selWave (s : State) (t : Nat) : Option Nat :=
  let x := (s.tenant t).lsel
  if x.level = 3 ∨ x.level = 4 then
    (s.tenantWaves t).find? fun k => s.covers { x with hi := (x.hi &&& 0x1FFFFFFFFFFFFFFF) ||| 0x6000000000000000 } k 0
  else none

def State.reverseCmd (s : State) (t : Nat) (f : State → State) : Host.Outcome State Fault Refusal :=
  if s.dbgBusy t then s.done
  else match s.reverseRefused t with
  | some r => (s.dbgResult t r).done
  | none => (f (s.settle t)).done

def execRevchunk (tenant : Nat) (s : State) : Host.Outcome State Fault Refusal :=
  s.reverseCmd tenant fun s =>
    let x := s.tenant tenant
    let all := (x.revExtra.map (·.1)).toList ++ x.pasts
    match all.find? (·.isWave x.lsel) with
    | some p => if x.lsel.level = 3 ∨ x.lsel.level = 4 then s.reverseAt tenant p.at_ (some p) id else s.dbgResult tenant 1
    | none => s.dbgResult tenant (if (s.selWave tenant).isSome then 5 else 1)

def execRevwin (tenant : Nat) (s : State) : Host.Outcome State Fault Refusal :=
  s.reverseCmd tenant fun s =>
    let x := s.tenant tenant
    let n := bits x.dbgArg 31 0
    let ms := x.markers.filter fun m => decide (m.1 < x.present)
    match (if n = 0xFFFFFFFF then ms.getLast? else ms.find? (·.2 == n)) with
    | none => s.dbgResult tenant 5
    | some m => s.reverseAt tenant (m.1 + 1 + s.snapLen tenant m.1) (x.past.find? (·.at_ == m.1)) id

/-- The newest issue of a kept chunk at which an enabled entry would match, by its place in the chunk. -/
def State.matchIn (s : State) (t : Nat) (p : Past) : Option Nat :=
  match p.chunk with
  | none => none
  | some (k, c) =>
    let u := s.restorePast t p
    ((c.issues.zipIdx).reverse.find? fun x => u.wouldMatch k x.1).map (·.2)

/-- The first issues of a chunk are executed again, up to the match (R454). -/
def State.replayPart (s : State) (t k j : Nat) (c : Chunk) : State :=
  let win := bits (s.tenant t).dbgStat 47 16
  (s.modWave k fun w => { w with lanes := w.lanes.map fun l => { l with halted := false } }).modTenant t fun x =>
    { x with dbgStat := x.dbgStat ||| 1#64 <<< 63,
             reverse := some { wave := k, plan := (c.issues.take j).map fun i => (i.pc, i.mask), inputs := c.inputs, result := 0, window := win } }

def execRevcont (tenant : Nat) (s : State) : Host.Outcome State Fault Refusal :=
  s.reverseCmd tenant fun s =>
    let x := s.tenant tenant
    let all := (x.revExtra.map (·.1)).toList ++ x.pasts
    match all.findSome? fun p => (s.matchIn tenant p).map fun j => (p, j) with
    | none => s.dbgResult tenant 7
    | some (p, j) => s.reverseAt tenant p.at_ (some p) fun s =>
      match p.chunk with
      | some (k, c) => if j = 0 then s else s.replayPart tenant k j c
      | none => s

end Sys2Proof.Machine
end

