-- ==== Sys2Proof/Machine/Debug.lean ====
section
/-!
DEFINITION. The debug window (R429 to R440, R456 to R458): halts, steps, views, the memory aperture, trace samples, causal trials,
the clock lock.
-/

namespace Sys2Proof.Machine

/-! ### Selections (R430) -/

/-- Something that a selector names exists. -/
def State.selects (s : State) (t : Nat) (x : LaneSel) : Bool :=
  match x.level with
  | 0 => true
  | 1 => s.launches.any fun p => p.2.live && p.2.tenant == t && bits x.lo 63 32 == p.2.num % 2 ^ 32
  | _ => (s.tenantWaves t).any fun k => (List.range 64).any fun l => s.covers x k l

/-- The lanes of a wave that a selector covers. -/
def State.coveredMask (s : State) (x : LaneSel) (k : Nat) : LaneMask := maskOf ((List.range 64).filter fun l => s.covers x k l)

/-! ### Halts (R432, R435) -/

def haltLanes (m : LaneMask) (ls : List Lane) : List Lane :=
  ls.zipIdx.map fun (x, l) => if m.getLsbD l then { x with halted := true } else x
def resumeLanes (m : LaneMask) (ls : List Lane) : List Lane :=
  ls.zipIdx.map fun (x, l) => if m.getLsbD l then { x with halted := false } else x

/-- Halts that are not in the trace ring yet are recorded, each with its reason. -/
def State.traceHalts (s : State) (t : Nat) : State :=
  (s.tenantWaves t).foldl (fun s k =>
    let w := s.wave k
    if w.haltNew then
      let l := ((List.range 64).find? fun l => (w.lane l).halted).getD 0
      (s.modWave k fun w => { w with haltNew := false }).trace t 1 (some k) l w.haltReason.toNat (w.lane l).pc
    else s) s

/-- A halt reaches a wave: held in handler mode (R404) and while far data are outstanding; taken at the restore of a saved workgroup
(R412); else its running chunk is discarded and its lanes stand. -/
def State.haltWave (s : State) (k : Nat) (m : LaneMask) : State :=
  let w := s.wave k
  let g := s.wg w.wg
  if m = 0 ∨ (w.lanes.zipIdx.all fun (x, l) => x.halted || !m.getLsbD l) = true then s
  else
    let p := { w with haltPending := true, haltMask := w.haltMask ||| m }
    if g.saved || g.saving then (s.setWave k p).toSlot k p
    else if w.handler || w.wait.kind == .far then s.setWave k p
    else
      ((s.discardRun k .squash).releaseRes k).modWave k fun w =>
        { w with lanes := haltLanes m w.lanes, run := { w.run with start := haltLanes m w.run.start }, squashes := 0, haltNew := true }

def execHaltLanes (tenant : Nat) (freeze : Bool) (s : State) : Host.Outcome State Fault Refusal :=
  let sel := (s.tenant tenant).lsel
  if s.dbgBusy tenant then s.done
  else if 4 < sel.level then (s.dbgResult tenant 0x0B).done
  else if !s.selects tenant sel then (s.dbgResult tenant 1).done
  else
    let s := s.traceHalts tenant
    let s := (s.tenantWaves tenant).foldl (fun s k => s.haltWave k (s.coveredMask sel k)) s
    let s := s.modTenant tenant fun x =>
      { x with stopAdmit := x.stopAdmit || sel.level == 0, frozen := x.frozen || freeze, dbgStat := x.dbgStat ||| 1#64 <<< 63,
               haltSel := some sel }
    let s := if sel.level = 1 then
        (s.launches.filter fun p => p.2.tenant == tenant && p.2.live && bits sel.lo 63 32 == p.2.num % 2 ^ 32).foldl
          (fun (s : State) p => s.modLaunch p.1 fun l => { l with stopped := true }) s
      else s
    (s.push [.haltComplete tenant]).done

/-- Every covered lane is halted, has ended, or will be restored halted. -/
def State.haltDone (s : State) (t : Nat) (x : LaneSel) : Bool :=
  (s.tenantWaves t).all fun k =>
    let w := s.wave k
    (List.range 64).all fun l => !s.covers x k l || (w.lane l).halted || ((w.lane l).exited && !w.handler)
      || ((s.wg w.wg).saved && w.haltMask.getLsbD l)

/-- The halt reasons are set and the command is done. -/
def execHaltComplete (tenant : Nat) (s : State) : Host.Outcome State Fault Refusal :=
  match (s.tenant tenant).haltSel with
  | none => (s.traceHalts tenant).done
  | some x =>
    if !s.haltDone tenant x then s.done
    else
      let s := (s.tenantWaves tenant).foldl (fun s k => s.modWave k fun w =>
        if w.haltNew && s.coveredMask x k != 0 then { w with haltReason := 0x13, haltInfo := 0 } else w) s
      (((s.modTenant tenant fun y => { y with haltSel := none }).traceHalts tenant).dbgResult tenant 0).done

/-! ### RESUME and STEP (R433) -/

/-- Lanes of a wave run again from where they stand; a trap that waited is taken. -/
def State.resumeWave (s : State) (k : Nat) (m : LaneMask) : State :=
  let w := s.wave k
  let g := s.wg w.wg
  let had := (List.range 64).filter fun l => m.getLsbD l && (w.lane l).halted
  let pend := w.haltMask &&& ~~~m
  let u := { w with lanes := resumeLanes m w.lanes, savedLanes := resumeLanes m w.savedLanes,
                    run := { w.run with start := resumeLanes m w.run.start },
                    haltMask := pend, haltPending := w.haltPending && pend != 0 }
  if had.isEmpty && u.haltMask == w.haltMask then s
  else
    let s := s.setWave k u
    let s := if g.saved || g.saving then s.toSlot k u else s
    let s := match had with
      | l :: _ => s.trace g.tenant 2 (some k) l w.haltReason.toNat (w.lane l).pc
      | [] => s
    if u.trapQ.isEmpty then s else s.push [.trapDelivery k]

/-- When the last freeze ends, the timers of the groups go on from then (R139). -/
def State.thaw (s before : State) : State :=
  let on := fun (u : State) => u.tenants.any fun p => p.2.frozen
  if on before && !on s then
    s.tenants.foldl (fun (s : State) p => s.modTenant p.1 fun x => { x with groups := x.groups.map fun g => { g with lastProgress := s.time } }) s
  else s
def execResumeLanes (tenant : Nat) (s : State) : Host.Outcome State Fault Refusal :=
  let sel := (s.tenant tenant).lsel
  if s.dbgBusy tenant then s.done
  else if 4 < sel.level then (s.dbgResult tenant 0x0B).done
  else if !s.selects tenant sel then (s.dbgResult tenant 1).done
  else
    let s := (s.truncate tenant).traceHalts tenant
    let s := (s.tenantWaves tenant).foldl (fun s k => s.resumeWave k (s.coveredMask sel k)) s
    let s := (s.modTenant tenant fun x => { x with stopAdmit := x.stopAdmit && sel.level != 0, frozen := false }).thaw s
    let s := if sel.level = 1 then
        (s.launches.filter fun p => p.2.tenant == tenant && p.2.live && bits sel.lo 63 32 == p.2.num % 2 ^ 32).foldl
          (fun (s : State) p => s.modLaunch p.1 fun l => { l with stopped := false }) s
      else s
    (s.wakeAll.dbgResult tenant 0).done

def execStepWave (tenant : Nat) (s : State) : Host.Outcome State Fault Refusal :=
  let x := s.tenant tenant
  let n := bits x.dbgArg 12 0
  if s.dbgBusy tenant then s.done
  else if n = 0 ∨ 4096 < n then (s.dbgResult tenant 0x0B).done
  else match s.selWave tenant with
  | none => (s.dbgResult tenant 1).done
  | some k =>
    let w := s.wave k
    if (s.wg w.wg).saved || !w.lanes.all (fun l => l.exited || l.halted) || w.lanes.all (fun l => l.exited && !l.halted) then
      (s.dbgResult tenant 2).done
    else
      let all : LaneMask := 0#64 - 1
      let s := (s.traceHalts tenant).resumeWave k all
      let s := s.modWave k fun w =>
        let w := w.freshRun
        { w with run := { w.run with step := some n } }
      (s.dbgResult tenant 0).done

/-! ### The views (R434) -/

/-- The wave view and the register view of the selected wave, as reads return them. -/
def State.waveView (s : State) (t : Nat) : List Byte := ((s.selWave t).map fun k => (s.wave k).record true).getD []
def State.registerView (s : State) (t : Nat) : List Byte := ((s.selWave t).map s.regBytes).getD []

/-- The counter of a halted lane, in its own state and in the start state of the running chunk. -/
def Wave.viewPc (w : Wave) (l : Nat) (v : W64) : Wave :=
  if (w.lane l).halted then
    let f := fun (x : Lane) => { x with pc := v, lvalid := 0 }
    { w with lanes := w.lanes.modify l f, run := { w.run with start := w.run.start.modify l f } }
  else w
/-- A register word of a halted lane, also among the values that a discard of a chunk would bring back. -/
def Wave.viewReg (w : Wave) (v l : Nat) (x : W32) : Wave :=
  if (w.lane l).halted then
    let keep := fun (c : Chunk) => { c with saved := c.saved.map fun (r, row) => (r, if r = v then row.set l x else row) }
    { w.setReg v l x with run := keep w.run, com := w.com.map keep,
                          bad := (w.bad.map fun (r, m) => (r, if r = v then m &&& ~~~(1#64 <<< l) else m)).filter (·.2 != 0) }
  else w

/-- Eight bytes written to the wave view (from 0x4000) or the register view (from 0x1_0000) of the window: counters, FPCTL and
registers of halted lanes; FPCTL when no lane of the wave runs. -/
def Wave.viewWrite (w : Wave) (alloc off : Nat) (val : W64) : Wave :=
  if 0x4000 ≤ off ∧ off < 0x4200 then w.viewPc ((off - 0x4000) / 8) val
  else if off / 8 * 8 = 0x4000 + 1280 then
    if w.lanes.all fun l => l.halted || l.exited then { w with fpctl := val &&& ~~~fpReserved } else w
  else if 0x10000 ≤ off ∧ off < 0x10000 + 256 * alloc then
    let v := (off - 0x10000) / 256
    let l := off % 256 / 8 * 2
    (w.viewReg v l (val.setWidth 32)).viewReg v (l + 1) (val.extractLsb' 32 32)
  else w
def execDebugViewWrite (tenant off : Nat) (val : W64) (s : State) : Host.Outcome State Fault Refusal :=
  match s.selWave tenant with
  | none => s.done
  | some k =>
    let g := s.wg (s.wave k).wg
    let w := (s.wave k).viewWrite g.alloc off val
    let s := (s.setWave k w).useBanks (if 0x10000 ≤ off ∧ g.saved = false then rowLocs k [(off - 0x10000) / 256] else [])
    (if g.saved || g.saving then s.toSlot k w else s).done

/-! ### The memory aperture (R434) -/

/-- The wave and lane for which a local address is taken: those of the selector, or the first of its workgroup. -/
def State.apertureWave (s : State) (t : Nat) : Option (Nat × Nat) :=
  let x := (s.tenant t).lsel
  if x.level < 2 ∨ 4 < x.level then none
  else
    let lane := if x.level = 4 then bits x.hi 5 0 else 0
    ((s.tenantWaves t).find? fun k =>
      (x.level == 2 || bits x.hi 12 8 == (s.wave k).idx) && s.covers { x with hi := 2#64 <<< 61 } k 0 && !(s.wg (s.wave k).wg).saved).map
        fun k => (k, lane)

/-- The translations that an access through the aperture uses: the spec names no cache for it; the model takes those of base die 0,
and keeps none (log entry 50). -/
def debugTlb : TlbHome := .inbound 0
/-- The place of one byte of the aperture, with the checks of its address form. -/
def State.apertureByte (s : State) (t : Nat) (ea : W64) (acc : Acc) : Option Loc :=
  let got := fun (r : Res) => match r with
    | .ok ⟨.chip (l :: _), _, _⟩ => some l
    | _ => none
  match bits ea 63 62 with
  | 0 =>
    if bits ea 61 57 ≠ 0 then none else got (resolveVa (s.fillTlb debugTlb t (bits ea 56 0)) debugTlb t (bits ea 56 0) 1 .chip acc false)
  | 1 => (s.apertureWave t).bind fun (k, l) =>
    match resolveWindow s k l ea 1 .chip acc with
    | .miss va => got (resolveWindow (s.fillTlb (.l1 (s.coreOf k)) t va) k l ea 1 .chip acc)
    | r => got r
  | _ => none
def State.aperturePlaces (s : State) (t off n : Nat) (acc : Acc) : Option (List Loc) :=
  let a := (s.tenant t).memAddr + BitVec.ofNat 64 off
  (List.range n).mapM fun i => s.apertureByte t (a + BitVec.ofNat 64 i) acc

/-- Places that are one run of device memory. -/
def memRun (ls : List Loc) : Option Nat :=
  match ls with
  | .mem a :: _ => if ls = (List.range ls.length).map fun i => .mem (a + i) then some a else none
  | _ => none

def execApertureRead (tenant off len : Nat) (s : State) : Host.Outcome State Fault Refusal :=
  match s.aperturePlaces tenant off len .read with
  | none => ((s.dbgResult tenant 1).send (.aperture (List.replicate len 0xFF))).done
  | some ls =>
    match memRun ls with
    | some a => (s.hostArrive { dpa := a, len := len, write := none, aperture := true }).done
    | none => ((s.useBanks ls).send (.aperture (ls.map s.committed))).done

/-- A write through the aperture has its own place in the commit order (R434, R442). -/
def execApertureWrite (tenant off : Nat) (data : List Byte) (s : State) : Host.Outcome State Fault Refusal :=
  match s.aperturePlaces tenant off data.length .write with
  | none => (s.dbgResult tenant 1).done
  | some ls =>
    match memRun ls with
    | some a => (s.hostArrive { dpa := a, len := data.length, write := some (data, false), aperture := true }).done
    | none =>
      ((pieces (ls.zip data)).foldl (fun s (l, b) => (s.regTest 0 [{ loc := l, ea := 0, bytes := b }]).placeOutside l b) s).wakeAll.done

/-! ### Samples (R440) -/

/-- Port 0's charge in this cycle, for the core's tenant. -/
def execTraceSample (core : Nat) (s : State) : Host.Outcome State Fault Refusal :=
  let c := s.core core
  if !c.assigned then s.done
  else
    let (who, cause, pc) := c.port0
    match cause, who with
    | .idle, _ | .empty, _ | _, none => (s.trace c.tenant 9 none 0 cause.code 0).done
    | _, some (k, l) => (s.trace c.tenant 9 (some k) l cause.code pc).done

/-! ### Causal trials (R456) -/

def State.trialOn (s : State) (t : Nat) : Bool := (s.tenant t).trialCtl.getLsbD 8
/-- A trial ends: EN clears, the record, no wave delayed any more. -/
def State.endTrial (s : State) (t : Nat) : State :=
  let n := (s.cycle - (s.tenant t).trialStart) / 1024
  let s := (s.modTenant t fun x => { x with trialCtl := x.trialCtl &&& ~~~0x100#64 }).trace t 0x0B none 0 n 0
  (s.tenantWaves t).foldl (fun s k => s.modWave k fun w => { w with trials := [] }) s

def execTrialgo (tenant : Nat) (s : State) : Host.Outcome State Fault Refusal :=
  let x := s.tenant tenant
  if s.dbgBusy tenant then s.done
  else if bits x.trialCtl 7 0 = 0 ∨ bits x.trialCtl 63 32 = 0 then (s.dbgResult tenant 0x0B).done
  else if s.trialOn tenant then (s.dbgResult tenant 0x0A).done
  else
    let s := s.setTenant tenant { x with progcnt := List.replicate 16 0, trialCtl := x.trialCtl ||| 0x100,
                                         trialStart := s.cycle, trialEnd := s.cycle + 1024 * bits x.trialCtl 63 32 }
    ((s.trace tenant 0x0A none 0 0 0).dbgResult tenant 0).done
def execTrialstop (tenant : Nat) (s : State) : Host.Outcome State Fault Refusal :=
  if s.dbgBusy tenant then s.done
  else if !s.trialOn tenant then (s.dbgResult tenant 0x0A).done
  else ((s.endTrial tenant).dbgResult tenant 0).done
def execTrialEnd (tenant : Nat) (s : State) : Host.Outcome State Fault Refusal :=
  (if s.trialOn tenant && decide ((s.tenant tenant).trialEnd ≤ s.cycle) then s.endTrial tenant else s).done

/-! ### The clock lock (R458) -/

def execClklock (tenant : Nat) (s : State) : Host.Outcome State Fault Refusal :=
  let p := bits (s.tenant tenant).dbgArg 3 0
  if s.dbgBusy tenant then s.done
  else if 5 < p then (s.dbgResult tenant 0x0B).done
  else if !s.clkPermit.getLsbD tenant || s.clockLock.any (fun h => h.1 != tenant) then (s.dbgResult tenant 3).done
  else
    let s := { s with clockLock := some (tenant, p), softPoint := p }
    ((s.trace tenant 0x0C none 0 p 0).dbgResult tenant 0).done
def execClkfree (tenant : Nat) (s : State) : Host.Outcome State Fault Refusal :=
  if s.dbgBusy tenant then s.done
  else if s.clockLock.any (fun h => h.1 == tenant) then (({ s with clockLock := none } : State).dbgResult tenant 0).done
  else (s.dbgResult tenant 3).done

/-- The lock is broken: a record in every enabled ring, with the reason. -/
def State.breakLock (s : State) (reason : Nat) : State :=
  match s.clockLock with
  | none => s
  | some _ => (s.tenants.map (·.1)).foldl (fun s t => s.trace t 0x0D none 0 reason 0) { s with clockLock := none }

end Sys2Proof.Machine
end

