-- ==== Sys2Proof/Machine/Integer.lean ====
section
/-!
DEFINITION. Integer and address arithmetic (R293 to R300). An operation is given once on the patterns of its elements; the
instruction applies it to each element of each active lane.
-/

namespace Sys2Proof.Machine

/-- An element operation: the element width, the saturation attribute, x, y, z. -/
abbrev IntOp := Nat → Bool → Nat → Nat → Nat → Nat

/-- The operation on every element of packed operands (R293). -/
def mapElems (f : IForm) (sat : Bool) (op : IntOp) (x y z : BitVec 128) : BitVec 128 :=
  pack f.width ((List.range f.count).map fun e => op f.width sat (elem x f.width e) (elem y f.width e) (elem z f.width e))

/-- The 7-bit immediate in every element (R281). -/
def immElems (f : IForm) (i : BitVec 7) : BitVec 128 := pack f.width (List.replicate f.count (wrapTo f.width i.toInt))

/-- An R-format integer instruction. -/
def State.intR (s : State) (w : Bool) (d a b : Operand) (f : IForm) (op : IntOp) : State :=
  s.results w d f.regs fun x l => mapElems f (x.lane l).sat op (x.readN l f.regs a) (x.readN l f.regs b) (x.readN l f.regs d)
/-- An I-format integer instruction. -/
def State.intI (s : State) (w : Bool) (d a : Operand) (i : BitVec 7) (f : IForm) (op : IntOp) : State :=
  s.results w d f.regs fun x l => mapElems f (x.lane l).sat op (x.readN l f.regs a) (immElems f i) 0

/-! ### Operations on elements -/

/-- An exact signed result, wrapped or clamped (R229). -/
def fit (n : Nat) (sat : Bool) (v : Int) : Nat := if sat then clampTo n v else wrapTo n v
def allOnes (n : Nat) (c : Bool) : Nat := if c then 2 ^ n - 1 else 0

def opAdd : IntOp := fun n sat x y _ => fit n sat (sgn n x + sgn n y)
def opSub : IntOp := fun n sat x y _ => fit n sat (sgn n x - sgn n y)
def opMul : IntOp := fun n sat x y _ => fit n sat (sgn n x * sgn n y)
def opMad : IntOp := fun n sat x y z => fit n sat (sgn n x * sgn n y + sgn n z)
def opMulhS : IntOp := fun n _ x y _ => wrapTo n ((sgn n x * sgn n y) / 2 ^ n)
def opMulhW : IntOp := fun n _ x y _ => x * y / 2 ^ n
def opAnd : IntOp := fun _ _ x y _ => x &&& y
def opOr : IntOp := fun _ _ x y _ => x ||| y
def opXor : IntOp := fun _ _ x y _ => x ^^^ y
def opAndn : IntOp := fun n _ x y _ => x &&& (2 ^ n - 1 - y)
def opEq : IntOp := fun n _ x y _ => allOnes n (x == y)
def opNe : IntOp := fun n _ x y _ => allOnes n (x != y)
def opLtS : IntOp := fun n _ x y _ => allOnes n (decide (sgn n x < sgn n y))
def opLtW : IntOp := fun n _ x y _ => allOnes n (decide (x < y))
def opLeS : IntOp := fun n _ x y _ => allOnes n (decide (sgn n x ≤ sgn n y))
def opLeW : IntOp := fun n _ x y _ => allOnes n (decide (x ≤ y))
def opMinS : IntOp := fun n _ x y _ => if sgn n x ≤ sgn n y then x else y
def opMinW : IntOp := fun _ _ x y _ => min x y
def opMaxS : IntOp := fun n _ x y _ => if sgn n x ≤ sgn n y then y else x
def opMaxW : IntOp := fun _ _ x y _ => max x y

/-- Shifts by a count c (R295). -/
def opShl : IntOp := fun n _ x c _ => if c < n then x * 2 ^ c % 2 ^ n else 0
def opShr : IntOp := fun n _ x c _ => if c < n then x / 2 ^ c else 0
def opSar : IntOp := fun n _ x c _ => wrapTo n (sgn n x / 2 ^ min c (n - 1))
def opRotl : IntOp := fun n _ x c _ => x * 2 ^ (c % n) % 2 ^ n + x / 2 ^ (n - c % n)

/-- Counts and reversal (R296). -/
def opPopc : IntOp := fun n _ x _ _ => ((List.range n).filter fun i => x.testBit i).length
def opClz : IntOp := fun n _ x _ _ => n - ((List.range n).filter fun i => x / 2 ^ i != 0).length
def opBrev : IntOp := fun n _ x _ _ => (List.range n).foldl (fun r i => if x.testBit i then r + 2 ^ (n - 1 - i) else r) 0

/-- Bit fields, position b[6:0] and length b[14:8] (R297). -/
def fieldPos (y : Nat) : Nat := y % 128
def fieldLen (n y : Nat) : Nat := min (y / 256 % 128) n
def opBfeW : IntOp := fun n _ x y _ => x / 2 ^ fieldPos y % 2 ^ fieldLen n y
def opBfeS : IntOp := fun n _ x y _ =>
  let k := fieldLen n y
  if k = 0 then 0 else wrapTo n (sgn k (x / 2 ^ fieldPos y % 2 ^ k))
def opBfi : IntOp := fun n _ x y z =>
  let p := fieldPos y
  let k := fieldLen n y
  let m := (2 ^ k - 1) * 2 ^ p % 2 ^ n
  (z &&& (2 ^ n - 1 - m)) ||| (x * 2 ^ p &&& m)

/-- Bitwise select with the old d as mask (R299). -/
def opSel : IntOp := fun n _ x y z => (z &&& x) ||| ((2 ^ n - 1 - z) &&& y)

/-- One byte of PERM (R298). -/
def permByte (q : Nat) (s : Nat) : Nat :=
  if s < 8 then q / 2 ^ (8 * s) % 256
  else if s < 12 then (if (q / 2 ^ (8 * (s - 8))) % 256 ≥ 128 then 255 else 0)
  else if s = 15 then 255 else 0
def permWord (d a b : W32) : W32 :=
  let q := d.toNat * 2 ^ 32 + a.toNat
  le32 ((List.range 4).map fun i => BitVec.ofNat 8 (permByte q (bits b (4 * i + 3) (4 * i))))

/-- The global address of a rank and region (R300). -/
def globalAddr (a b : W32) : W64 := BitVec.ofNat 64 (3 * 2 ^ 62 + bits a 16 0 * 2 ^ 45 + bits b 4 0 * 2 ^ 40)

/-! ### The instructions -/

def execIadd (w : Bool) (d a b : Operand) (f : IForm) (s : State) : Host.Outcome State Fault Refusal :=
  s.simple (.iadd w d a b f) fun t => t.intR w d a b f opAdd
def execIsub (w : Bool) (d a b : Operand) (f : IForm) (s : State) : Host.Outcome State Fault Refusal :=
  s.simple (.isub w d a b f) fun t => t.intR w d a b f opSub
def execImul (w : Bool) (d a b : Operand) (f : IForm) (s : State) : Host.Outcome State Fault Refusal :=
  s.simple (.imul w d a b f) fun t => t.intR w d a b f opMul
def execImulhS (w : Bool) (d a b : Operand) (f : IForm) (s : State) : Host.Outcome State Fault Refusal :=
  s.simple (.imulhS w d a b f) fun t => t.intR w d a b f opMulhS
def execImulhW (w : Bool) (d a b : Operand) (f : IForm) (s : State) : Host.Outcome State Fault Refusal :=
  s.simple (.imulhW w d a b f) fun t => t.intR w d a b f opMulhW
def execImad (w : Bool) (d a b : Operand) (f : IForm) (s : State) : Host.Outcome State Fault Refusal :=
  s.simple (.imad w d a b f) fun t => t.intR w d a b f opMad
def execAnd (w : Bool) (d a b : Operand) (f : IForm) (s : State) : Host.Outcome State Fault Refusal :=
  s.simple (.and w d a b f) fun t => t.intR w d a b f opAnd
def execOr (w : Bool) (d a b : Operand) (f : IForm) (s : State) : Host.Outcome State Fault Refusal :=
  s.simple (.or w d a b f) fun t => t.intR w d a b f opOr
def execXor (w : Bool) (d a b : Operand) (f : IForm) (s : State) : Host.Outcome State Fault Refusal :=
  s.simple (.xor w d a b f) fun t => t.intR w d a b f opXor
def execAndn (w : Bool) (d a b : Operand) (f : IForm) (s : State) : Host.Outcome State Fault Refusal :=
  s.simple (.andn w d a b f) fun t => t.intR w d a b f opAndn
def execShl (w : Bool) (d a b : Operand) (f : IForm) (s : State) : Host.Outcome State Fault Refusal :=
  s.simple (.shl w d a b f) fun t => t.intR w d a b f opShl
def execShr (w : Bool) (d a b : Operand) (f : IForm) (s : State) : Host.Outcome State Fault Refusal :=
  s.simple (.shr w d a b f) fun t => t.intR w d a b f opShr
def execSar (w : Bool) (d a b : Operand) (f : IForm) (s : State) : Host.Outcome State Fault Refusal :=
  s.simple (.sar w d a b f) fun t => t.intR w d a b f opSar
def execRotl (w : Bool) (d a b : Operand) (f : IForm) (s : State) : Host.Outcome State Fault Refusal :=
  s.simple (.rotl w d a b f) fun t => t.intR w d a b f opRotl
def execBfi (w : Bool) (d a b : Operand) (f : IForm) (s : State) : Host.Outcome State Fault Refusal :=
  s.simple (.bfi w d a b f) fun t => t.intR w d a b f opBfi
def execIcmpeq (w : Bool) (d a b : Operand) (f : IForm) (s : State) : Host.Outcome State Fault Refusal :=
  s.simple (.icmpeq w d a b f) fun t => t.intR w d a b f opEq
def execIcmpne (w : Bool) (d a b : Operand) (f : IForm) (s : State) : Host.Outcome State Fault Refusal :=
  s.simple (.icmpne w d a b f) fun t => t.intR w d a b f opNe
def execIcmpltS (w : Bool) (d a b : Operand) (f : IForm) (s : State) : Host.Outcome State Fault Refusal :=
  s.simple (.icmpltS w d a b f) fun t => t.intR w d a b f opLtS
def execIcmpltW (w : Bool) (d a b : Operand) (f : IForm) (s : State) : Host.Outcome State Fault Refusal :=
  s.simple (.icmpltW w d a b f) fun t => t.intR w d a b f opLtW
def execIcmpleS (w : Bool) (d a b : Operand) (f : IForm) (s : State) : Host.Outcome State Fault Refusal :=
  s.simple (.icmpleS w d a b f) fun t => t.intR w d a b f opLeS
def execIcmpleW (w : Bool) (d a b : Operand) (f : IForm) (s : State) : Host.Outcome State Fault Refusal :=
  s.simple (.icmpleW w d a b f) fun t => t.intR w d a b f opLeW
def execSel (w : Bool) (d a b : Operand) (f : IForm) (s : State) : Host.Outcome State Fault Refusal :=
  s.simple (.sel w d a b f) fun t => t.intR w d a b f opSel
def execIminS (w : Bool) (d a b : Operand) (f : IForm) (s : State) : Host.Outcome State Fault Refusal :=
  s.simple (.iminS w d a b f) fun t => t.intR w d a b f opMinS
def execIminW (w : Bool) (d a b : Operand) (f : IForm) (s : State) : Host.Outcome State Fault Refusal :=
  s.simple (.iminW w d a b f) fun t => t.intR w d a b f opMinW
def execImaxS (w : Bool) (d a b : Operand) (f : IForm) (s : State) : Host.Outcome State Fault Refusal :=
  s.simple (.imaxS w d a b f) fun t => t.intR w d a b f opMaxS
def execImaxW (w : Bool) (d a b : Operand) (f : IForm) (s : State) : Host.Outcome State Fault Refusal :=
  s.simple (.imaxW w d a b f) fun t => t.intR w d a b f opMaxW
def execIaddI (w : Bool) (d a : Operand) (i : BitVec 7) (f : IForm) (s : State) : Host.Outcome State Fault Refusal :=
  s.simple (.iaddI w d a i f) fun t => t.intI w d a i f opAdd
def execImulI (w : Bool) (d a : Operand) (i : BitVec 7) (f : IForm) (s : State) : Host.Outcome State Fault Refusal :=
  s.simple (.imulI w d a i f) fun t => t.intI w d a i f opMul
def execAndI (w : Bool) (d a : Operand) (i : BitVec 7) (f : IForm) (s : State) : Host.Outcome State Fault Refusal :=
  s.simple (.andI w d a i f) fun t => t.intI w d a i f opAnd
def execOrI (w : Bool) (d a : Operand) (i : BitVec 7) (f : IForm) (s : State) : Host.Outcome State Fault Refusal :=
  s.simple (.orI w d a i f) fun t => t.intI w d a i f opOr
def execXorI (w : Bool) (d a : Operand) (i : BitVec 7) (f : IForm) (s : State) : Host.Outcome State Fault Refusal :=
  s.simple (.xorI w d a i f) fun t => t.intI w d a i f opXor
def execShlI (w : Bool) (d a : Operand) (i : BitVec 7) (f : IForm) (s : State) : Host.Outcome State Fault Refusal :=
  s.simple (.shlI w d a i f) fun t => t.intI w d a i f opShl
def execShrI (w : Bool) (d a : Operand) (i : BitVec 7) (f : IForm) (s : State) : Host.Outcome State Fault Refusal :=
  s.simple (.shrI w d a i f) fun t => t.intI w d a i f opShr
def execSarI (w : Bool) (d a : Operand) (i : BitVec 7) (f : IForm) (s : State) : Host.Outcome State Fault Refusal :=
  s.simple (.sarI w d a i f) fun t => t.intI w d a i f opSar
def execRotlI (w : Bool) (d a : Operand) (i : BitVec 7) (f : IForm) (s : State) : Host.Outcome State Fault Refusal :=
  s.simple (.rotlI w d a i f) fun t => t.intI w d a i f opRotl
def execPopc (w : Bool) (d a : Operand) (f : IForm) (s : State) : Host.Outcome State Fault Refusal :=
  s.simple (.popc w d a f) fun t => t.intR w d a .zero f opPopc
def execClz (w : Bool) (d a : Operand) (f : IForm) (s : State) : Host.Outcome State Fault Refusal :=
  s.simple (.clz w d a f) fun t => t.intR w d a .zero f opClz
def execBrev (w : Bool) (d a : Operand) (f : IForm) (s : State) : Host.Outcome State Fault Refusal :=
  s.simple (.brev w d a f) fun t => t.intR w d a .zero f opBrev
def execBfeW (w : Bool) (d a b : Operand) (f : IForm) (s : State) : Host.Outcome State Fault Refusal :=
  s.simple (.bfeW w d a b f) fun t => t.intR w d a b f opBfeW
def execBfeS (w : Bool) (d a b : Operand) (f : IForm) (s : State) : Host.Outcome State Fault Refusal :=
  s.simple (.bfeS w d a b f) fun t => t.intR w d a b f opBfeS
/-- PERM (R298). -/
def execPerm (w : Bool) (d a b : Operand) (s : State) : Host.Outcome State Fault Refusal :=
  s.simple (.perm w d a b) fun t => t.results w d 1 fun x l =>
    (permWord (x.read32 l d) (x.read32 l a) (x.read32 l b)).setWidth 128
/-- GADDR (R300). -/
def execGaddr (w : Bool) (d a b : Operand) (s : State) : Host.Outcome State Fault Refusal :=
  s.simple (.gaddr w d a b) fun t => t.results w d 2 fun x l => (globalAddr (x.read32 l a) (x.read32 l b)).setWidth 128

end Sys2Proof.Machine
end

