-- ==== Sys2Proof/Machine/LaneX.lean ====
section
/-!
DEFINITION. Lane exchange (R311 to R314): shuffles, reductions, scans, matches and votes over the lanes of the issue set.
-/

namespace Sys2Proof.Machine

/-- The value of lane k if it is of the set, else the lane's own (R312). -/
def Wave.fromLane (x : Wave) (set : List Nat) (a : Operand) (l k : Nat) : BitVec 128 :=
  (x.read32 (if set.contains k then k else l) a).setWidth 128

/-- A shuffle with a source lane for each lane. -/
def State.shuffle (s : State) (w : Bool) (d a : Operand) (src : Wave → Nat → Nat) : State :=
  s.results w d 1 fun x l => x.fromLane s.myLanes a l (src x l)

def execShfl (w : Bool) (d a b : Operand) (s : State) : Host.Outcome State Fault Refusal :=
  s.simple (.shfl w d a b) fun t => t.shuffle w d a fun x l => bits (x.read32 l b) 5 0
def execShflup (w : Bool) (d a : Operand) (i : BitVec 7) (s : State) : Host.Outcome State Fault Refusal :=
  s.simple (.shflup w d a i) fun t => t.shuffle w d a fun _ l => if l < i.toNat then l else l - i.toNat
def execShfldn (w : Bool) (d a : Operand) (i : BitVec 7) (s : State) : Host.Outcome State Fault Refusal :=
  s.simple (.shfldn w d a i) fun t => t.shuffle w d a fun _ l => if 63 < l + i.toNat then l else l + i.toNat
def execShflx (w : Bool) (d a : Operand) (i : BitVec 7) (s : State) : Host.Outcome State Fault Refusal :=
  s.simple (.shflx w d a i) fun t => t.shuffle w d a fun _ l => l ^^^ i.toNat
def execBcast (w : Bool) (d a : Operand) (i : BitVec 7) (s : State) : Host.Outcome State Fault Refusal :=
  s.simple (.bcast w d a i) fun t => t.shuffle w d a fun _ _ => i.toNat

/-- The sum of a form over some lanes: integer sums wrap, float sums are exact with one rounding (R313). -/
def sumLanes (f : SumForm) (vs : List (BitVec 128)) : FpRes :=
  let fsum := fun (t : FFmt) =>
    let v := sumVals .rne (vs.map fun x => t.value x.toNat)
    let r := t.deliver .rne false v.1
    ((BitVec.ofNat 128 r.1, r.2 ||| v.2) : FpRes)
  match f with
  | .b32 => (BitVec.ofNat 128 (vs.foldl (fun n x => n + x.toNat) 0 % 2 ^ 32), 0)
  | .b64 => (BitVec.ofNat 128 (vs.foldl (fun n x => n + x.toNat) 0 % 2 ^ 64), 0)
  | .f32 => fsum .f32
  | .f64 => fsum .f64

def execWadd (w : Bool) (d a : Operand) (f : SumForm) (s : State) : Host.Outcome State Fault Refusal :=
  s.perform (.wadd w d a f) false fun t => t.fpResults w d f.regs fun x _ =>
    sumLanes f (t.myLanes.map fun k => x.readN k f.regs a)
def execWscan (w : Bool) (d a : Operand) (f : SumForm) (s : State) : Host.Outcome State Fault Refusal :=
  s.perform (.wscan w d a f) false fun t => t.fpResults w d f.regs fun x l =>
    sumLanes f ((t.myLanes.filter (· ≤ l)).map fun k => x.readN k f.regs a)

/-- Least or greatest over the set; floats by FMIN and FMAX (R302, R313). -/
def extreme (f : MinForm) (least : Bool) (vs : List Nat) : FpRes :=
  let keep := fun (le : Nat → Nat → Bool) =>
    vs.tail.foldl (fun b x => if least then (if le b x then b else x) else (if le x b then b else x)) (vs.headD 0)
  match f with
  | .s32 => (BitVec.ofNat 128 (keep fun x y => decide (sgn 32 x ≤ sgn 32 y)), 0)
  | .w32 => (BitVec.ofNat 128 (keep fun x y => decide (x ≤ y)), 0)
  | .f32 =>
    let xs := vs.map FFmt.f32.value
    let pick := if least then minVals else maxVals
    let v := xs.foldl (fun b x => if b.isNan then b else (pick b x).1) (xs.headD (.nan false))
    let r := FFmt.f32.deliver .rne false (if xs.any FVal.isNan then .nan false else v)
    (BitVec.ofNat 128 r.1, flagIf (xs.any FVal.sig) flagIV)

def execWmin (w : Bool) (d a : Operand) (f : MinForm) (s : State) : Host.Outcome State Fault Refusal :=
  s.perform (.wmin w d a f) false fun t => t.fpResults w d 1 fun x _ =>
    extreme f true (t.myLanes.map fun k => (x.read32 k a).toNat)
def execWmax (w : Bool) (d a : Operand) (f : MinForm) (s : State) : Host.Outcome State Fault Refusal :=
  s.perform (.wmax w d a f) false fun t => t.fpResults w d 1 fun x _ =>
    extreme f false (t.myLanes.map fun k => (x.read32 k a).toNat)

/-- The mask of lanes of the set with a property. -/
def State.lanesWith (s : State) (p : Nat → Bool) : LaneMask := maskOf (s.myLanes.filter p)

def execMatchEq (w : Bool) (d a : Operand) (s : State) : Host.Outcome State Fault Refusal :=
  s.simple (.matchEq w d a) fun t => t.results w d 2 fun x l =>
    (t.lanesWith fun k => x.read32 k a == x.read32 l a).setWidth 128
def execVote (w : Bool) (d a : Operand) (f : VoteForm) (s : State) : Host.Outcome State Fault Refusal :=
  s.simple (.vote w d a f) fun t => t.results w d f.regs fun x _ =>
    let m := t.lanesWith fun k => x.read32 k a != 0
    match f with
    | .any => if m = 0 then 0 else 0xFFFFFFFF
    | .all => if m = t.cur.mask then 0xFFFFFFFF else 0
    | .ballot => m.setWidth 128

end Sys2Proof.Machine
end

