-- ==== Sys2Proof/Machine/Matrix.lean ====
section
/-!
DEFINITION. The matrix engine (R195 to R201, R352 to R367): ownership, accumulator banks, the issue of matrix commands, and their
execution in order on the engine of a core or on both of a pair, each in one step (R449).
-/

namespace Sys2Proof.Machine

/-! ### Ownership (R195 to R197) -/

/-- A trap whose information word is the instruction (R347). -/
def State.engTrap (s : State) (cause detail : Nat) : State := s.trap cause detail s.cur.mask (s.cur.word.setWidth 64)

/-- A wave asks for the engine of a core: it takes a free one, else it joins the tail of the queue. -/
def State.askEngine (s : State) (c k : Nat) (pair : Bool) : State :=
  let x := s.core c
  if x.owner = some k || x.queue.any (·.1 == k) then s
  else if x.owner.isNone then s.grantEngine c k
  else s.modCore c fun x => { x with queue := x.queue ++ [(k, pair)] }
def State.ownsEngine (s : State) (c k : Nat) : Bool := (s.core c).owner == some k

/-- MACQ: completes with the engine held, else waits in the queue. -/
def execMacq (s : State) : Host.Outcome State Fault Refusal :=
  s.perform .macq false fun t =>
    let k := t.cur.wave
    let t := t.askEngine t.myCore k false
    if t.ownsEngine t.myCore k then .ok (t.modWave k fun w => { w with own := max 1 w.own }) else .error (t.hold .engine)

/-- MACQ.pair: the even engine, then the odd one; an odd engine held alone is released first. -/
def execMacqPair (s : State) : Host.Outcome State Fault Refusal :=
  s.perform .macqPair false fun t =>
    let k := t.cur.wave
    let g := t.myWg
    if !g.pair then .error (t.engTrap causeEngine 0x04)
    else
      let t := if t.ownsEngine (g.core + 1) k && !t.ownsEngine g.core k then
          (t.releaseEngine (g.core + 1)).modWave k fun w => { w with own := 0 }
        else t
      let t := t.askEngine g.core k true
      if !t.ownsEngine g.core k then .error (t.hold .engine)
      else
        let t := t.askEngine (g.core + 1) k true
        if t.ownsEngine (g.core + 1) k then .ok (t.modWave k fun w => { w with own := 2 }) else .error (t.hold .engine)

/-- MREL: every engine the wave owns is released. -/
def execMrel (s : State) : Host.Outcome State Fault Refusal :=
  s.perform .mrel false fun t =>
    let k := t.cur.wave
    let mine := [t.myWg.core, t.myWg.core + 1].filter fun c => t.ownsEngine c k
    if mine.isEmpty then .error (t.engTrap causeEngine 0x02)
    else .ok ((mine.foldl State.releaseEngine t).modWave k fun w => { w with own := 0 })

/-! ### Accumulator banks (R199, R200, R353) -/

def Wg.cores (g : Wg) : List Nat := if g.pair then [g.core, g.core + 1] else [g.core]
/-- Banks b to b + n − 1 as a mask. -/
def bankMask (b n : Nat) : BitVec 128 := ((1#128 <<< n) - 1) <<< b
def Wg.holds (g : Wg) (b n : Nat) : Bool := decide (b + n ≤ 128) && (List.range n).all fun i => g.held.getLsbD (b + i)
/-- The lowest free run of n banks within the reservation. -/
def Wg.freeRun (g : Wg) (n : Nat) : Option Nat :=
  ((List.range (g.accCount + 1 - n)).map (g.accBase + ·)).find? fun b => (List.range n).all fun i => !g.held.getLsbD (b + i)
def Core.zeroBanks (x : Core) (b n : Nat) : Core :=
  { x with acc := x.acc.filter fun e => !(decide (2048 * b ≤ e.1) && decide (e.1 < 2048 * (b + n))),
           badBanks := x.badBanks.filter fun v => !(decide (b ≤ v) && decide (v < b + n)) }

def execAballoc (w : Bool) (d : Operand) (n : BitVec 8) (s : State) : Host.Outcome State Fault Refusal :=
  s.perform (.aballoc w d n) false fun t =>
    match t.myWg.freeRun n.toNat with
    | none => .error (t.engTrap causeEngine 0x03)
    | some b =>
      let t := t.myWg.cores.foldl (fun t c => (t.modCore c fun x => x.zeroBanks b n.toNat).touch ((List.range n.toNat).map fun i => (c, 48 + b + i))) t
      let t := t.modWg t.me.wg fun g => { g with held := g.held ||| bankMask b n.toNat }
      .ok (t.results w d 1 fun _ _ => BitVec.ofNat 128 b)

def execAbfree (d : Operand) (n : BitVec 8) (s : State) : Host.Outcome State Fault Refusal :=
  s.perform (.abfree d n) false fun t =>
    let b := bits (t.me.read32 (leading t.cur.mask) d) 7 0
    let g := t.myWg
    if !g.holds b n.toNat then .error (t.engTrap causePermission 7)
    else if (g.cores.flatMap t.board).any fun c => c.wg == t.me.wg && (List.range n.toNat).any fun i => c.namesBank (b + i) then
      .error (t.hold .engine)
    else .ok (t.modWg t.me.wg fun g => { g with held := g.held &&& ~~~(bankMask b n.toNat) })

/-! ### Issue (R347, R359 to R364) -/

/-- Words of the leading lane. -/
def State.leadWord (s : State) (r : Nat) : W32 := s.me.reg r (leading s.cur.mask)
def State.leadPair (s : State) (r : Nat) : W64 := s.leadWord (r + 1) ++ s.leadWord r

def zeroBits (w : W32) (hi lo : Nat) : Bool := bits w hi lo == 0
/-- Scaled operands, and the checks of an MMA operand's two words (R355, R356, R359): `used` says that OFF is named. -/
def operandOk (op : CmdOp) (isB used : Bool) (w w1 : W32) : Bool :=
  zeroBits w 31 24 && (!used || bits w 23 0 % 128 == 0)
    && (!hasScale op isB || (zeroBits w1 30 24 && !(isHb4 op isB && w1.getLsbD 31)
      && (!used || w1.getLsbD 31 || bits w1 23 0 % 64 == 0)))

/-- Whether an MDRAIN names a type it may (R364). -/
def drainTypeOk (f : DrainForm) (w : W32) : Bool :=
  let t := bits w 19 16
  if f = .cvt then t != 1 && decide (t ≤ 8) && !w.getLsbD 20 else t == 0

/-- Check 3: the descriptor words. -/
def Cmd.wordsOk (c : Cmd) : Bool :=
  match c.op with
  | .mgath =>
    let b := c.w 0
    zeroBits c.cw 31 24 && zeroBits c.cw 1 0 && zeroBits c.aw 31 24 && zeroBits c.aw1 31 24 && zeroBits b 31 25 && zeroBits b 15 6
      && decide (1 ≤ bits b 5 0) && decide (bits b 5 0 ≤ 32) && decide (bits b 24 16 ≤ 256)
  | .mmaF .. | .mmaI .. =>
    zeroBits c.cw 31 17 && decide (bits c.cw 7 0 ≤ 120) && operandOk c.op false (!c.al) c.aw c.aw1
      && operandOk c.op true true (c.w 0) (c.w 1)
  | .mzero => zeroBits c.cw 31 16 && decide (bits c.cw 7 0 + bits c.cw 15 8 + 1 ≤ 128)
  | .msnap => zeroBits c.cw 31 16 && zeroBits c.aw 31 8 && decide (bits c.cw 7 0 + bits c.cw 15 8 + 1 ≤ 128)
      && decide (bits c.aw 7 0 + bits c.cw 15 8 + 1 ≤ 128)
  | .mdrain f =>
    let b := c.w 0
    zeroBits c.cw 31 8 && c.a.toNat % 16 == 0 && zeroBits b 31 21 && drainTypeOk f b && bits b 15 0 % 16 == 0
      && decide (drainRow f b ≤ bits b 15 0) && zeroBits (c.w 1) 30 24
  | _ => true

/-- Offsets that a pair form may not give bit 23 (R361, R362). -/
def Cmd.pairOffsets (c : Cmd) : List W32 :=
  match c.op with
  | .mgath => [c.cw, c.aw, c.aw1]
  | .mmaF .. | .mmaI .. =>
    (if c.al then [] else c.aw :: (if hasScale c.op false && !c.aw1.getLsbD 31 then [c.aw1] else []))
      ++ c.w 0 :: (if hasScale c.op true && !(c.w 1).getLsbD 31 then [c.w 1] else [])
  | _ => []

/-- Runs of banks named: first and count. -/
def Cmd.bankRuns (c : Cmd) : List (Nat × Nat) :=
  let n := bits c.cw 15 8 + 1
  match c.op with
  | .mmaF .. | .mmaI .. | .mdrain _ => [(bits c.cw 7 0, 8)]
  | .mzero => [(bits c.cw 7 0, n)]
  | .msnap => [(bits c.cw 7 0, n), (bits c.aw 7 0, n)]
  | _ => []

/-- The place of an MDRAIN row: the scratchpad window, or chip memory by tag 0b00 or an own-rank global address. -/
def State.drainPlace (s : State) (k lead : Nat) (acc : Acc) (ea : W64) (n : Nat) : Check :=
  (if n = 0 then [ea] else probes ea n).forM fun x =>
    let own := bits x 61 45 == (s.tenant (s.waveTenant k)).cur.jobRank.toNat
    if (bits x 63 62 = 1 ∧ bits x 61 56 ≠ 0) ∨ (bits x 63 62 = 3 ∧ own = false) then .error (.trap causeEngine 0x0B x)
    else s.placeProbe k lead .chip acc x

/-- Checks 3 to 7 of a matrix command. -/
def State.matrixChecks (s : State) (c : Cmd) : Check := do
  let word := s.cur.word.setWidth 64
  let g := s.wg c.wg
  let lead := leading c.mask
  demand c.wordsOk causeEngine 0x05 word
  demand ((if g.pair then c.cores else [c.core]).all fun x => s.ownsEngine x c.wave) causeEngine 0x01 word
  demand (!c.pair || g.pair) causeEngine 0x0A word
  demand (!c.pair || c.pairOffsets.all fun w => !w.getLsbD 23) causeEngine 0x0A word
  demand (c.bankRuns.all fun (b, n) => g.holds b n) causePermission 7 word
  let rangesOk : Check := c.scrReads.forM fun (o, n) => demand (decide (o + n ≤ g.scrUnits * 2048)) causePermission 4 (BitVec.ofNat 64 (windowEa o))
  match c.op with
  | .mdrain f =>
    (List.range c.rows).forM fun r => s.drainPlace c.wave lead .write (c.dstRow r) c.rowb
    rangesOk
    (List.range c.rows).forM fun r => do
      s.checkRange c.wave lead .chip .write (c.dstRow r) c.rowb
      if f = .add then s.checkRange c.wave lead .chip .read (c.dstRow r) c.rowb
  | _ => rangesOk

/-- The issue of a matrix command. -/
def State.issueMatrix (s : State) (i : Instr) (c : State → Cmd) : Host.Outcome State Fault Refusal :=
  s.perform i false fun t =>
    let c := c t
    let nb := match c.op with
      | .mdrain _ => (c.w 1).getLsbD 31
      | _ => true
    if nb then t.command c t.matrixChecks
    else
      match t.matrixChecks c with
      | .error e => .error (t.stop e)
      | .ok () =>
        let ea := BitVec.ofNat 64 (windowEa (bits (c.w 1) 23 0))
        match t.objectAt c.wave (leading c.mask) ea true .atomic with
        | .error e => .error (t.stop e)
        | .ok l => t.command { c with comp := .bar, compAddr := ea, compLoc := some l, compCnt := countedAt t c.wave (leading c.mask) ea } fun _ => .ok ()

/-- A command with its words: c, the pair or word a, the words of b. -/
def State.matrixCmd (s : State) (op : CmdOp) (p : Bool) (c : VReg) (a : W64) (b : List W32) : Cmd :=
  { s.newCmd op p with c := (s.leadWord c.val).setWidth 64, a := a, b := b, onChip := match op with
      | .mscale _ => false
      | _ => true }
/-- An MMA (R358). -/
def State.mma (s : State) (i : Instr) (op : CmdOp) (p : Bool) (c a b : VReg) : Host.Outcome State Fault Refusal :=
  s.issueMatrix i fun t => t.matrixCmd op p c (t.leadPair a.val) [t.leadWord b.val, t.leadWord (b.val + 1)]

def execMmaF16 (p : Bool) (c a b : VReg) (f : BitVec 2) (s : State) : Host.Outcome State Fault Refusal :=
  let t := if f = 0 then FFmt.f16 else .bf16
  s.mma (.mmaF16 p c a b f) (.mmaF t t false false) p c a b
def execMmaFp8 (p : Bool) (c a b : VReg) (f : BitVec 2) (s : State) : Host.Outcome State Fault Refusal :=
  let t := fun (x : Bool) => if x then FFmt.e5m2 else .e4m3
  s.mma (.mmaFp8 p c a b f) (.mmaF (t (f.getLsbD 1)) (t (f.getLsbD 0)) false false) p c a b
def execMmaInt8 (p : Bool) (c a b : VReg) (f : BitVec 2) (s : State) : Host.Outcome State Fault Refusal :=
  s.mma (.mmaInt8 p c a b f) (.mmaI (!f.getLsbD 1) (!f.getLsbD 0)) p c a b
def execMmaFp8Fp4 (p : Bool) (c a b : VReg) (f : BitVec 2) (s : State) : Host.Outcome State Fault Refusal :=
  s.mma (.mmaFp8Fp4 p c a b f) (.mmaF (if f.getLsbD 1 then .e5m2 else .e4m3) .e2m1 false (f.getLsbD 0)) p c a b
def execMmaFp4 (p : Bool) (c a b : VReg) (f : BitVec 2) (s : State) : Host.Outcome State Fault Refusal :=
  s.mma (.mmaFp4 p c a b f) (.mmaF .e2m1 .e2m1 (f.getLsbD 0) (f.getLsbD 0)) p c a b
def execMmaFp6 (p : Bool) (c a b : VReg) (f : BitVec 2) (s : State) : Host.Outcome State Fault Refusal :=
  let t := fun (x : Bool) => if x then FFmt.e2m3 else .e3m2
  s.mma (.mmaFp6 p c a b f) (.mmaF (t (f.getLsbD 0)) (t (f.getLsbD 0 != f.getLsbD 1)) false false) p c a b

def execMgath (p : Bool) (c a b : VReg) (s : State) : Host.Outcome State Fault Refusal :=
  s.issueMatrix (.mgath p c a b) fun t => t.matrixCmd .mgath p c (t.leadPair a.val) [t.leadWord b.val]
def execMscale (p : Bool) (c : VReg) (x : Bool) (s : State) : Host.Outcome State Fault Refusal :=
  s.issueMatrix (.mscale p c x) fun t => t.matrixCmd (.mscale x) p c 0 []
def execMzero (p : Bool) (c : VReg) (s : State) : Host.Outcome State Fault Refusal :=
  s.issueMatrix (.mzero p c) fun t => t.matrixCmd .mzero p c 0 []
def execMsnap (p : Bool) (c a : VReg) (s : State) : Host.Outcome State Fault Refusal :=
  s.issueMatrix (.msnap p c a) fun t => t.matrixCmd .msnap p c ((t.leadWord a.val).setWidth 64) []
def execMdrain (p : Bool) (c a b : VReg) (f : DrainForm) (s : State) : Host.Outcome State Fault Refusal :=
  s.issueMatrix (.mdrain p c a b f) fun t =>
    t.matrixCmd (.mdrain f) p c (t.leadPair a.val) [t.leadWord b.val, t.leadWord (b.val + 1)]

/-! ### Operands in execution -/

/-- `n` bytes of the part of a core's scratchpad. -/
def State.part (s : State) (g core off n : Nat) : List Byte := s.peekN (.scr g (scrKey (s.wg g) core off)) n
/-- The core whose part gives the B operand (R361). -/
def Cmd.bCore (c : Cmd) : Nat := if c.pair then c.core / 2 * 2 else c.core

/-- The 64 row indices of an MGATH on a core. -/
def Cmd.gather (s : State) (c : Cmd) (core : Nat) : List Nat :=
  (List.range 64).map fun i => leNat (s.part c.wg core (bits c.cw 23 0 + 4 * i) 4)
def Cmd.rowBytes (c : Cmd) : Nat := 16 * bits (c.w 0) 5 0
def Cmd.scaleRow (c : Cmd) : Nat := bits (c.w 0) 24 16

/-- Runs of a scratchpad part that a command reads: core, offset, bytes (R361, R362). -/
def Cmd.reads (s : State) (c : Cmd) : List (Nat × Nat × Nat) :=
  match c.op with
  | .mmaF .. | .mmaI .. =>
    let a := if c.al then [] else (bits c.aw 23 0, opBytes c.op false c.kg) ::
      (if hasScale c.op false && !c.aw1.getLsbD 31 then [(bits c.aw1 23 0, scaleBytes c.op false c.kg)] else [])
    let b := (bits (c.w 0) 23 0, opBytes c.op true c.kg) ::
      (if hasScale c.op true && !(c.w 1).getLsbD 31 then [(bits (c.w 1) 23 0, scaleBytes c.op true c.kg)] else [])
    (c.cores.flatMap fun x => a.map fun (o, n) => (x, o, n)) ++ b.map fun (o, n) => (c.bCore, o, n)
  | .mgath =>
    c.cores.flatMap fun x => (x, bits c.cw 23 0, 256) :: (c.gather s x).flatMap fun r =>
      [(x, bits c.aw 23 0 + r * c.rowBytes, c.rowBytes), (x, bits c.aw1 23 0 + r * c.scaleRow, c.scaleRow)]
  | .mdrain .add =>
    -- the destination rows that lie in the scratchpad
    let g := s.wg c.wg
    (List.range c.rows).filterMap fun r =>
      let ea := c.dstRow r
      if bits ea 63 56 = 0x40 then
        let other := if c.core = g.core then g.core + 1 else g.core
        some (if bits ea 23 23 = 1 then other else c.core, bits ea 22 0, c.rowb)
      else none
  | _ => []

/-- The window address of a byte of a core's part as the issuing core names it. -/
def Cmd.partEa (c : Cmd) (core off : Nat) : W64 := BitVec.ofNat 64 (0x40 * 2 ^ 56 + (if core = c.core then 0 else 2 ^ 23) + off)

/-- Accumulator banks that a command reads: first and number. -/
def Cmd.readBanks (c : Cmd) : Nat × Nat :=
  match c.op with
  | .mmaF .. | .mmaI .. | .mdrain _ => (bits c.cw 7 0, 8)
  | .msnap => (bits c.aw 7 0, c.banks.2)
  | _ => (0, 0)
/-- The fault of a command, detail and information word: a run beyond the part (R362), a poisoned line (R55, R366), an uncorrectable
bank (R366, R416). -/
def Cmd.readFault (s : State) (c : Cmd) : Option (Nat × W64) :=
  let g := s.wg c.wg
  match c.cores.findSome? fun x => (s.core x).badBanks.find? fun b => decide (c.readBanks.1 ≤ b) && decide (b < c.readBanks.1 + c.readBanks.2) with
  | some b => some (7, BitVec.ofNat 64 b)
  | none =>
    -- run by run, the index run of MGATH before the rows that it names
    (c.reads s).findSome? fun (x, o, n) =>
      if n = 0 then none
      else if g.scrUnits * 2048 < o + n then some (6, c.partEa x o)
      else ((List.range ((o % 128 + n + 127) / 128)).map fun i => o / 128 * 128 + 128 * i).findSome? fun a =>
        if Tab.get false g.spoiled (scrKey g x a / 128) then some (7, c.partEa x a) else none
/-- Keys of the scratchpad lines a command reads. -/
def Cmd.readLines (s : State) (c : Cmd) : List Nat :=
  ((c.reads s).flatMap fun (x, o, n) => if n = 0 then [] else
    (List.range ((o % 128 + n + 127) / 128)).map fun i => scrKey (s.wg c.wg) x (o + 128 * i) / 128).eraseDups
/-- A line read waits: one that another command has made absent (R365), or that a commit has still to write (R88, R105, R106). -/
def Cmd.readWaits (s : State) (c : Cmd) : Bool :=
  let g := s.wg c.wg
  (c.readLines s).any fun l =>
    decide ((if c.lines.contains l then 1 else 0) < Tab.get 0 g.absent l) || s.pendingLine (.scr c.wg (128 * l))
      || s.readWaits c.core (.scr c.wg (128 * l))
/-- The store and accumulator banks of the places a command reads and writes are accessed (R73). -/
def State.useMatrix (s : State) (c : Cmd) : State :=
  let acc := [c.readBanks, c.banks].flatMap fun (b, n) => c.cores.flatMap fun k => (List.range n).map fun i => (k, 48 + b + i)
  (s.useBanks ((c.readLines s).map fun l => .scr c.wg (128 * l))).touch acc.eraseDups

/-- The latch does not hold what an MMA with AL = 1 needs (R362). -/
def Cmd.latchShort (c : Cmd) (e : MatrixRegs) : Bool :=
  let mma := match c.op with
    | .mmaF .. | .mmaI .. => true
    | _ => false
  mma && c.al && (!e.valid || decide (16 * e.rbu < c.kg * rowGroup c.op false)
    || (hasScale c.op false && !c.aw1.getLsbD 31 && decide (e.sby < (if isHb4 c.op false then 8 else 1) * c.kg)))

/-- The bytes of row i of an operand in k-group g, and its scale bytes. -/
def Cmd.rowAt (s : State) (c : Cmd) (e : MatrixRegs) (core : Nat) (isB : Bool) (g i : Nat) : Nat :=
  let n := rowGroup c.op isB
  if c.al && !isB then leNat (Tab.bytes e.rows (512 * i + n * g) n)
  else leNat (s.part c.wg (if isB then c.bCore else core) (bits (if isB then c.w 0 else c.aw) 23 0 + 64 * n * g + n * i) n)
def Cmd.scalesAt (s : State) (c : Cmd) (e : MatrixRegs) (core : Nat) (isB : Bool) (g i : Nat) : List Byte :=
  let w1 := if isB then c.w 1 else c.aw1
  let n := if isHb4 c.op isB then 8 else 1
  if !hasScale c.op isB then []
  else if w1.getLsbD 31 then [0x7F]
  else if c.al && !isB then Tab.bytes e.scales (256 * i + n * g) n
  else s.part c.wg (if isB then c.bCore else core) (bits w1 23 0 + 64 * n * g + n * i) n

/-! ### MMA (R248 to R250, R360) -/

/-- The 32 values of a row in a k-group, their scales applied exactly (R246, R247). -/
def scaledRow (f : FFmt) (hb : Bool) (row : Nat) (scales : List Byte) : List FVal :=
  (List.range 32).map fun k =>
    let a := f.value (row / 2 ^ (f.width * k) % 2 ^ f.width)
    if hb then (mulVals (FFmt.u5m3.value (scales.getD (k / 4) 0).toNat) a).1
    else match scales with
      | s :: _ =>
        if s = 0xFF then .nan false
        else match a with
          | .num n m e => .num n m (e + s.toNat - 127)
          | x => x
      | [] => a

/-- One k-group of a float tile element. -/
def mmaGroup (ta tb : FVal) (sat : Bool) (xs ys : List FVal) (c : Nat) : Nat :=
  let sum := (sumVals .rne (List.zipWith (fun x y => (mulVals x y).1) xs ys)).1
  let p := (mulVals (mulVals ta tb).1 sum).1
  let g := if sum.isZero && !p.isNan then 0 else (FFmt.f32.deliver .rne sat p).1
  (fpAdd .f32 .rne sat c g 0).1
/-- One k-group of an integer tile element (R250). -/
def mmaIntGroup (sa sb sat : Bool) (x y : Nat) (c : Nat) : Nat :=
  let el := fun (sg : Bool) (v k : Nat) =>
    let b := v / 2 ^ (8 * k) % 256
    if sg then sgn 8 b else (b : Int)
  let sum := (List.range 32).foldl (fun a k => a + el sa x k * el sb y k) (sgn 32 c)
  if sat then clampTo 32 sum else wrapTo 32 sum

/-- A tile in row order: 4,096 words. -/
def Core.tile (x : Core) (bank : Nat) : List Nat := (List.range 4096).map fun n => leNat (Tab.bytes x.acc (2048 * bank + 4 * n) 4)

/-- The tile of one core after an MMA. -/
def Cmd.product (s : State) (c : Cmd) (core : Nat) : List Nat :=
  let e := (s.core core).eng
  let old := (s.core core).tile (bits c.cw 7 0)
  match c.op with
  | .mmaF fa fb ha hb =>
    let ta := if ha then FFmt.f32.value e.ta.toNat else .num false 1 0
    let tb := if hb then FFmt.f32.value e.tb.toNat else .num false 1 0
    (List.range c.kg).foldl (fun t g =>
      let as_ := (List.range 64).map fun i => scaledRow fa ha (c.rowAt s e core false g i) (c.scalesAt s e core false g i)
      let bs := (List.range 64).map fun j => scaledRow fb hb (c.rowAt s e core true g j) (c.scalesAt s e core true g j)
      List.zipWith (fun (xy : List FVal × List FVal) v => mmaGroup ta tb c.sat xy.1 xy.2 v) (as_.flatMap fun x => bs.map fun y => (x, y)) t) old
  | .mmaI sa sb =>
    (List.range c.kg).foldl (fun t g =>
      let as_ := (List.range 64).map fun i => c.rowAt s e core false g i
      let bs := (List.range 64).map fun j => c.rowAt s e core true g j
      List.zipWith (fun (xy : Nat × Nat) v => mmaIntGroup sa sb c.sat xy.1 xy.2 v) (as_.flatMap fun x => bs.map fun y => (x, y)) t) old
  | _ => old

/-! ### Execution -/

/-- Bytes that a matrix command writes to banks of a core: first bank and contents. -/
def Cmd.bankBytes (s : State) (c : Cmd) (core : Nat) : Option (Nat × List Byte) :=
  let b := bits c.cw 7 0
  let n := 2048 * (bits c.cw 15 8 + 1)
  match c.op with
  | .mmaF .. | .mmaI .. => some (b, (c.product s core).flatMap fun v => leBytes 4 v)
  | .mzero => some (b, List.replicate n 0)
  | .msnap => some (b, Tab.bytes (s.core core).acc (2048 * bits c.aw 7 0) n)
  | _ => none

/-- The log entries of the banks a command writes on a core, line by line. -/
def Cmd.bankEntries (s : State) (c : Cmd) (core first n : Nat) : List (List W64) :=
  (List.range (n / 128)).flatMap fun i =>
    let o := 2048 * first + 128 * i
    engEntries s c (BitVec.ofNat 64 (0x43 * 2 ^ 56 + o)) ((List.range 8).map fun u => .acc core (o + 16 * u))

/-- The engine state of a core after a command: the latch of MGATH, the tile scale of MSCALE. -/
def Cmd.engineAfter (s : State) (c : Cmd) (core : Nat) (e : MatrixRegs) : MatrixRegs :=
  match c.op with
  | .mscale tb => if tb then { e with tb := c.cw } else { e with ta := c.cw }
  | .mgath =>
    let put := fun (base n step : Nat) =>
      ((c.gather s core).zipIdx).foldl (fun (t : Tab Byte) (r, i) => Tab.store t (step * i) (s.part c.wg core (base + r * n) n)) []
    { e with rows := put (bits c.aw 23 0) c.rowBytes 512, scales := put (bits c.aw1 23 0) c.scaleRow 256, valid := true,
             rbu := bits (c.w 0) 5 0, sby := c.scaleRow }
  | _ => e

/-- The float type of an MDRAIN's rows. -/
def drainType (f : DrainForm) (w : W32) : FFmt :=
  if f = .cvt then [FFmt.f32, .f64, .f16, .bf16, .e5m2, .e4m3, .e3m2, .e2m3, .e2m1].getD (bits w 19 16) .f32 else .f32

/-- One element stored by MDRAIN (R364). -/
def drainOut (f : DrainForm) (w : W32) (sat : Bool) (x dst : Nat) : Nat :=
  let int := w.getLsbD 20
  match f with
  | .cvt => (cvtFF (drainType f w) .f32 .rne sat x).1
  | .replace => if int then x else if sat ∧ x % 2 ^ 31 = 0x7F800000 then x - 1 else x
  | .add =>
    if int then if sat then clampTo 32 (sgn 32 x + sgn 32 dst) else (x + dst) % 2 ^ 32
    else (fpAdd .f32 .rne sat dst x 0).1

/-- Row r of an MDRAIN: 64 elements packed (R234), added to the bytes of the destination. -/
def Cmd.drainBytes (s : State) (c : Cmd) (f : DrainForm) (r : Nat) (old : List Byte) : List Byte :=
  let core := if c.pair then c.core / 2 * 2 + r / 64 else c.core
  let n := drainBits f (c.w 0)
  let base := 2048 * bits c.cw 7 0 + 256 * (r % 64)
  let es := (List.range 64).map fun j =>
    drainOut f (c.w 0) c.sat (leNat (Tab.bytes (s.core core).acc (base + 4 * j) 4)) (leNat ((old.drop (4 * j)).take 4))
  leBytes c.rowb (es.foldr (fun x a => x % 2 ^ n + 2 ^ n * a) 0)

/-- The places of the rows of an MDRAIN. -/
def State.drainPlaces (s : State) (c : Cmd) (f : DrainForm) : Except EngStop (List (W64 × List Loc)) :=
  (List.range c.rows).mapM fun r =>
    let ea := c.dstRow r
    (if f = .add then (s.engLocs c ea c.rowb .read).map fun _ => () else .ok ()).bind fun _ =>
      (s.engWrite c ea c.rowb).map fun ls => (ea, ls)

/-- The rows placed line by line, each logged and counted (R106, R351). -/
def State.drain (s : State) (c : Cmd) (f : DrainForm) : State :=
  match s.drainPlaces c f with
  | .error e => s.engHalt c e
  | .ok rows =>
    let data := (rows.zipIdx).map fun ((_, ls), r) => c.drainBytes s f r (ls.map s.peek)
    let lines := ((rows.zip data).flatMap fun ((ea, ls), bs) =>
      (List.range c.per).filterMap fun j =>
        let p := partOf ea 128 c.rowb j
        if p.1 < p.2 then
          some (ea + BitVec.ofNat 64 p.1, (ls.drop p.1).take (p.2 - p.1), (bs.drop p.1).take (p.2 - p.1))
        else none)
    match s.logEngine c (lines.flatMap fun (a, ls, _) => engEntries s c (BitVec.ofNat 64 (a.toNat / 128 * 128)) ls) with
    | .error t => t
    | .ok s =>
      let s := lines.foldl (fun s (a, ls, bs) =>
        ((s.keepStale c.tenant (s.aliasVa c.tenant a) ls).engStore ls bs).countPlaced c ls.length) s
      let s := s.modWg c.wg fun g => { g with spoiled := (c.lines.filter (c.fillsLine s)).foldl (fun t l => Tab.put false t l false) g.spoiled }
      let s := (rows.zip data).foldl (fun s ((ea, _), bs) => s.audit c.wg ea bs) s
      (s.finishCmd c).wakeAll

/-- The issuing wave has ended: no entry is queued for it (R405). -/
def State.waveEnded (s : State) (k : Nat) : Bool :=
  let w := s.wave k
  !w.live || (!w.handler && w.lanes.all (·.exited))

/-- A fault of a matrix command in execution (R366): it is held for replay, or at its third fault, or with its wave ended, abandoned. -/
def State.matrixFault (s : State) (c : Cmd) (detail : Nat) (info : W64) : State :=
  let n := c.faults + 1
  let g := s.wg c.wg
  let contained := g.cntOpen && g.live && detail == 7
  if (decide (3 ≤ n) || s.waveEnded c.wave) && !contained then
    let s := ((s.freeLines c c.lines).failObject c 0x0A 0x06).dropCmd c.id
    let s := s.faultCell c.launch causeEngine 0x0D g.index info
    (if s.waveEnded c.wave then s else s.trapAsync c.wave c.pc causeEngine 0x0D false c.mask info).wakeAll
  else
    (s.modCmd c.id fun x => { x with faults := n, held := true }).trapAsync c.wave c.pc causeEngine detail false c.mask info

/-- A command at the head of its engines with its lines present (R195, R365). -/
def State.heads (s : State) (c : Cmd) : Bool :=
  c.cores.all fun x => ((s.cmds.find? fun e => e.op.isMatrix && e.onCore x).map (·.id)) == some c.id

/-- A command begins: what a grant left for the first command of its owner is loaded (R354); an MMA fills the snapshot shadow of each
core (R360). -/
def State.beginMatrix (s : State) (c : Cmd) : State :=
  let s := (c.load.foldl (fun s (k, e) => s.modCore k fun x => { x with eng := e }) s).modCmd c.id fun x => { x with load := [] }
  match c.op with
  | .mmaF .. | .mmaI .. => c.cores.foldl (fun s k => s.modCore k fun x =>
      { x with shadow := Tab.store [] 0 (Tab.bytes x.acc (2048 * bits c.cw 7 0) 16384) }) s
  | _ => s

/-- The command at the head runs in one step: faults first, then its reads, the log, its writes. -/
def State.runMatrix (s : State) (c : Cmd) : State :=
  let s := (s.beginMatrix c).useMatrix c
  let c := { c with load := [] }
  -- MGATH drops the old contents of its latch
  let s := match c.op with
    | .mgath => c.cores.foldl (fun s k => s.modCore k fun x => { x with eng := { x.eng with valid := false } }) s
    | _ => s
  match c.readFault s with
  | some (d, info) => s.matrixFault c d info
  | none =>
    if c.cores.any fun k => c.latchShort (s.core k).eng then s.matrixFault c 6 (BitVec.ofNat 64 (bits c.cw 7 0))
    else match c.op with
    | .mdrain f => s.drain c f
    | _ =>
      let writes := c.cores.filterMap fun k => (c.bankBytes s k).map fun (b, bs) => (k, b, bs)
      match s.logEngine c (writes.flatMap fun (k, b, bs) => c.bankEntries s k b bs.length) with
      | .error t => t
      | .ok t =>
        let t := writes.foldl (fun t (k, b, bs) => t.modCore k fun x =>
          { x with acc := Tab.store x.acc (2048 * b) bs,
                   badBanks := x.badBanks.filter fun v => !(decide (b ≤ v) && decide (2048 * v < 2048 * b + bs.length)) }) t
        let t := c.cores.foldl (fun t k => t.modCore k fun x => { x with eng := c.engineAfter s k x.eng }) t
        (t.finishCmd c).wakeAll

/-- A matrix command is done (R360), if it is due. The next of its engines follows. -/
def execMatrixCommandDone (cmd : Nat) (s : State) : Host.Outcome State Fault Refusal :=
  match s.cmd? cmd with
  | none => s.done
  | some c =>
    if !c.op.isMatrix || c.held || !s.heads c || c.readWaits s then s.done
    else
      let t := s.runMatrix c
      let next := if (t.cmd? cmd).isSome then []
        else (t.cmds.filter fun e => e.op.isMatrix && !e.held && t.heads e).map (·.id)
      (t.push (next.map fun n => .matrixCommandDone n)).done

/-- An uncorrectable error that a running matrix command meets (R366, R418). -/
def execMatrixFault (cmd detail : Nat) (info : W64) (s : State) : Host.Outcome State Fault Refusal :=
  match s.cmd? cmd with
  | none => s.done
  | some c => if !c.op.isMatrix || c.held || !s.heads c then s.done else ((s.beginMatrix c).matrixFault { c with load := [] } detail info).done

end Sys2Proof.Machine
end

