-- ==== Sys2Proof/Machine/Power.lean ====
section
/-!
DEFINITION. Reset and provisioning (R485 to R489), operating points and power (R490, R491), and writes of the registers of function 0
and of a tenant's BAR 0 (R166, R168, R429, R492).
-/

namespace Sys2Proof.Machine

/-! ### Power (R491) -/

/-- The points, each toward lower power than the one before it. -/
def powerOrder : List Nat := [2, 1, 0, 3, 4, 5]
def pointDown (p : Nat) : Nat := powerOrder.getD (powerOrder.idxOf p + 1) 5
def pointUp (p : Nat) : Nat := powerOrder.getD (powerOrder.idxOf p - 1) 2

/-- The end of a 1 ms window with its average power and the die temperature: one point down over a limit, which breaks a clock lock
(R458); one back after 100 calm windows, up to software's choice; a point just locked takes effect. -/
def execPowerWindow (watts celsius : Nat) (s : State) : Host.Outcome State Fault Refusal :=
  let cap := bits s.powerCap 15 0
  if cap < watts ∨ 105 < celsius then
    (({ s with point := pointDown s.point, calmWindows := 0 } : State).breakLock (if cap < watts then 1 else 2)).done
  else
    let calm := if 10 * watts < 9 * cap ∧ celsius < 95 then s.calmWindows + 1 else 0
    match s.clockLock with
    | some (_, p) => ({ s with point := p, calmWindows := calm } : State).done
    | none =>
      if 100 ≤ calm ∧ powerOrder.idxOf s.softPoint < powerOrder.idxOf s.point then
        ({ s with point := pointUp s.point, calmWindows := 0 } : State).done
      else ({ s with calmWindows := calm } : State).done

/-! ### Reset (R485 to R489) -/

/-- A core mapped out at reset: a spare of its half under its number, or none (R422). -/
def State.coreGone (s : State) (core : Nat) : State :=
  if 0 < s.spareCores.getD (core / 128) 0 then
    { s with spareCores := s.spareCores.modify (core / 128) (· - 1), mappedOut := s.mappedOut.filter fun q => q.1 == 4 || q.2.1 != core }
  else s.modCore core fun c => { c with out := true }
/-- A unit of the spare map, or one that failed the self-test of step 3. -/
def State.mapUnit (s : State) (x : Nat × Nat × Nat) : State :=
  let (u, core, unit) := x
  if u = 6 then s.coreGone core
  else if u = 4 ∨ 5 ≤ u ∨ s.spareFree u core unit = true then { s with mappedOut := s.mappedOut ++ [x] }
  else s.coreGone core

/-- Power good or a fundamental reset, with what the sequence reads and learns. In recovery mode no field of a record is known
(R487). -/
def State.powerGood (s : State) (d : Discovery) : State :=
  let pcap := if d.valid ∧ 600 ≤ d.pcap ∧ d.pcap ≤ 2200 then d.pcap else 2200
  let h5 := if d.valid ∧ d.h5 % 16 ≠ 0 then d.h5 % 16 else 1
  let resv := if d.valid then d.resv % 2048 else 0
  let nmap := 2097152 * resv
  let near := (List.range 128).map fun i => BitVec.ofNat 8 (((List.range 8).filter fun j => d.near.contains (8 * i + j)).map (2 ^ ·)).sum
  let r : State := { State.reset with
    mem := Tab.store [] nmap near, scopeCfg := BitVec.ofNat 64 (nmap + h5), resv := resv, pcap := pcap,
    powerCap := BitVec.ofNat 64 pcap, accel := d.accel, pbr := d.pbr, cxl := d.cxl, recovery := !d.valid,
    identities := State.reset.identities.modify 0 fun e => (e.1 ||| BitVec.ofNat 64 (d.hostId % 4096), e.2),
    errWaiting := d.failed, fresh := s.fresh, nextId := s.nextId }
  ((if d.valid then d.mapped else []) ++ d.failed).foldl State.mapUnit r
def execPowerGoodReset (found : Discovery) (s : State) : Host.Outcome State Fault Refusal := (s.powerGood found).done

/-! ### Registers of function 0 (R166) -/

/-- An index register of 2^n entries written: the newest position with that index, never beyond the other end. -/
def advanceTo (head tail n val : Nat) : Nat := min tail (head + (val % n + n - head % n) % n)

/-- ERRLOG_CTL: n and TAIL; records that waited for the ring are written (R423, R485). -/
def State.errCtl (s : State) (val : W64) : State :=
  let n := bits val 4 0
  let s := { s with errN := BitVec.ofNat 64 n, errTail := bits val 31 16 }
  if 6 ≤ n ∧ n ≤ 16 ∧ s.errBase ≠ 0 then
    s.errWaiting.foldl (fun s x => s.errRecord 6 x.1 x.2.2 x.2.1 0 0) { s with errWaiting := [] }
  else s

/-- CLK_PERMIT: a lock whose permission is withdrawn is broken (R458). -/
def State.permit (s : State) (val : W64) : State :=
  let s := { s with clkPermit := val &&& 0xFFFFFFFF }
  if s.clockLock.any fun h => !s.clkPermit.getLsbD h.1 then s.breakLock 3 else s

/-- A write in the block of a tenant: a memory window, EXT_RELEASE, a pool extent. -/
def State.blockWrite (s : State) (t off : Nat) (val : W64) : Host.Outcome State Fault Refusal :=
  let x := s.tenant t
  if off < 0x100 then
    let e := x.windows.getD (off / 16) (0, 0)
    if off / 8 % 2 = 0 then execMemoryWindowWrite t (off / 16) val e.2 s else execMemoryWindowWrite t (off / 16) e.1 val s
  else if off = 0x100 then execExtentRelease t val s
  else if 0x800 ≤ off ∧ off < 0x1000 then
    execExtentAdd t ((off - 0x800) / 32) ((x.extents.getD ((off - 0x800) / 32) []).set (off / 8 % 4) val) s
  else s.done

def State.moduleWrite (s : State) (off : Nat) (val : W64) : Host.Outcome State Fault Refusal :=
  let base := val &&& 0x000FFFFFFFFFF000
  if 0x2000 ≤ off ∧ off < 0x2800 then execCoreAssign ((off - 0x2000) / 8) val s
  else if off = 0x3000 then ({ s with errBase := base } : State).done
  else if off = 0x3008 then (s.errCtl val).done
  else if off = 0x3010 then execPoisonClear val s
  else if off = 0x3020 then ({ s with powerCap := BitVec.ofNat 64 (min s.pcap (bits val 15 0)) } : State).done
  else if off = 0x3100 then
    let s := { s with poisonBase := base }
    ({ s with tlb := s.tlb.map (Tlb.summed s) } : State).done
  else if off = 0x3108 then ({ s with biasBase := base } : State).done
  else if off = 0x3110 then ({ s with accessBase := base } : State).done
  else if off = 0x3120 then (s.permit val).done
  else if 0x3200 ≤ off ∧ off < 0x3300 then
    ({ s with identities := s.identities.modify ((off - 0x3200) / 16) fun e =>
        if off / 8 % 2 = 0 then (val &&& 0x800FFFFFFFE00FFF, e.2) else (e.1, val &&& 0x000FFFFFFFE00000) } : State).done
  else if 0x10000 ≤ off ∧ off < 0x30000 then s.blockWrite ((off - 0x10000) / 0x1000) (off % 0x1000) val
  else s.done

/-! ### Registers of a tenant (R168, R171, R172) -/

/-- The tenant context block, by offset from 0x1_0000. -/
def State.contextWrite (s : State) (t off : Nat) (val : W64) : Host.Outcome State Fault Refusal :=
  let blk := fun (f : Ctx → Ctx) => (s.modTenant t fun x => { x with block := (f x.block).masked }).done
  let ten := fun (f : Tenant → Tenant) => (s.modTenant t f).done
  if off = 0x00 then blk fun c => { c with ptRoot := val }
  else if off = 0x08 then blk fun c => { c with rgnBase := val }
  else if off = 0x10 then blk fun c => { c with rankBase := val }
  else if off = 0x18 then blk fun c => { c with rankCount := val }
  else if off = 0x20 then blk fun c => { c with jobRank := val }
  else if off = 0x28 then blk fun c => { c with jobSize := val }
  else if off = 0x30 then blk fun c => { c with jobPrefix := val }
  else if off = 0x48 then blk fun c => { c with podCfg := val }
  else if off = 0x50 then blk fun c => { c with psetBase := val }
  else if off = 0x58 then blk fun c => { c with psetCount := val }
  else if off = 0x100 then blk fun c => { c with tvec := val }
  else if off = 0x800 then (if val.getLsbD 0 then execTenantReload t s else s.done)
  else if off = 0x810 then (if val.getLsbD 63 then execLastRejectClear t s
      else ten fun x => { x with lastReject := x.lastReject &&& ~~~(val &&& 0x4000000000000000) })
  else if off = 0x820 then ten fun x => { x with acctBase := val &&& ~~~0xFFF }
  else if off = 0x828 then ten fun x => { x with acctBits := val &&& 0x1F }
  else if off = 0x830 then (if val.getLsbD 0 then execAcctFlush t s else s.done)
  else if off = 0x840 then ten fun x => { x with faultRec := x.faultRec.modify 0 (· &&& ~~~(val &&& 0xC000000000000000)) }
  else if off = 0x860 then blk fun c => { c with saveBase := val }
  else if off = 0x868 then blk fun c => { c with saveSlots := val }
  else if off = 0x870 then ten fun x => { x with auditCfg := val &&& 0xFFFFFFFF0000001F }
  else s.done

/-- DBG_CMD (R431); reserved bits are ignored, as is a write while BUSY is 1. -/
def State.debugCommand (s : State) (t : Nat) (val : W64) : Host.Outcome State Fault Refusal :=
  match bits val 7 0 with
  | 0x01 => execHaltLanes t (val.getLsbD 8) s
  | 0x02 => execResumeLanes t s
  | 0x03 => execStepWave t s
  | 0x04 => execMarkWindow t s
  | 0x10 => execRevchunk t s
  | 0x11 => execRevwin t s
  | 0x12 => execRevcont t s
  | 0x20 => execTrialgo t s
  | 0x21 => execTrialstop t s
  | 0x30 => execClklock t s
  | 0x31 => execClkfree t s
  | _ => (if s.dbgBusy t then s else s.dbgResult t 0x0B).done

/-- A breakpoint or watchpoint entry with its doubleword j written (R436). -/
def DebugEntry.put (e : DebugEntry) (j : Nat) (val m0 m3 : W64) : DebugEntry :=
  match j with
  | 0 => { e with w0 := val &&& m0 }
  | 1 => { e with filter := { e.filter with lo := val } }
  | 2 => { e with filter := { e.filter with hi := val &&& 0xE000000000001F3F } }
  | _ => { e with w3 := val &&& m3 }

/-- The debug window, by offset from its start (R429). -/
def State.debugWrite (s : State) (t off : Nat) (val : W64) : Host.Outcome State Fault Refusal :=
  let x := s.tenant t
  let ten := fun (x : Tenant) => (s.setTenant t x).done
  if off = 0x00 then s.debugCommand t val
  else if off = 0x10 then ten { x with lsel := { x.lsel with lo := val } }
  else if off = 0x18 then ten { x with lsel := { x.lsel with hi := val &&& 0xE000000000001F3F } }
  else if off = 0x20 then ten { x with dbgArg := val }
  else if off = 0x40 then ten { x with memAddr := val &&& ~~~0xFFFF }
  else if off = 0x100 then (if x.logging then s.done else ten { x with logBase := val &&& ~~~0xFFF })
  else if off = 0x108 then (s.logCtlWrite t val).done
  else if off = 0x110 then execLogHeadWrite t val s
  else if off = 0x140 then ten { x with traceBase := val &&& ~~~0xFFF }
  else if off = 0x148 then ten { x with traceCtl := val &&& 0x0000FFFFFFFF011F }
  else if off = 0x150 then ten { x with traceHead := advanceTo x.traceHead x.traceTail (2 ^ bits x.traceCtl 4 0) val.toNat }
  else if off = 0x180 then ten { x with trialLo := val &&& 0x007FFFFFFFFFFFFF }
  else if off = 0x188 then ten { x with trialHi := val &&& 0x007FFFFFFFFFFFFF }
  else if off = 0x190 then ten { x with trialCtl := (val &&& 0xFFFFFFFF000000FF) ||| (x.trialCtl &&& 0x100) }
  else if 0x2000 ≤ off ∧ off < 0x2200 then
    ten { x with breaks := x.breaks.modify ((off - 0x2000) / 32) fun e => e.put (off / 8 % 4) val 0xC07FFFFFFFFFFFFF 0 }
  else if 0x2200 ≤ off ∧ off < 0x2300 then
    ten { x with watches := x.watches.modify ((off - 0x2200) / 32) fun e => e.put (off / 8 % 4) val 0xFF00000000000000 (~~~0) }
  else if (0x4000 ≤ off ∧ off < 0x4800) ∨ (0x10000 ≤ off ∧ off < 0x17800) then execDebugViewWrite t off val s
  else if 0x20000 ≤ off ∧ off < 0x30000 then execApertureWrite t (off - 0x20000) (bytes64 val) s
  else s.done

/-- Eight bytes written to BAR 0 of a tenant; a launch window takes no write of eight bytes (R169). -/
def State.tenantWrite (s : State) (t off : Nat) (val : W64) : Host.Outcome State Fault Refusal :=
  if off < 0x10000 then (s.queueMark t (off / 0x1000) true).done
  else if off < 0x11000 then s.contextWrite t (off - 0x10000) val
  else if 0x20000 ≤ off ∧ off < 0x20080 then execLqStatWrite t ((off - 0x20000) / 8) val s
  else if off = 0x30000 then (s.modTenant t fun x => { x with intMap := val &&& 0xBFBFBFBFBFBFBFBF }).done
  else if 0x40000 ≤ off ∧ off < 0x40400 then
    (s.modTenant t fun x => { x with msix := Tab.put 0 x.msix ((off - 0x40000) / 8) val }).done
  else if 0x80000 ≤ off ∧ off < 0x100000 then s.debugWrite t (off - 0x80000) val
  else s.done

/-- The number under which the model names the HDM decoder of the host port, whose base the host programs (R148); the spec gives it no register
(log entry 60). -/
def hdmFunction : Nat := 33
/-- A write of eight bytes at an aligned offset of BAR 0: of function 0, or of the function of tenant `fn` - 1, which is absent in
recovery mode (R487). Registers ignore their reserved bits (R492). DESIGN CHOICE: no access has another size, and an unaligned offset is no
register's (log entry 64). -/
def execRegisterWrite (fn off : Nat) (val : W64) (s : State) : Host.Outcome State Fault Refusal :=
  if off % 8 ≠ 0 then s.done
  else if fn = 0 then s.moduleWrite off val
  else if fn = hdmFunction then (if off = 0 then { s with hdmBase := val.toNat } else s).done
  else if 32 < fn ∨ s.recovery then s.done
  else s.tenantWrite (fn - 1) off val

end Sys2Proof.Machine
end

