-- ==== Sys2Proof/Machine/Picker.lean ====
section
/-!
DEFINITION. The picker of a core (R174 to R180, R219 to R223): the order of its waves, their issue sets, what holds a set, the charges
of a cycle; and what the device's agents have to do in each cycle, in the model's order (log entry 4).
-/

namespace Sys2Proof.Machine

/-! ### Lanes and traps between cycles -/

/-- A lane whose pause ends votes again (R179). -/
def execPauseExpire (wave lane : Nat) (s : State) : Host.Outcome State Fault Refusal :=
  (s.modWave wave fun w => w.modLane lane fun x => if x.pcnt ≤ 1 then { x with pcnt := 0 } else x).done
/-- A lane that has voted for 4,096 cycles is promoted (R180). -/
def execLanePromotion (wave lane : Nat) (s : State) : Host.Outcome State Fault Refusal :=
  (s.modWave wave fun w => w.modLane lane fun x => if 4095 ≤ x.age then { x with age := 4096 } else x).done

/-- The head of a trap queue is delivered where it can be (R400); of a saved workgroup the slot takes it, and the workgroup is ready
(R410). -/
def execTrapDelivery (wave : Nat) (s : State) : Host.Outcome State Fault Refusal :=
  let w := s.wave wave
  let g := s.wg w.wg
  if !w.live || w.trapQ.isEmpty || g.restoring then s.done
  else if g.saved || g.saving then (s.toSlot wave w).done
  else (s.takeTrap wave).done

/-! ### The order of waves (R219, R220) -/

/-- A list of keys in rising lexicographic order. -/
def lexBefore : List Nat → List Nat → Bool
  | a :: as, b :: bs => decide (a < b) || (a == b && lexBefore as bs)
  | _, _ => false
/-- The key of a wave; a sticky one goes before the others of its priority (R262). -/
def State.pickKey (s : State) (k : Nat) : List Nat :=
  let w := s.wave k
  let g := s.wg w.wg
  let l := s.launch g.launch
  [7 - l.prio, if s.cycle ≤ w.stickUntil ∧ 0 < w.stickUntil then 0 else 1, g.placedAt, l.admittedAt, g.launch, g.index, w.idx]
/-- The resident waves of a core in key order, those being saved or restored left out. -/
def State.coreWaves (s : State) (c : Nat) : List Nat :=
  let on := s.liveWaves.filter fun k =>
    let g := s.wg (s.wave k).wg
    s.coreOf k == c && !g.saved && !g.saving && !g.restoring
  sorted (fun a b => lexBefore (s.pickKey a) (s.pickKey b)) on

def Lane.votes (x : Lane) : Bool := !x.exited && !x.halted && x.pcnt == 0
def Wave.voters (w : Wave) : List Nat := (List.range 64).filter fun l => (w.lane l).votes

/-- The active set (R219): a wave with a voting lane enters while a place is free, or in the place of the active wave that has been
ineligible for longest; it issues four cycles later. -/
def State.enterActive (s : State) (ks : List Nat) (k : Nat) : State :=
  let w := s.wave k
  if w.active || w.voters.isEmpty then s
  else
    let enter := fun (s : State) => s.modWave k fun w => { w with active := true, activeAt := s.cycle + 4, idleSince := 0 }
    let act := ks.filter fun j => (s.wave j).active
    if act.length < 32 then enter s
    else match sorted (fun a b => decide ((s.wave a).idleSince < (s.wave b).idleSince)) (act.filter fun j => (s.wave j).idleSince != 0) with
      | j :: _ => enter (s.modWave j fun w => { w with active := false })
      | [] => s
def State.activeSet (s : State) (ks : List Nat) : State :=
  let s := ks.foldl (fun (s : State) k => s.modWave k fun w =>
    { w with idleSince := if !w.voters.isEmpty then 0 else if w.idleSince = 0 then s.cycle + 1 else w.idleSince }) s
  ks.foldl (fun s k => s.enterActive ks k) s

/-! ### What holds a wave (R222) -/

/-- Engines that a restored owner must have again before it issues (R198). -/
def State.owedEngines (s : State) (k : Nat) : List Nat :=
  let w := s.wave k
  let g := s.wg w.wg
  (if w.own = 0 then [] else if w.own = 2 then g.cores else [s.coreOf k]).filter fun c => !s.ownsEngine c k

/-- What holds every set of a wave, in the order of R222; TRAP is charged by `charge`. -/
def State.waveCause (s : State) (k : Nat) : Option Cause :=
  let w := s.wave k
  let g := s.wg w.wg
  let t := g.tenant
  if w.voters.isEmpty then (if w.lanes.any fun l => !l.exited && l.halted then some .halt else some .pause)
  else match w.wait.kind with
  | .bwait | .gsync | .qpop => some .barrier
  | .far | .ctrwait => some .farmem
  | .logmark | .cntopen => some .commit
  | .none =>
    if (s.windowAsked t && w.run.issued == 0) || w.run.doomed.isSome || (!w.trapQ.isEmpty && !w.handler)
        || w.com.any (fun c => c.step.isSome) || w.run.ended then some .commit
    else if !(s.owedEngines k).isEmpty then some .engine
    else if s.cycle < w.wakeUntil then some .replay
    else if s.cycle < g.readyAt then some .localmem
    else none

/-! ### Issue sets (R175, R178) -/

/-- The counters of the voting lanes that the vote looks at: the promoted one first, four in all, the others the lowest. -/
def Wave.counters (w : Wave) : List W64 :=
  let of_ := fun (ls : List Nat) => (sorted (fun a b => decide (a < b)) (ls.map fun l => (w.lane l).pc.toNat)).eraseDups
  let all := of_ w.voters
  let c1 := ((of_ (w.voters.filter fun l => decide (4096 ≤ (w.lane l).age))) ++ all).headD 0
  (c1 :: ((all.take 4).filter (· != c1)).take 3).map (BitVec.ofNat 64)
def Wave.setAt (w : Wave) (k : Nat) (pc : W64) : Slot := { wave := k, pc := pc, mask := maskOf (w.voters.filter fun l => (w.lane l).pc == pc) }

/-- A causal trial delays the set (R456): outside the range, and not in handler mode. -/
def State.trialHolds (s : State) (x : Slot) : Bool :=
  let t := s.tenant (s.waveTenant x.wave)
  t.trialCtl.getLsbD 8 && !(s.wave x.wave).handler && t.reverse.isNone
    && (decide (bits x.pc 56 2 < bits t.trialLo 54 0) || decide (bits t.trialHi 54 0 ≤ bits x.pc 56 2))
/-- The delay before a set's instruction begins once the set stands at its counter and waits in no instruction. -/
def State.trial (s : State) (x : Slot) : State :=
  let w := s.wave x.wave
  if !s.trialHolds x || w.wait.kind != .none || w.trials.any (·.1 == x.pc) then s
  else s.modWave x.wave fun w =>
    { w with trials := w.trials ++ [(x.pc, s.cycle + bits (s.tenant (s.waveTenant x.wave)).trialCtl 7 0)] }
def State.trialRuns (s : State) (x : Slot) : Bool :=
  s.trialHolds x && (s.wave x.wave).trials.any fun d => d.1 == x.pc && decide (s.cycle < d.2)

/-- What holds a set before it is tried, in the order of R222. -/
def State.setCause (s : State) (x : Slot) : Option Cause :=
  let w := s.wave x.wave
  if s.trialRuns x then some .trial
  else (s.waveCause x.wave).orElse fun _ =>
    match s.fetched x with
    | .walk => some .localmem
    | .line => some .fetch
    | _ => if !w.active || decide (s.cycle < w.activeAt) then some .operand else none

/-- A set enters the cycle: to be tried, or held for a cause. -/
def State.offerSet (s : State) (x : Slot) (cause : Option Cause) : State :=
  let x := { x with cause := cause }
  { s with offered := s.offered ++ [x], issue := if cause.isNone then s.issue ++ [x] else s.issue }

/-- The sets that a wave offers in this cycle: its two; one set when nothing votes; the next issue of a chunk that is replayed
(R454). -/
def State.offer (s : State) (k : Nat) : State :=
  let w := s.wave k
  match (s.tenant (s.waveTenant k)).reverse with
  | some r =>
    (match r.plan with
      | (pc, m) :: _ =>
        let x : Slot := { wave := k, pc := pc, mask := m }
        if r.wave ≠ k then s
        else s.offerSet x (match s.fetched x with
          | .walk => some .localmem
          | .line => some .fetch
          | _ => none)
      | [] => s)
  | none =>
    if w.lanes.all (·.exited) then s
    else if w.voters.isEmpty then s.offerSet { wave := k, pc := lowPc w.lanes } (s.waveCause k)
    else (w.counters.take 2).foldl (fun s pc =>
      let x := w.setAt k pc
      let s := s.trial x
      s.offerSet x (s.setCause x)) s

/-! ### A cycle of a core -/

/-- A held set's fetch goes on: its walk is asked for, or its fill begins (R178). -/
def State.fetchHeld (s : State) (x : Slot) : State :=
  match s.fetched x with
  | .walk => s.fetchWalk x
  | .line => s.startFill x
  | _ => s

/-- The set that a port held for a missing one offers instead (R178): at the next higher counter looked at whose line hits. -/
def State.switchFor (s : State) (x : Slot) : Option Slot :=
  let w := s.wave x.wave
  let here := fun (y : Slot) => match s.fetched y with
    | .word _ | .fault _ => true
    | _ => false
  let above := sorted (fun (a b : Nat) => decide (a < b)) ((w.counters.filter fun pc => decide (x.pc < pc)).map BitVec.toNat)
  ((above.map fun n => w.setAt x.wave (BitVec.ofNat 64 n)).find? here).filter fun y => !s.offered.any (·.same y) && (s.setCause y).isNone

/-- The ports that nothing has taken are held, each for a set in key order (R220); the fetches of these sets go on, and where a line
misses the path switch offers another set (R178). None when it offers none. -/
def State.holdPorts (s : State) : State × Bool :=
  let held := (s.offered.take s.ports).filter fun x => x.cause == some .fetch || x.cause == some .localmem
  let s' := held.foldl State.fetchHeld s
  let pairs := (held.filter (·.cause == some .fetch)).foldl (fun ps x => match s'.switchFor x with
    | some y => if ps.any fun (p : Slot × Slot) => p.1.same y then ps else ps ++ [(y, x)]
    | none => ps) []
  ({ s' with switched := some pairs, issue := pairs.map (·.1) }, !pairs.isEmpty)

/-- The charges of the ports that issued nothing (R220, R222). -/
def State.closeCycle (s : State) (c : Nat) : State :=
  let t := (s.core c).tenant
  let none_ := if (s.residents c).isEmpty then Cause.empty else .idle
  let s' := (List.range s.ports).foldl (fun (u : State) i =>
    let (who, cause, pc) : Option Slot × Cause × W64 := match s.offered[i]? with
      | some x => (some x, (x.cause.orElse fun _ => s.waveCause x.wave).getD .commit, x.pc)
      | none => (none, none_, 0)
    let u := match who with
      | some x => u.charge x.wave cause pc
      | none => u.chargeCore c t cause 0 (u.cutOf t)
    let code := match who with
      | some x => if (s.wave x.wave).handler then .trap else cause
      | none => cause
    if i + s.ports = 2 ∧ i = 0 then
      u.modCore c fun y => { y with port0 := (who.map fun x => (x.wave, leading x.mask), code, pc) }
    else u) s
  { s' with ports := 0, offered := [], issuedBy := [], cycleOf := none, switched := none }

/-- A cycle passes for a lane: its pause runs down or its age rises (R179, R180); the last step of each is an event. -/
def Lane.passes (x : Lane) : Lane :=
  if x.votes then { x with age := if x.age < 4095 then x.age + 1 else x.age }
  else if 1 < x.pcnt ∧ x.halted = false then { x with pcnt := x.pcnt - 1 }
  else x
def State.passCycle (s : State) (ks : List Nat) : State :=
  ks.foldl (fun (s : State) k =>
    let w := s.wave k
    let idx := List.range 64
    let ends := idx.filter fun l => !(w.lane l).halted && (w.lane l).pcnt == 1
    let rise := idx.filter fun l => (w.lane l).votes && (w.lane l).age == 4095
    (s.modWave k fun w => { w with lanes := w.lanes.map Lane.passes }).push
        (ends.map (fun l => .pauseExpire k l) ++ rise.map fun l => .lanePromotion k l)) s

/-- A set with a promoted lane (R180). -/
def State.promoted (s : State) (x : Slot) : Bool :=
  (List.range 64).any fun l => x.mask.getLsbD l && decide (4096 ≤ ((s.wave x.wave).lane l).age)
/-- DESIGN CHOICE (log entry 49): so that each lane that votes issues in finite time (R190), in every 32nd cycle in which a promoted set
of the core is ready the operands of the other sets come later (R497 bounds no result's latency), and the fetch of a promoted set goes
on without a port. -/
def State.promise (s : State) : State :=
  if s.cycle % 32 ≠ 0 then s
  else
    let s := (s.offered.filter fun x => s.promoted x && (x.cause == some .fetch || x.cause == some .localmem)).foldl State.fetchHeld s
    if !s.issue.any s.promoted then s
    else { s with issue := s.issue.filter s.promoted,
                  offered := s.offered.map fun x => if x.cause.isNone && !s.promoted x then { x with cause := some .operand } else x }

/-- The cycle of one core begins. -/
def State.openCycle (s : State) (c : Nat) : State :=
  let x := s.core c
  if !x.assigned then s
  else
    let ks := s.coreWaves c
    let s := if (s.tenant x.tenant).acctOn then s.modCore c fun y => { y with cyc := y.cyc + 1 } else s
    let s := s.activeSet ks
    let s := ks.foldl (fun s k => (s.owedEngines k).foldl (fun s e => s.askEngine e k ((s.wave k).own == 2)) s) s
    let s := { s with ports := 2, offered := [], issue := [], issuedBy := [], cycleOf := some c, switched := none,
                      cycleCut := (s.tenant x.tenant).cuts }
    ((ks.foldl State.offer s).promise).passCycle ks

/-! ### The device's agents -/

/-- Cycles per unit of the time base at each point (R392, R490), in units of 1/756 ns. -/
def cycleTime (point : Nat) : Nat := [280, 252, 240, 315, 378, 630].getD point 280

/-- Work of the launch scheduler (R209 to R218): validation and admission of queue heads, restores and placements by priority and
admission, a restore first; of a launch, as many placements as the two halves can make (R215). -/
def State.schedule (s : State) : State :=
  let heads := s.tenants.flatMap fun (t, x) => ((List.range 16).filter fun q => !(x.queues.getD q {}).recs.isEmpty).map fun q =>
    if (x.queues.getD q {}).validated then Instr.launchAdmit t q else .launchValidate t q
  let restores := (s.wgs.filter fun p => p.2.live && p.2.saved && p.2.ready).map fun (g, x) =>
    ([7 - (s.launch x.launch).prio, 0, (s.launch x.launch).admittedAt, x.launch, x.index], Instr.workgroupRestore g)
  let places := (s.launches.filter fun p => p.2.live && !p.2.aborted && !p.2.stopped && !(s.nextShapes p.1).isEmpty).flatMap fun (n, x) =>
    List.replicate 2 (([7 - x.prio, 1, x.admittedAt, n, 0] : List Nat), Instr.workgroupPlace n)
  let due := sorted (fun (a b : List Nat × Instr) => lexBefore a.1 b.1) (restores ++ places)
  ({ s with halves := [] } : State).push (heads ++ due.map fun (p : List Nat × Instr) => p.2)

/-- Chunks that wait to commit, writes on their way to their homes, and the reservation (R87, R88, R92). -/
def State.commits (s : State) : State :=
  let waiting := s.liveWaves.filterMap fun k => match (s.wave k).com with
    | some c => if c.ts.isNone then some (if s.isLocal k c then Instr.localCommit k else .chipCommit k) else none
    | none => none
  s.push (waiting ++ s.packets.map (fun p => .lineApplied p.home) ++ if s.resHolder.isNone && !s.resQueue.isEmpty then [.reservationGrant] else [])

/-- One part of each running copy or fabric command, whichever comes next (R106); the heads of the matrix engines. -/
def State.engines (s : State) : State :=
  s.cmds.foldl (fun (s : State) c =>
    if !c.forked then s
    else if c.op.isMatrix then s.push [.matrixCommandDone c.id]
    else match (if c.op == .agath || c.op == .ascat then c.left else c.left.filter fun k => !c.waiting.contains k) with
      | [] => s.push (if c.left.isEmpty then [.engineCommandComplete c.id] else [])
      | k :: ks => { s with fresh := s.fresh + 1 }.push [.engineLinePlace c.id ((k :: ks).getD (Config.order s.fresh % (ks.length + 1)) k)])
    s

/-- One step of each arrived packet in work, whichever comes next (R129, R133). -/
def State.arrivalsDue (s : State) : State :=
  s.arrivals.foldl (fun (s : State) a => match a.steps with
    | [] => s
    | k :: ks => { s with fresh := s.fresh + 1 }.push [.engineLinePlace a.id ((k :: ks).getD (Config.order s.fresh % (ks.length + 1)) k)]) s
/-- The groups of a tenant go on: packets that the window now takes, and the timers that are due (R126, R127, R134). -/
def State.groupWork (s : State) (t : Nat) : State :=
  if s.frozen then s
  else
    let s := (List.range (s.tenant t).groups.length).foldl (fun s i => s.pumpGroup t i) s
    s.push (s.groupTimers t)

/-- What a tenant's own units have to do. -/
def State.tenantWork (s : State) (t : Nat) : State :=
  let x := s.tenant t
  let ks := s.tenantWaves t
  let s := if x.intWait.isEmpty then s else s.retryInterrupts t
  let s := ((ks.filter fun k => (s.wave k).wait.kind == .far).foldl State.farTry s).groupWork t
  s.push ((ks.filter fun k => !(s.wave k).trapQ.isEmpty && !(s.wave k).handler).map (fun k => .trapDelivery k)
    ++ (if s.windowAsked t || x.marking then [.logWindowOpen t] else [])
    ++ (if x.flushes.isEmpty then [] else [.acctFlushPerform t])
    ++ (if s.trialOn t && decide (x.trialEnd ≤ s.cycle) then [.trialEnd t] else [])
    ++ (if x.haltSel.isSome || ks.any fun k => (s.wave k).haltNew then [.haltComplete t] else [])
    ++ (if x.reload then [.contextLoad t] else [])
    ++ ((List.range 64).filter fun e => x.extRelease.getLsbD e).map fun e => .extentReleaseComplete t e)

/-- Workgroups and launches at their ends, samples of the auditor, cores that change hands. -/
def State.endings (s : State) : State :=
  s.push ((s.wgs.filter fun p => p.2.live && p.2.saving).map (fun p => .saveComplete p.1)
    ++ (s.wgs.filter fun p => p.2.live && p.2.restoring).map (fun p => .restoreComplete p.1)
    ++ (s.wgs.filter fun p => p.2.live && (s.wgWaves p.1).all fun k => (s.wave k).lanes.all (·.exited) && !(s.wave k).handler).map
        (fun p => .workgroupRetire p.1)
    ++ (s.wgs.filter fun p => p.2.audited && p.2.replaySig.isNone).map (fun p => .auditReplay p.1 0 0 false)
    ++ (s.launches.filter fun p => p.2.live && s.launchOver p.1).map (fun p => .launchComplete p.1)
    ++ (s.cores.filter fun p => p.2.pending.isSome).map fun p => .coreHandover p.1)

/-- What comes by the clock: pod clock (R112), keep-alives and owners declared failed (R121), stage targets (R218), folds (R225), access records (R43), trace samples
(R439), idle banks and stores (R73, R75). -/
def State.clocked (s : State) (before : Nat) : State :=
  let every := fun (n : Nat) => s.cycle % n = 0
  let sample := fun (p : Nat × Core) =>
    let t := s.tenant p.2.tenant
    let n := 256 * bits t.traceCtl 47 32
    p.2.assigned && t.traceCtl.getLsbD 8 && decide (0 < n) && decide (s.cycle % n = 0)
  s.push ((if every 256 then [.podClockTick] else [])
    ++ (if before / 75600000 < s.time / 75600000 then [.keepalive] else [])
    ++ s.goneOwners.map (fun p => .ownerTimeout p.1 p.2)
    ++ (if every 1024 then (s.launches.filter fun p => p.2.live && decide (1 < p.2.stages.length)).map (fun p => .stageRebalance p.1) else [])
    ++ (if every 4096 then (s.cores.filter fun p => !p.2.charges.isEmpty).map (fun p => .acctFold p.1) else [])
    ++ (if every 4096 && !s.counts.isEmpty then [.accessCountUpdate] else [])
    ++ (s.cores.filter sample).map (fun p => .traceSample p.1)
    ++ (s.flips.map fun f => .biasFlipComplete f.page)
    ++ (s.cores.flatMap fun p => (p.2.banks.filter fun b => p.2.idleBank s.cycle b.1).map fun b => .bankDrowsy p.1 b.1)
    ++ (if s.cycle < 65536 then [] else ((List.range 256).filter s.idleStore).map fun c => .storePowerOff c)
    ++ if s.clears.isEmpty then [] else [.poisonClearPerform])

/-- A device cycle has passed. -/
def State.tick (s : State) : State :=
  let before := s.time
  let s := { s with cycle := s.cycle + 1, time := s.time + cycleTime s.point }
  let s := (s.serveHost s.hostQueue.length).retryPods.retryHome.sealTraffic
  let s := ((s.tenants.map (·.1)).foldl State.tenantWork s.commits).engines.arrivalsDue.endings
  (s.schedule.clocked before).wakeAll

/-- A core's cycle ends, and the next core's begins (R220); with core 255 the device's cycle is over. Where ports held for missing lines
offer other sets, these are tried first. -/
def execPickerCycle (core : Nat) (s : State) : Host.Outcome State Fault Refusal :=
  let held := if s.cycleOf.isSome && s.switched.isNone then s.holdPorts else (s, false)
  if held.2 then held.1.done
  else
    let s := match held.1.cycleOf with
      | some c => held.1.closeCycle c
      | none => held.1
    let s := if core = 0 then s.settleUnwinds else s
    let s := { s with pick := (core + 1) % 256 }.openCycle core
    (if core = 255 then s.tick else s).done

end Sys2Proof.Machine
end

