-- ==== Sys2Proof/Machine/Dispatch.lean ====
section
/-!
DEFINITION. One arm per instruction: the direct call of its meaning.
-/

namespace Sys2Proof.Machine

def exec (i : Instr) (s : State) : Host.Outcome State Fault Refusal :=
  match i with
  | .nop => Sys2Proof.Machine.execNop s
  | .br off => Sys2Proof.Machine.execBr off s
  | .call off => Sys2Proof.Machine.execCall off s
  | .bz a off => Sys2Proof.Machine.execBz a off s
  | .bzl a off => Sys2Proof.Machine.execBzl a off s
  | .bnz a off => Sys2Proof.Machine.execBnz a off s
  | .bnzl a off => Sys2Proof.Machine.execBnzl a off s
  | .jmp a => Sys2Proof.Machine.execJmp a s
  | .jmpl d a => Sys2Proof.Machine.execJmpl d a s
  | .ret a => Sys2Proof.Machine.execRet a s
  | .pause n => Sys2Proof.Machine.execPause n s
  | .exit => Sys2Proof.Machine.execExit s
  | .trap n => Sys2Proof.Machine.execTrap n s
  | .tret => Sys2Proof.Machine.execTret s
  | .csrr w d n => Sys2Proof.Machine.execCsrr w d n s
  | .csrw a n => Sys2Proof.Machine.execCsrw a n s
  | .cntopen a r => Sys2Proof.Machine.execCntopen a r s
  | .cntclose => Sys2Proof.Machine.execCntclose s
  | .progpt n => Sys2Proof.Machine.execProgpt n s
  | .tlbinv a => Sys2Proof.Machine.execTlbinv a s
  | .tlbinvAll => Sys2Proof.Machine.execTlbinvAll s
  | .biasflipHost a => Sys2Proof.Machine.execBiasflipHost a s
  | .biasflipDev a => Sys2Proof.Machine.execBiasflipDev a s
  | .clkq w d => Sys2Proof.Machine.execClkq w d s
  | .iadd w d a b f => Sys2Proof.Machine.execIadd w d a b f s
  | .iaddI w d a imm f => Sys2Proof.Machine.execIaddI w d a imm f s
  | .isub w d a b f => Sys2Proof.Machine.execIsub w d a b f s
  | .imul w d a b f => Sys2Proof.Machine.execImul w d a b f s
  | .imulI w d a imm f => Sys2Proof.Machine.execImulI w d a imm f s
  | .imulhS w d a b f => Sys2Proof.Machine.execImulhS w d a b f s
  | .imulhW w d a b f => Sys2Proof.Machine.execImulhW w d a b f s
  | .imad w d a b f => Sys2Proof.Machine.execImad w d a b f s
  | .and w d a b f => Sys2Proof.Machine.execAnd w d a b f s
  | .andI w d a imm f => Sys2Proof.Machine.execAndI w d a imm f s
  | .or w d a b f => Sys2Proof.Machine.execOr w d a b f s
  | .orI w d a imm f => Sys2Proof.Machine.execOrI w d a imm f s
  | .xor w d a b f => Sys2Proof.Machine.execXor w d a b f s
  | .xorI w d a imm f => Sys2Proof.Machine.execXorI w d a imm f s
  | .andn w d a b f => Sys2Proof.Machine.execAndn w d a b f s
  | .shl w d a b f => Sys2Proof.Machine.execShl w d a b f s
  | .shlI w d a imm f => Sys2Proof.Machine.execShlI w d a imm f s
  | .shr w d a b f => Sys2Proof.Machine.execShr w d a b f s
  | .shrI w d a imm f => Sys2Proof.Machine.execShrI w d a imm f s
  | .sar w d a b f => Sys2Proof.Machine.execSar w d a b f s
  | .sarI w d a imm f => Sys2Proof.Machine.execSarI w d a imm f s
  | .rotl w d a b f => Sys2Proof.Machine.execRotl w d a b f s
  | .rotlI w d a imm f => Sys2Proof.Machine.execRotlI w d a imm f s
  | .popc w d a f => Sys2Proof.Machine.execPopc w d a f s
  | .clz w d a f => Sys2Proof.Machine.execClz w d a f s
  | .brev w d a f => Sys2Proof.Machine.execBrev w d a f s
  | .bfeW w d a b f => Sys2Proof.Machine.execBfeW w d a b f s
  | .bfeS w d a b f => Sys2Proof.Machine.execBfeS w d a b f s
  | .bfi w d a b f => Sys2Proof.Machine.execBfi w d a b f s
  | .perm w d a b => Sys2Proof.Machine.execPerm w d a b s
  | .icmpeq w d a b f => Sys2Proof.Machine.execIcmpeq w d a b f s
  | .icmpne w d a b f => Sys2Proof.Machine.execIcmpne w d a b f s
  | .icmpltS w d a b f => Sys2Proof.Machine.execIcmpltS w d a b f s
  | .icmpltW w d a b f => Sys2Proof.Machine.execIcmpltW w d a b f s
  | .icmpleS w d a b f => Sys2Proof.Machine.execIcmpleS w d a b f s
  | .icmpleW w d a b f => Sys2Proof.Machine.execIcmpleW w d a b f s
  | .sel w d a b f => Sys2Proof.Machine.execSel w d a b f s
  | .iminS w d a b f => Sys2Proof.Machine.execIminS w d a b f s
  | .iminW w d a b f => Sys2Proof.Machine.execIminW w d a b f s
  | .imaxS w d a b f => Sys2Proof.Machine.execImaxS w d a b f s
  | .imaxW w d a b f => Sys2Proof.Machine.execImaxW w d a b f s
  | .gaddr w d a b => Sys2Proof.Machine.execGaddr w d a b s
  | .fadd w d a b f => Sys2Proof.Machine.execFadd w d a b f s
  | .fsub w d a b f => Sys2Proof.Machine.execFsub w d a b f s
  | .fmul w d a b f => Sys2Proof.Machine.execFmul w d a b f s
  | .ffma w d a b f => Sys2Proof.Machine.execFfma w d a b f s
  | .ffms w d a b f => Sys2Proof.Machine.execFfms w d a b f s
  | .fnma w d a b f => Sys2Proof.Machine.execFnma w d a b f s
  | .fmin w d a b f => Sys2Proof.Machine.execFmin w d a b f s
  | .fmax w d a b f => Sys2Proof.Machine.execFmax w d a b f s
  | .fcmpeq w d a b f => Sys2Proof.Machine.execFcmpeq w d a b f s
  | .fcmpne w d a b f => Sys2Proof.Machine.execFcmpne w d a b f s
  | .fcmplt w d a b f => Sys2Proof.Machine.execFcmplt w d a b f s
  | .fcmple w d a b f => Sys2Proof.Machine.execFcmple w d a b f s
  | .fcmpun w d a b f => Sys2Proof.Machine.execFcmpun w d a b f s
  | .fneg w d a f => Sys2Proof.Machine.execFneg w d a f s
  | .fabs w d a f => Sys2Proof.Machine.execFabs w d a f s
  | .frcp w d a f => Sys2Proof.Machine.execFrcp w d a f s
  | .frsq w d a f => Sys2Proof.Machine.execFrsq w d a f s
  | .fsqrt w d a f => Sys2Proof.Machine.execFsqrt w d a f s
  | .fexp2 w d a f => Sys2Proof.Machine.execFexp2 w d a f s
  | .flog2 w d a f => Sys2Proof.Machine.execFlog2 w d a f s
  | .fsinpi w d a f => Sys2Proof.Machine.execFsinpi w d a f s
  | .fcospi w d a f => Sys2Proof.Machine.execFcospi w d a f s
  | .frint w d a f => Sys2Proof.Machine.execFrint w d a f s
  | .fldexp w d a b f => Sys2Proof.Machine.execFldexp w d a b f s
  | .fclass w d a f => Sys2Proof.Machine.execFclass w d a f s
  | .cvtFf w d a t u => Sys2Proof.Machine.execCvtFf w d a t u s
  | .cvtFi w d a t u => Sys2Proof.Machine.execCvtFi w d a t u s
  | .cvtIf w d a t u => Sys2Proof.Machine.execCvtIf w d a t u s
  | .cvtSr w d a b f => Sys2Proof.Machine.execCvtSr w d a b f s
  | .dot2 w d a b f => Sys2Proof.Machine.execDot2 w d a b f s
  | .dot4 w d a b f => Sys2Proof.Machine.execDot4 w d a b f s
  | .dot8 w d a b f => Sys2Proof.Machine.execDot8 w d a b f s
  | .dot4x w d a b f => Sys2Proof.Machine.execDot4x w d a b f s
  | .dot8x w d a b f => Sys2Proof.Machine.execDot8x w d a b f s
  | .idot4 w d a b sg => Sys2Proof.Machine.execIdot4 w d a b sg s
  | .shfl w d a b => Sys2Proof.Machine.execShfl w d a b s
  | .shflup w d a imm => Sys2Proof.Machine.execShflup w d a imm s
  | .shfldn w d a imm => Sys2Proof.Machine.execShfldn w d a imm s
  | .shflx w d a imm => Sys2Proof.Machine.execShflx w d a imm s
  | .bcast w d a imm => Sys2Proof.Machine.execBcast w d a imm s
  | .wadd w d a f => Sys2Proof.Machine.execWadd w d a f s
  | .wmin w d a f => Sys2Proof.Machine.execWmin w d a f s
  | .wmax w d a f => Sys2Proof.Machine.execWmax w d a f s
  | .wscan w d a f => Sys2Proof.Machine.execWscan w d a f s
  | .matchEq w d a => Sys2Proof.Machine.execMatchEq w d a s
  | .vote w d a f => Sys2Proof.Machine.execVote w d a f s
  | .ld w d a sc l o => Sys2Proof.Machine.execLd w d a sc l o s
  | .ldSigned w d a sc l o => Sys2Proof.Machine.execLdSigned w d a sc l o s
  | .ldAcq w d a sc l o => Sys2Proof.Machine.execLdAcq w d a sc l o s
  | .st d a sc l o => Sys2Proof.Machine.execSt d a sc l o s
  | .stRel d a sc l o => Sys2Proof.Machine.execStRel d a sc l o s
  | .pref a sc l o => Sys2Proof.Machine.execPref a sc l o s
  | .fence sc => Sys2Proof.Machine.execFence sc s
  | .aadd d a sc l r => Sys2Proof.Machine.execAadd d a sc l r s
  | .aaddF d a sc l r => Sys2Proof.Machine.execAaddF d a sc l r s
  | .aminS d a sc l r => Sys2Proof.Machine.execAminS d a sc l r s
  | .aminW d a sc l r => Sys2Proof.Machine.execAminW d a sc l r s
  | .amaxS d a sc l r => Sys2Proof.Machine.execAmaxS d a sc l r s
  | .amaxW d a sc l r => Sys2Proof.Machine.execAmaxW d a sc l r s
  | .aand d a sc l r => Sys2Proof.Machine.execAand d a sc l r s
  | .aor d a sc l r => Sys2Proof.Machine.execAor d a sc l r s
  | .axor d a sc l r => Sys2Proof.Machine.execAxor d a sc l r s
  | .axchg d a sc l r => Sys2Proof.Machine.execAxchg d a sc l r s
  | .acas d a sc l r => Sys2Proof.Machine.execAcas d a sc l r s
  | .redAdd d a sc l rel => Sys2Proof.Machine.execRedAdd d a sc l rel s
  | .redAddF d a sc l rel => Sys2Proof.Machine.execRedAddF d a sc l rel s
  | .redMinS d a sc l rel => Sys2Proof.Machine.execRedMinS d a sc l rel s
  | .redMinW d a sc l rel => Sys2Proof.Machine.execRedMinW d a sc l rel s
  | .redMaxS d a sc l rel => Sys2Proof.Machine.execRedMaxS d a sc l rel s
  | .redMaxW d a sc l rel => Sys2Proof.Machine.execRedMaxW d a sc l rel s
  | .redAnd d a sc l rel => Sys2Proof.Machine.execRedAnd d a sc l rel s
  | .redOr d a sc l rel => Sys2Proof.Machine.execRedOr d a sc l rel s
  | .redXor d a sc l rel => Sys2Proof.Machine.execRedXor d a sc l rel s
  | .chunk => Sys2Proof.Machine.execChunk s
  | .logmark w d => Sys2Proof.Machine.execLogmark w d s
  | .binit a b => Sys2Proof.Machine.execBinit a b s
  | .barr a => Sys2Proof.Machine.execBarr a s
  | .bexp a b => Sys2Proof.Machine.execBexp a b s
  | .bwait w d a b => Sys2Proof.Machine.execBwait w d a b s
  | .btest w d a b => Sys2Proof.Machine.execBtest w d a b s
  | .gsync w d n => Sys2Proof.Machine.execGsync w d n s
  | .qpush w d a b => Sys2Proof.Machine.execQpush w d a b s
  | .qpop w d a b => Sys2Proof.Machine.execQpop w d a b s
  | .acopy c a b f => Sys2Proof.Machine.execAcopy c a b f s
  | .agath c a b f => Sys2Proof.Machine.execAgath c a b f s
  | .ascat c a b f => Sys2Proof.Machine.execAscat c a b f s
  | .afill c a b f => Sys2Proof.Machine.execAfill c a b f s
  | .acopy2d c a b f => Sys2Proof.Machine.execAcopy2d c a b f s
  | .acopySys c a b f => Sys2Proof.Machine.execAcopySys c a b f s
  | .acopyNear c a b f => Sys2Proof.Machine.execAcopyNear c a b f s
  | .acopyPod c a b f => Sys2Proof.Machine.execAcopyPod c a b f s
  | .macq => Sys2Proof.Machine.execMacq s
  | .macqPair => Sys2Proof.Machine.execMacqPair s
  | .mrel => Sys2Proof.Machine.execMrel s
  | .aballoc w d n => Sys2Proof.Machine.execAballoc w d n s
  | .abfree d n => Sys2Proof.Machine.execAbfree d n s
  | .mgath p c a b => Sys2Proof.Machine.execMgath p c a b s
  | .mmaF16 p c a b f => Sys2Proof.Machine.execMmaF16 p c a b f s
  | .mmaFp8 p c a b f => Sys2Proof.Machine.execMmaFp8 p c a b f s
  | .mmaInt8 p c a b f => Sys2Proof.Machine.execMmaInt8 p c a b f s
  | .mmaFp8Fp4 p c a b f => Sys2Proof.Machine.execMmaFp8Fp4 p c a b f s
  | .mmaFp4 p c a b f => Sys2Proof.Machine.execMmaFp4 p c a b f s
  | .mmaFp6 p c a b f => Sys2Proof.Machine.execMmaFp6 p c a b f s
  | .mscale p c t => Sys2Proof.Machine.execMscale p c t s
  | .mzero p c => Sys2Proof.Machine.execMzero p c s
  | .mdrain p c a b f => Sys2Proof.Machine.execMdrain p c a b f s
  | .msnap p c a => Sys2Proof.Machine.execMsnap p c a s
  | .putr c a b f => Sys2Proof.Machine.execPutr c a b f s
  | .getr c a b f => Sys2Proof.Machine.execGetr c a b f s
  | .atomr c a b f => Sys2Proof.Machine.execAtomr c a b f s
  | .ctrset a b => Sys2Proof.Machine.execCtrset a b s
  | .ctrwait a b => Sys2Proof.Machine.execCtrwait a b s
  | .rankq w d n => Sys2Proof.Machine.execRankq w d n s
  | .launch c a b => Sys2Proof.Machine.execLaunch c a b s
  | .launchRank c a b => Sys2Proof.Machine.execLaunchRank c a b s
  | .stagex w d => Sys2Proof.Machine.execStagex w d s
  | .imm p => Sys2Proof.Machine.execImm p s
  | .hintMod m sat => Sys2Proof.Machine.execHintMod m sat s
  | .hintChunksz lim => Sys2Proof.Machine.execHintChunksz lim s
  | .hintIpref o => Sys2Proof.Machine.execHintIpref o s
  | .hintStick n => Sys2Proof.Machine.execHintStick n s
  | .localCommit wave => Sys2Proof.Machine.execLocalCommit wave s
  | .chipCommit wave => Sys2Proof.Machine.execChipCommit wave s
  | .lineApplied home => Sys2Proof.Machine.execLineApplied home s
  | .reservationGrant => Sys2Proof.Machine.execReservationGrant s
  | .pauseExpire wave lane => Sys2Proof.Machine.execPauseExpire wave lane s
  | .lanePromotion wave lane => Sys2Proof.Machine.execLanePromotion wave lane s
  | .icacheFill core tenant line => Sys2Proof.Machine.execIcacheFill core tenant line s
  | .pageWalk asker va => Sys2Proof.Machine.execPageWalk asker va s
  | .bankDrowsy core bank => Sys2Proof.Machine.execBankDrowsy core bank s
  | .storePowerOff core => Sys2Proof.Machine.execStorePowerOff core s
  | .accessCountUpdate => Sys2Proof.Machine.execAccessCountUpdate s
  | .engineLinePlace cmd line => Sys2Proof.Machine.execEngineLinePlace cmd line s
  | .engineCommandComplete cmd => Sys2Proof.Machine.execEngineCommandComplete cmd s
  | .engineCommandFail cmd cause detail addr => Sys2Proof.Machine.execEngineCommandFail cmd cause detail addr s
  | .matrixCommandDone cmd => Sys2Proof.Machine.execMatrixCommandDone cmd s
  | .matrixFault cmd detail info => Sys2Proof.Machine.execMatrixFault cmd detail info s
  | .farResponse wave lane reply => Sys2Proof.Machine.execFarResponse wave lane reply s
  | .podClockTick => Sys2Proof.Machine.execPodClockTick s
  | .podReadRequest req => Sys2Proof.Machine.execPodReadRequest req s
  | .podReadResponse rsp => Sys2Proof.Machine.execPodReadResponse rsp s
  | .podOwnershipRequest req => Sys2Proof.Machine.execPodOwnershipRequest req s
  | .podOwnershipGrant rsp => Sys2Proof.Machine.execPodOwnershipGrant rsp s
  | .recall req => Sys2Proof.Machine.execRecall req s
  | .recallResponse rsp => Sys2Proof.Machine.execRecallResponse rsp s
  | .podOwnerEvict tenant line => Sys2Proof.Machine.execPodOwnerEvict tenant line s
  | .podAtomicRequest req work => Sys2Proof.Machine.execPodAtomicRequest req work s
  | .podWriteAck wave stamp pc => Sys2Proof.Machine.execPodWriteAck wave stamp pc s
  | .keepalive => Sys2Proof.Machine.execKeepalive s
  | .ownerTimeout tenant owner => Sys2Proof.Machine.execOwnerTimeout tenant owner s
  | .podRequestTimeout wave lane => Sys2Proof.Machine.execPodRequestTimeout wave lane s
  | .putPacket tenant h seq data => Sys2Proof.Machine.execPutPacket tenant h seq data s
  | .getRequest tenant h seq => Sys2Proof.Machine.execGetRequest tenant h seq s
  | .getResponse tenant h data => Sys2Proof.Machine.execGetResponse tenant h data s
  | .atomicRequest tenant h seq op l x y => Sys2Proof.Machine.execAtomicRequest tenant h seq op l x y s
  | .atomicResponse tenant h old => Sys2Proof.Machine.execAtomicResponse tenant h old s
  | .acknowledgement tenant h answer => Sys2Proof.Machine.execAcknowledgement tenant h answer s
  | .retransmissionTimeout tenant group pkt => Sys2Proof.Machine.execRetransmissionTimeout tenant group pkt s
  | .pathProbe tenant group path => Sys2Proof.Machine.execPathProbe tenant group path s
  | .groupProgressTimeout tenant group => Sys2Proof.Machine.execGroupProgressTimeout tenant group s
  | .remoteLaunchRecord tenant queue rec src => Sys2Proof.Machine.execRemoteLaunchRecord tenant queue rec src s
  | .keyLoad link tx slot salt key => Sys2Proof.Machine.execKeyLoad link tx slot salt key s
  | .keySwitchover link => Sys2Proof.Machine.execKeySwitchover link s
  | .keyExhausted link => Sys2Proof.Machine.execKeyExhausted link s
  | .sealedDataFlit link flit => Sys2Proof.Machine.execSealedDataFlit link flit s
  | .switchMarker link flit => Sys2Proof.Machine.execSwitchMarker link flit s
  | .acknowledgingMarker link flit => Sys2Proof.Machine.execAcknowledgingMarker link flit s
  | .sealedControlFlit link flit => Sys2Proof.Machine.execSealedControlFlit link flit s
  | .linkCrcError link => Sys2Proof.Machine.execLinkCrcError link s
  | .hostRead src hpa len => Sys2Proof.Machine.execHostRead src hpa len s
  | .hostWrite src hpa data pois => Sys2Proof.Machine.execHostWrite src hpa data pois s
  | .backInvalResponse line data held => Sys2Proof.Machine.execBackInvalResponse line data held s
  | .hostSnoop addr inv => Sys2Proof.Machine.execHostSnoop addr inv s
  | .portRequestTimeout wave lane => Sys2Proof.Machine.execPortRequestTimeout wave lane s
  | .portCompletion wave lane reply => Sys2Proof.Machine.execPortCompletion wave lane reply s
  | .biasFlipComplete page => Sys2Proof.Machine.execBiasFlipComplete page s
  | .launchRecordDmwr tenant queue rec => Sys2Proof.Machine.execLaunchRecordDmwr tenant queue rec s
  | .launchRecordPosted tenant queue off bytes rec => Sys2Proof.Machine.execLaunchRecordPosted tenant queue off bytes rec s
  | .lqStatWrite tenant queue val => Sys2Proof.Machine.execLqStatWrite tenant queue val s
  | .launchValidate tenant queue => Sys2Proof.Machine.execLaunchValidate tenant queue s
  | .launchAdmit tenant queue => Sys2Proof.Machine.execLaunchAdmit tenant queue s
  | .workgroupPlace launch => Sys2Proof.Machine.execWorkgroupPlace launch s
  | .workgroupSave wg => Sys2Proof.Machine.execWorkgroupSave wg s
  | .workgroupRestore wg => Sys2Proof.Machine.execWorkgroupRestore wg s
  | .workgroupRetire wg => Sys2Proof.Machine.execWorkgroupRetire wg s
  | .stageRebalance launch => Sys2Proof.Machine.execStageRebalance launch s
  | .launchComplete launch => Sys2Proof.Machine.execLaunchComplete launch s
  | .trapDelivery wave => Sys2Proof.Machine.execTrapDelivery wave s
  | .acctFlush tenant => Sys2Proof.Machine.execAcctFlush tenant s
  | .acctFlushPerform tenant => Sys2Proof.Machine.execAcctFlushPerform tenant s
  | .acctFold core => Sys2Proof.Machine.execAcctFold core s
  | .tenantReload tenant => Sys2Proof.Machine.execTenantReload tenant s
  | .contextLoad tenant => Sys2Proof.Machine.execContextLoad tenant s
  | .lastRejectClear tenant => Sys2Proof.Machine.execLastRejectClear tenant s
  | .coreAssign core val => Sys2Proof.Machine.execCoreAssign core val s
  | .coreHandover core => Sys2Proof.Machine.execCoreHandover core s
  | .extentAdd tenant entry ws => Sys2Proof.Machine.execExtentAdd tenant entry ws s
  | .extentRelease tenant bits => Sys2Proof.Machine.execExtentRelease tenant bits s
  | .extentReleaseComplete tenant entry => Sys2Proof.Machine.execExtentReleaseComplete tenant entry s
  | .memoryWindowWrite tenant entry lo hi => Sys2Proof.Machine.execMemoryWindowWrite tenant entry lo hi s
  | .poisonClear val => Sys2Proof.Machine.execPoisonClear val s
  | .poisonClearPerform => Sys2Proof.Machine.execPoisonClearPerform s
  | .memoryError site corrected => Sys2Proof.Machine.execMemoryError site corrected s
  | .selfTestDone utype core unit pass => Sys2Proof.Machine.execSelfTestDone utype core unit pass s
  | .auditReplay wg core err trapped => Sys2Proof.Machine.execAuditReplay wg core err trapped s
  | .auditCompare wg => Sys2Proof.Machine.execAuditCompare wg s
  | .logWindowOpen tenant => Sys2Proof.Machine.execLogWindowOpen tenant s
  | .logEnable tenant val => Sys2Proof.Machine.execLogEnable tenant val s
  | .logDisable tenant => Sys2Proof.Machine.execLogDisable tenant s
  | .logHeadWrite tenant val => Sys2Proof.Machine.execLogHeadWrite tenant val s
  | .traceSample core => Sys2Proof.Machine.execTraceSample core s
  | .haltLanes tenant freeze => Sys2Proof.Machine.execHaltLanes tenant freeze s
  | .haltComplete tenant => Sys2Proof.Machine.execHaltComplete tenant s
  | .resumeLanes tenant => Sys2Proof.Machine.execResumeLanes tenant s
  | .stepWave tenant => Sys2Proof.Machine.execStepWave tenant s
  | .markWindow tenant => Sys2Proof.Machine.execMarkWindow tenant s
  | .revchunk tenant => Sys2Proof.Machine.execRevchunk tenant s
  | .revwin tenant => Sys2Proof.Machine.execRevwin tenant s
  | .revcont tenant => Sys2Proof.Machine.execRevcont tenant s
  | .trialgo tenant => Sys2Proof.Machine.execTrialgo tenant s
  | .trialstop tenant => Sys2Proof.Machine.execTrialstop tenant s
  | .trialEnd tenant => Sys2Proof.Machine.execTrialEnd tenant s
  | .clklock tenant => Sys2Proof.Machine.execClklock tenant s
  | .clkfree tenant => Sys2Proof.Machine.execClkfree tenant s
  | .debugViewWrite tenant off val => Sys2Proof.Machine.execDebugViewWrite tenant off val s
  | .apertureRead tenant off len => Sys2Proof.Machine.execApertureRead tenant off len s
  | .apertureWrite tenant off data => Sys2Proof.Machine.execApertureWrite tenant off data s
  | .powerWindow watts celsius => Sys2Proof.Machine.execPowerWindow watts celsius s
  | .powerGoodReset found => Sys2Proof.Machine.execPowerGoodReset found s
  | .registerWrite fn off val => Sys2Proof.Machine.execRegisterWrite fn off val s
  | .pickerCycle core => Sys2Proof.Machine.execPickerCycle core s
  | .destinationUnreachable wave lane => Sys2Proof.Machine.execDestinationUnreachable wave lane s
  | .linkDown link => Sys2Proof.Machine.execLinkDown link s
  | .launchStatusResponse tenant tag code => Sys2Proof.Machine.execLaunchStatusResponse tenant tag code s
  | .saveComplete wg => Sys2Proof.Machine.execSaveComplete wg s
  | .restoreComplete wg => Sys2Proof.Machine.execRestoreComplete wg s
  | .leasedCopyEviction tenant line => Sys2Proof.Machine.execLeasedCopyEviction tenant line s

end Sys2Proof.Machine
end

