-- ==== Sys2Proof/Machine/Step.lean ====
section
/-!
DEFINITION. One step of the device: an instruction of a chosen issue set, an event of one of the device's agents, or a cycle of a
picker (log entry 4).
-/

namespace Sys2Proof.Machine

def step (s : State) : Host.Outcome State Fault Refusal :=
  match s.nextWork with
  | (some i, t) => exec i t
  | (none, t) => .next t

/-- The state whose next step issues the word `w` (log entry 7). Every encoded instruction has 32 bits; a row without bits is an
event of an agent and has no word. -/
def State.withFetchWord (s : State) (nbits w : Nat) : State :=
  if nbits = 0 then s else s.placeWord (BitVec.ofNat 32 w)

end Sys2Proof.Machine
end

