-- ==== Sys2Proof/Machine/Registers.lean ====
section
/-!
DEFINITION. What reads of the memory-mapped registers return (R166, R168 to R172, R429): eight bytes at an aligned offset of BAR 0 of
function 0 or of a tenant's function. No read changes the state. Offsets not listed read zero.
-/

namespace Sys2Proof.Machine

def word64 (b : Bool) (n : Nat) : W64 := if b then 1#64 <<< n else 0
/-- Eight bytes at an offset of a run of bytes, zero beyond it. -/
def dwordAt (bs : List Byte) (off : Nat) : W64 := le64 (((bs.drop off).take 8 ++ List.replicate 8 0).take 8)

/-- Function 0 (R166, R414, R423). -/
def State.moduleRead (s : State) (off : Nat) : W64 :=
  if 0x2000 ≤ off ∧ off < 0x2800 then
    let c := s.core ((off - 0x2000) / 8)
    let (v, t) := c.pending.getD (c.assigned, c.tenant)
    (if v then BitVec.ofNat 64 (128 + t) else 0) ||| word64 c.pending.isSome 8
  else if off = 0x3000 then s.errBase
  else if off = 0x3008 then
    s.errN ||| BitVec.ofNat 64 (s.errTail % 65536 * 2 ^ 16 + s.errHead % 65536 * 2 ^ 32 + s.errDropped % 65536 * 2 ^ 48)
  else if off = 0x3010 then word64 (!s.clears.isEmpty) 0
  else if off = 0x3020 then s.powerCap
  else if off = 0x3100 then s.poisonBase
  else if off = 0x3108 then s.biasBase
  else if off = 0x3110 then s.accessBase
  else if off = 0x3120 then s.clkPermit
  else if 0x3200 ≤ off ∧ off < 0x3300 then
    let e := s.identities.getD ((off - 0x3200) / 16) (0, 0)
    if off / 8 % 2 = 0 then e.1 else e.2
  else if 0x10000 ≤ off ∧ off < 0x30000 then
    let x := s.tenant ((off - 0x10000) / 0x1000)
    let o := off % 0x1000
    if o < 0x100 then
      let e := x.windows.getD (o / 16) (0, 0)
      if o / 8 % 2 = 0 then e.1 else e.2
    else if o = 0x100 then x.extRelease
    else if 0x800 ≤ o then (x.extents.getD ((o - 0x800) / 32) []).getD (o / 8 % 4) 0
    else 0
  else 0

/-- The context block (R171, R210, R224, R405, R408, R426); the device's own values read as they stand. -/
def State.contextRead (s : State) (t off : Nat) : W64 :=
  let x := s.tenant t
  let b := x.block
  if off = 0x00 then b.ptRoot
  else if off = 0x08 then b.rgnBase
  else if off = 0x10 then b.rankBase
  else if off = 0x18 then b.rankCount
  else if off = 0x20 then b.jobRank
  else if off = 0x28 then b.jobSize
  else if off = 0x30 then b.jobPrefix
  else if off = 0x38 then BitVec.ofNat 64 x.poisonStat
  else if off = 0x40 then s.scopeCfg
  else if off = 0x48 then b.podCfg
  else if off = 0x50 then b.psetBase
  else if off = 0x58 then b.psetCount
  else if off = 0x60 then BitVec.ofNat 64 x.podClock
  else if off = 0x100 then b.tvec
  else if off = 0x800 then word64 x.reload 0
  else if off = 0x810 then x.lastReject
  else if off = 0x820 then x.acctBase
  else if off = 0x828 then x.acctBits
  else if off = 0x830 then word64 (!x.flushes.isEmpty) 0
  else if 0x840 ≤ off ∧ off < 0x860 then x.faultRec.getD ((off - 0x840) / 8) 0
  else if off = 0x860 then b.saveBase
  else if off = 0x868 then b.saveSlots
  else if off = 0x870 then x.auditCfg
  else if off = 0x878 then x.auditStat
  else 0

/-- LQ_STAT (R169). -/
def LQueue.stat (q : LQueue) : W64 :=
  BitVec.ofNat 64 (q.accepted % 2 ^ 32 * 2 ^ 32 + q.recs.length % 128) ||| word64 q.bad 31 ||| word64 q.drop 30 ||| word64 q.en 29

/-- Entry i of the launch table (R430): the tenant's active launches in the order of their admission (log entry 32). -/
def State.launchEntry (s : State) (t i : Nat) : W64 × W64 :=
  match (s.launches.filter fun p => p.2.live && p.2.tenant == t)[i]? with
  | some (_, x) => (1#64 <<< 63 ||| BitVec.ofNat 64 (x.num % 2 ^ 32), BitVec.ofNat 64 (recDone x.record))
  | none => (0, 0)

def DebugEntry.word (e : DebugEntry) : Nat → W64
  | 0 => e.w0
  | 1 => e.filter.lo
  | 2 => e.filter.hi
  | _ => e.w3

/-- The debug window (R429, R434, R441); an aperture access that fails reads all ones. -/
def State.debugRead (s : State) (t off : Nat) : W64 :=
  let x := s.tenant t
  if off = 0x08 then x.dbgStat
  else if off = 0x10 then x.lsel.lo
  else if off = 0x18 then x.lsel.hi
  else if off = 0x20 then x.dbgArg
  else if off = 0x40 then x.memAddr
  else if off = 0x100 then x.logBase
  else if off = 0x108 then x.logCtl
  else if off = 0x110 then BitVec.ofNat 64 (x.logHead % 2 ^ x.logN)
  else if off = 0x118 then BitVec.ofNat 64 (x.logTail % 2 ^ x.logN)
  else if off = 0x120 then BitVec.ofNat 64 (x.logOldest % 2 ^ 32 * 2 ^ 32 + x.logWin % 2 ^ 32)
  else if off = 0x140 then x.traceBase
  else if off = 0x148 then x.traceCtl
  else if off = 0x150 then BitVec.ofNat 64 (x.traceHead % 2 ^ bits x.traceCtl 4 0)
  else if off = 0x158 then BitVec.ofNat 64 (x.traceTail % 2 ^ bits x.traceCtl 4 0)
  else if off = 0x180 then x.trialLo
  else if off = 0x188 then x.trialHi
  else if off = 0x190 then x.trialCtl
  else if 0x200 ≤ off ∧ off < 0x280 then x.progcnt.getD ((off - 0x200) / 8) 0
  else if 0x1000 ≤ off ∧ off < 0x1400 then
    let e := s.launchEntry t ((off - 0x1000) / 16)
    if off / 8 % 2 = 0 then e.1 else e.2
  else if 0x2000 ≤ off ∧ off < 0x2200 then (x.breaks.getD ((off - 0x2000) / 32) {}).word (off / 8 % 4)
  else if 0x2200 ≤ off ∧ off < 0x2300 then (x.watches.getD ((off - 0x2200) / 32) {}).word (off / 8 % 4)
  else if 0x4000 ≤ off ∧ off < 0x4800 then dwordAt (s.waveView t) (off - 0x4000)
  else if 0x10000 ≤ off ∧ off < 0x17800 then dwordAt (s.registerView t) (off - 0x10000)
  else if 0x20000 ≤ off ∧ off < 0x30000 then
    match s.aperturePlaces t (off - 0x20000) 8 .read with
    | some ls => le64 (ls.map s.committed)
    | none => ~~~0
  else 0

def State.tenantRead (s : State) (t off : Nat) : W64 :=
  let x := s.tenant t
  if 0x10000 ≤ off ∧ off < 0x11000 then s.contextRead t (off - 0x10000)
  else if 0x20000 ≤ off ∧ off < 0x20080 then (x.queues.getD ((off - 0x20000) / 8) {}).stat
  else if off = 0x30000 then x.intMap
  else if 0x40000 ≤ off ∧ off < 0x40400 then Tab.get 0 x.msix ((off - 0x40000) / 8)
  else if off = 0x40800 then x.msixPending
  else if 0x80000 ≤ off ∧ off < 0x100000 then s.debugRead t (off - 0x80000)
  else 0

/-- A register read of eight bytes: of function 0, or of the function of tenant `fn` - 1, which is absent in recovery mode. -/
def State.registerRead (s : State) (fn off : Nat) : W64 :=
  if off % 8 ≠ 0 then 0
  else if fn = 0 then s.moduleRead off
  else if fn = hdmFunction then (if off = 0 then BitVec.ofNat 64 s.hdmBase else 0)
  else if 32 < fn ∨ s.recovery then 0
  else s.tenantRead (fn - 1) off

end Sys2Proof.Machine
end

