-- ==== Sys2Proof/Safety.lean ====
section
/-!
DEFINITION. The terms in which claims are made: a step that reaches a next state; when an instruction issues without being held,
replayed or trapped by its gate; what an instruction leaves as it was; and what it leaves behind.
-/

namespace Sys2Proof.Machine

/-- A step that reaches a next state. -/
def Runs (s : State) : Prop := ∃ t, step s = .next t

/-- `n` steps reach a state. -/
def reaches (n : Nat) (s t : State) : Prop := Sys2Proof.core.run n s = .next t

/-! ### When an instruction issues -/

/-- Every condition on the state under which an instruction passes the gate of its issue: its set stands (R174, R175), its chunk is
open (R79), checks 6 to 8 of R264 pass, its place in the chunk is free (R78), no other set of the wave bars it (R176), no breakpoint
or watchpoint matches (R436), its latches are valid (R182) and its registers good (R416) and not still to be written by an earlier
commit (R78, R88, R104), its checkpoint has room (R81), handler mode permits it (R393), the log has room for the commit of a chunk
of its own (R450), the banks of its registers are awake (R74), and no replay is running (R454). -/
def State.ready (s : State) (i : Instr) : Bool :=
  s.setStands && !s.me.run.ended && (s.dynamicCheck i).isNone
    && (i.place != .own || s.alone) && !(i.issuesAlone && s.issuedBy.contains s.cur.wave)
    && (s.matchOf s.cur.wave s.cur.pc s.myLanes i).isNone && (s.me.badLatch s.myLanes i.units).isEmpty
    && !(i.readRegs.any fun v => s.me.badLanes v &&& s.cur.mask != 0)
    && !s.rowWaits i
    && decide (s.me.run.saved.length + s.newRows i ≤ 32)
    && !(s.me.handler && i.notInHandler)
    && (i.place != .own || s.logRoom s.cur.wave 1)
    && (s.wakeFor (s.namedRows i)).isNone
    && (s.tenant (s.waveTenant s.cur.wave)).reverse.isNone

/-- The state in which the instruction's own effect begins: with logging on, the issue is noted in its chunk (R453). -/
def State.entered (s : State) (i : Instr) : State :=
  if (s.tenant (s.waveTenant s.cur.wave)).logging && !s.me.handler then
    s.modWave s.cur.wave fun w => { w with run := { w.run with cand := some (s.noteIssue s.cur.wave s.cur.pc s.myLanes i) } }
  else s

/-- The chunk that holds what the last issue of a wave did: its running chunk, or the committing one if the issue ended it. -/
def Wave.lastChunk (w : Wave) : Chunk := if w.run.issued = 0 then w.com.getD w.run else w.run

/-! ### What an instruction leaves as it was -/

/-- A wave without its lanes' issue state, its registers, its chunks and what holds its sets: FPCTL, the trap registers, waits,
ownership, view time and the rest. -/
def Wave.still (w : Wave) : Wave :=
  { w with lanes := [], regs := [], run := {}, com := none, held := none, trials := [], woke := [], storing := [] }

/-- Wave k has issued and done nothing beyond its own lanes, registers and chunks: all memory, every other wave, the workgroups,
launches, tenants and everything else of the device are as before, but for the picker's own accounts and the banks in use (R73). -/
structure Frame (k : Nat) (s t : State) : Prop where
  rest : t = { s with waves := t.waves, cores := t.cores, issue := t.issue, ports := t.ports, offered := t.offered,
                      issuedBy := t.issuedBy, agenda := t.agenda }
  others : ∀ j, j ≠ k → t.wave j = s.wave j
  cores : ∀ c, t.core c = { s.core c with port0 := (t.core c).port0, charges := (t.core c).charges, banks := (t.core c).banks,
                                          storeUsed := (t.core c).storeUsed }
  own : (t.wave k).still = (s.wave k).still
  mem : ∀ a, t.peek (.mem a) = s.peek (.mem a)
  scratch : ∀ g o, t.peek (.scr g o) = s.peek (.scr g o)
  accs : ∀ c o, t.peek (.acc c o) = s.peek (.acc c o)

/-- The chunk of the issue holds the writes, their signature and the closing operation that it held: its wave reads every byte as before. -/
structure ChunkKept (s t : State) : Prop where
  writes : (t.wave s.cur.wave).lastChunk.writes = s.me.run.writes
  wsig : (t.wave s.cur.wave).lastChunk.wsig = s.me.run.wsig
  wpriv : (t.wave s.cur.wave).lastChunk.wpriv = s.me.run.wpriv
  closing : (t.wave s.cur.wave).lastChunk.closing = s.me.run.closing

/-- The lanes outside the issue set stand as they did; only their latches may have become invalid with the end of the chunk. -/
def LanesKept (s t : State) : Prop :=
  ∀ l, l ∉ s.myLanes → { (t.wave s.cur.wave).lane l with lvalid := (s.me.lane l).lvalid } = s.me.lane l

/-- Registers keep their words, but those that a test names. -/
def RegsKept (s t : State) (but : Nat → Nat → Prop) : Prop :=
  ∀ v l, l < 64 → ¬ but v l → (t.wave s.cur.wave).reg v l = s.me.reg v l

/-- A register instruction: in each lane of the set the value `r` goes to the `n` registers of `d` if W = 1, and to the latches; the
lane goes on to the next instruction; nothing else changes. -/
structure Wrote (s t : State) (w : Bool) (d : Operand) (n : Nat) (r : Nat → BitVec 128) : Prop where
  frame : Frame s.cur.wave s t
  chunk : ChunkKept s t
  dest : ∀ v : VReg, d = .v v → w = true → ∀ l ∈ s.myLanes, ∀ j, j < n →
    (t.wave s.cur.wave).reg (v.val + j) l = (r l).extractLsb' (32 * j) 32
  regs : RegsKept s t fun v l => w = true ∧ l ∈ s.myLanes ∧ v ∈ destRegs d n
  lanes : LanesKept s t
  pcs : ∀ l ∈ s.myLanes, ((t.wave s.cur.wave).lane l).pc = s.cur.pc + 4
  latch : ∀ l ∈ s.myLanes, ((t.wave s.cur.wave).lane l).latches =
    { val := (r l).setWidth 64, wide := decide (2 ≤ n) } :: (s.me.lane l).latches.take 3
  valid : (t.wave s.cur.wave).run.issued ≠ 0 → ∀ l ∈ s.myLanes, ((t.wave s.cur.wave).lane l).lvalid =
    if n ≤ 2 then ((s.me.lane l).lvalid <<< 1) ||| 1 else (s.me.lane l).lvalid <<< 1

/-- An instruction that writes no register and no latch, its lanes at counters of a rule. -/
structure Went (s t : State) (pc : Nat → W64) : Prop where
  frame : Frame s.cur.wave s t
  chunk : ChunkKept s t
  flags : (t.wave s.cur.wave).lastChunk.flags = s.me.run.flags
  regs : RegsKept s t fun _ _ => False
  lanes : LanesKept s t
  pcs : ∀ l ∈ s.myLanes, ((t.wave s.cur.wave).lane l).pc = pc l

/-- A register instruction completes with a result of which a property holds in each lane. -/
def Gives (i : Instr) (w : Bool) (d : Operand) (n : Nat) (p : State → Nat → BitVec 128 → Prop) : Prop :=
  ∀ s, s.ready i = true → ∃ t r, exec i s = .next t ∧ Wrote s t w d n r ∧ (t.wave s.cur.wave).lastChunk.flags = s.me.run.flags
    ∧ ∀ l ∈ s.myLanes, p s l (r l)

/-- The same where a condition on the state holds. -/
def GivesIf (h : State → Prop) (i : Instr) (w : Bool) (d : Operand) (n : Nat) (p : State → Nat → BitVec 128 → Prop) : Prop :=
  ∀ s, s.ready i = true → h s → ∃ t r, exec i s = .next t ∧ Wrote s t w d n r
    ∧ (t.wave s.cur.wave).lastChunk.flags = s.me.run.flags ∧ ∀ l ∈ s.myLanes, p s l (r l)

/-- The instruction completes with its own effect `u` and what follows every instruction: the step ends in `u` with the issue counted,
the lanes moved on (unless the instruction has moved them) and the chunk ended where it must. -/
def Does (i : Instr) (moved : Bool) (s u : State) : Prop := exec i s = .next (u.finish i moved)

/-- Input values can be taken: logging is off, or the log has room for them or a mode that makes room (R446, R450). -/
def State.inputRoom (s : State) (n : Nat) : Prop :=
  let t := s.tenant (s.waveTenant s.cur.wave)
  t.logging = false ∨ t.logMode ≠ 0 ∨ s.me.run.inputs.length + n ≤ t.logFree

/-- A control transfer: every lane of the set at its new counter; in the lanes of `take` the low word of the next counter goes to the
link destination, if there is one, and to the latches; nothing else changes. -/
structure Jumped (s t : State) (link : Option Operand) (take : Nat → Bool) (pc : Nat → W64) : Prop where
  frame : Frame s.cur.wave s t
  chunk : ChunkKept s t
  flags : (t.wave s.cur.wave).lastChunk.flags = s.me.run.flags
  lanes : LanesKept s t
  pcs : ∀ l ∈ s.myLanes, ((t.wave s.cur.wave).lane l).pc = pc l
  dest : ∀ v : VReg, link = some (.v v) → ∀ l ∈ s.myLanes, take l = true →
    (t.wave s.cur.wave).reg v.val l = (s.cur.pc + 4).setWidth 32
  regs : RegsKept s t fun v l => l ∈ s.myLanes ∧ take l = true ∧ ∃ r : VReg, link = some (.v r) ∧ v = r.val
  latch : ∀ l ∈ s.myLanes, ((t.wave s.cur.wave).lane l).latches =
    if link.isSome && take l then { val := ((s.cur.pc + 4).setWidth 32).setWidth 64, wide := false } :: (s.me.lane l).latches.take 3
    else (s.me.lane l).latches

/-! ### Accesses to memory -/

/-- Every lane of the set names, at its address plus an offset, bytes on the chip that pass the checks of R11, with nothing to wait
for: no commit, engine or line (R52, R88, R107), no drowsy bank (R74), no further store cycle (R48). -/
structure OnChip (s : State) (a : Operand) (off size : Nat) (sc : Scope) (acc : Acc) (at_ : Nat → List Loc) : Prop where
  found : ∀ l ∈ s.myLanes, ∃ cnt,
    resolve s s.cur.wave l (s.me.read64 l a + BitVec.ofNat 64 off) size sc acc = .ok { target := .chip (at_ l), far := false, cnt := cnt }
  free : ∀ l ∈ s.myLanes, s.boardWaits s.cur.wave (s.me.read64 l a + BitVec.ofNat 64 off).toNat size acc.writes = false
    ∧ ∀ p ∈ at_ l, s.locStall s.cur.wave acc.writes p = none
  awake : let ls := (s.myLanes.flatMap fun l => ((at_ l).map Loc.line).eraseDups).eraseDups
    (s.wakeFor ls).isNone = true ∧ (s.storeWait ls).isNone = true

/-- The state but for what an access leaves in the device's records: the page counters (R43), the lines that the level-1 caches hold
(R65), the banks in use (R73), the back-invalidations used up (R151). -/
def State.recordsOf (s t : State) : State := { s with counts := t.counts, fresh := t.fresh, invDone := t.invDone, cores := t.cores }
/-- The cores are as before, but for those and the picker's accounts. -/
def CoresKept (s t : State) : Prop :=
  ∀ c, t.core c = { s.core c with port0 := (t.core c).port0, charges := (t.core c).charges, l1 := (t.core c).l1,
                                  banks := (t.core c).banks, storeUsed := (t.core c).storeUsed }

/-- A lane's bytes at places as the running chunk reads them at an address (R80, R103), as a number. -/
def State.loaded (s : State) (ea : W64) (ps : List Loc) : Nat := leNat (s.loadBytes s.cur.wave ea ps)

/-- The store fits in the write stash beside what it holds (R77, R80). -/
def State.stashRoom (s : State) (at_ : Nat → List Loc) : Prop :=
  let mine := stashLines s.me.run.writes
  mine.length + ((s.me.com.map fun c => (stashLines c.writes).length).getD 0)
    + ((stashNeed s.cur.wave (s.myLanes.flatMap at_)).filter fun x => !mine.contains x).length ≤ 64

/-- The object that the leading lane names stands at a place that the checks of R330 or R376 accept, with nothing to wait for. -/
def State.objectFree (s : State) (a : Operand) (scr : Bool) (acc : Acc) (bad : Nat × Nat) (l : Loc) : Prop :=
  let ea := s.me.read64 (leading s.cur.mask) a
  s.homeObject ea scr acc bad = .ok l
  ∧ (s.accessWait s.cur.wave 16 acc.writes [(0, ea, { target := .chip ((List.range 16).map l.add), far := false, cnt := false })]).isNone = true

/-- A waiting instruction of wave k has completed: it waits no more, its lanes have gone on, and in each lane a word has gone to the
destination if W = 1. -/
def Woken (s t : State) (w : Bool) (d : Operand) (r : Nat → W32) : Prop :=
  let k := s.cur.wave
  (t.wave k).wait.kind = .none ∧ (∀ l ∈ s.myLanes, ((t.wave k).lane l).pc = s.cur.pc + 4)
  ∧ ∀ v : VReg, d = .v v → w = true → ∀ l ∈ s.myLanes, (t.wave k).reg v.val l = r l

/-- Wave k waits in an instruction, its lanes at it. -/
def Waits (s t : State) (x : Waiting) : Prop :=
  (t.wave s.cur.wave).wait = x ∧ (∀ l ∈ s.myLanes, ((t.wave s.cur.wave).lane l).pc = s.cur.pc) ∧ t.mem = s.mem

/-- Every element of a result of width n has a property. -/
def Elems (n count : Nat) (v : BitVec 128) (p : Nat → Nat → Prop) : Prop := ∀ e, e < count → p e (elem v n e)

/-- An element holds an exact value: modulo 2^n, or with saturation clamped to the signed range (R229). -/
def Holds (n : Nat) (sat : Bool) (v : Int) (r : Nat) : Prop :=
  r < 2 ^ n ∧ if sat then sgn n r = max (-2 ^ (n - 1)) (min (2 ^ (n - 1) - 1) v) else (r : Int) = v % 2 ^ n

/-- An integer instruction with register operands: in each lane the elements of the result stand in a relation to the lane's saturation
attribute and the elements of a, b and the old d (R293). -/
def IntR (f : IForm) (d a b : Operand) (p : Nat → Bool → Nat → Nat → Nat → Nat → Prop) (s : State) (l : Nat) (v : BitVec 128) : Prop :=
  Elems f.width f.count v fun e r => p f.width (s.me.lane l).sat (elem (s.me.readN l f.regs a) f.width e)
    (elem (s.me.readN l f.regs b) f.width e) (elem (s.me.readN l f.regs d) f.width e) r
/-- The same with an immediate: relation to the saturation attribute, the element of a and the signed value of the immediate. -/
def IntI (f : IForm) (a : Operand) (i : BitVec 7) (p : Nat → Bool → Nat → Int → Nat → Prop) (s : State) (l : Nat) (v : BitVec 128) :
    Prop :=
  Elems f.width f.count v fun e r => p f.width (s.me.lane l).sat (elem (s.me.readN l f.regs a) f.width e) i.toInt r

/-- Bit j of the n-bit pattern r is a function of bit j of the patterns x, y and z. -/
def Bitwise (g : Bool → Bool → Bool → Bool) (n x y z r : Nat) : Prop :=
  r < 2 ^ n ∧ ∀ j, j < n → r.testBit j = g (x.testBit j) (y.testBit j) (z.testBit j)

/-- A comparison gives all ones or zero (R294). -/
def Decides (n : Nat) (c : Prop) (r : Nat) : Prop := (c → r = 2 ^ n - 1) ∧ (¬ c → r = 0)

/-! ### Events -/

/-- An event of the device's agents ends in a state of which a property holds. -/
def After (e : Instr) (s : State) (p : State → Prop) : Prop := ∃ t, exec e s = .next t ∧ p t

/-- No wave waits, no tenant logs, no staged launch has a queue: a change of memory is that change and nothing more. -/
structure State.Quiet (s : State) : Prop where
  waits : ∀ k, (s.wave k).wait.kind = .none
  logs : ∀ p ∈ s.tenants, p.2.logging = false
  stages : ∀ p ∈ s.launches, p.2.stages = []

/-- Memory holds some bytes from an address on, and elsewhere what it held. -/
def Placed (s t : State) (a : Nat) (bs : List Byte) : Prop :=
  ∀ x, t.peek (.mem x) = if a ≤ x ∧ x < a + bs.length then bs.getD (x - a) 0 else s.peek (.mem x)

/-- Device memory stands open to accesses from outside: no write on its way, no flip, no back-invalidation to wait for, nothing
reserved, no step at a home that waits. -/
structure State.Open (s : State) : Prop where
  packets : s.packets = []
  flips : s.flips = []
  inv : ∀ a w, s.invNeed a w = none
  free : s.resHolder = none
  steps : s.homeSteps = []

/-- Wave k waits for one lane of a far access and can take its answer: it is resident, its tenant neither logs nor replays, its trap
queue has room. -/
structure State.OneLane (s : State) (k : Nat) (f : FarLane) : Prop where
  kind : (s.wave k).wait.kind = .far
  lanes : (s.wave k).wait.lanes = [f]
  open_ : f.reply = none
  sent : f.held = false
  posted : ∀ g ∈ (s.wave k).posted, g.held = false
  lane : f.lane < 64
  here : (s.wg (s.wave k).wg).saved = false ∧ (s.wg (s.wave k).wg).saving = false ∧ (s.wg (s.wave k).wg).restoring = false
  log : (s.tenant (s.waveTenant k)).logging = false
  replay : (s.tenant (s.waveTenant k)).reverse = none
  plain : (s.wg (s.wave k).wg).cntOpen = false
  room : (s.wave k).trapQ.length < 8

/-- The waiting load of wave k has its data: they stand in its destination, and the wave waits no more. -/
def Answered (s t : State) (k : Nat) (f : FarLane) (bs : List Byte) : Prop :=
  (t.wave k).wait.kind = .none ∧ t.mem = s.mem
  ∧ ∀ (d : VReg) (w : Width), (s.wave k).wait.w = true → (s.wave k).wait.d = .v d → f.op = .load w false → ∀ j, j < w.regs →
      (t.wave k).reg (d.val + j) f.lane = (BitVec.ofNat 128 (leNat (bs.take w.bytes))).extractLsb' (32 * j) 32

/-- The waiting access of wave k has failed late (R317): a trap with NEXT = 1 and ASYNC = 1 for its lane. -/
def FailedLate (s t : State) (k : Nat) (f : FarLane) (cause detail : Nat) : Prop :=
  (t.wave k).wait.kind = .none
  ∧ (t.wave k).trapQ = (s.wave k).trapQ ++ [{ cause := BitVec.ofNat 8 cause, detail := BitVec.ofNat 8 detail, next := true, async := true,
                                              fpc := (s.wave k).wait.pc, mask := maskOf [f.lane], info := f.ea }]

/-- A chunk that can commit by itself: the lines it writes are free at their homes, its wave goes on afterwards without a trap, its tenant
does not replay, nothing is reserved, no STEP ends. -/
structure State.Commits (s : State) (k : Nat) (c : Chunk) : Prop where
  live : (s.wave k).live = true
  com : (s.wave k).com = some c
  fresh : c.ts = none
  open_ : (c.lines ++ rowLocs k (c.saved.map (·.1))).any s.pendingLine = false
  home : s.commitStallAt c = none
  calm : (s.wave k).trapQ = []
  free : s.resHolder = none
  stays : (s.wave k).lanes.all (·.exited) = false
  goes : (s.wave k).run.ended = false
  plain : c.step = none
  replay : (s.tenant (s.waveTenant k)).reverse = none

/-! ### Floating-point results -/

/-- The lanes of the set whose flags meet an enable bit of FPCTL (R241). -/
def State.trapping (s : State) (r : State → Nat → FpRes) : List Nat :=
  s.myLanes.filter fun l => (r s l).2 &&& fpEnabled s.me.fpctl != 0

/-- A floating-point instruction: where no lane raises an enabled flag, it completes with a result and the flags of all lanes added
to those of the chunk (R240); else it raises FP_EXCEPT and writes nothing (R241). -/
def FpGives (i : Instr) (w : Bool) (d : Operand) (n : Nat) (r : State → Nat → FpRes) : Prop :=
  ∀ s, s.ready i = true →
    (s.trapping r = [] → ∃ t, exec i s = .next t ∧ Wrote s t w d n (fun l => (r s l).1)
      ∧ (t.wave s.cur.wave).lastChunk.flags = s.myLanes.foldl (fun m l => m ||| (r s l).2) s.me.run.flags)
    ∧ ∀ l ls, s.trapping r = l :: ls →
      exec i s = .next ((s.entered i).trap causeFp 0 (maskOf (l :: ls)) ((r s l).2.setWidth 64))

/-- What a form's element rule gives for the operands of a lane. -/
def FpR (f : FForm) (d a b : Operand) (op : FpOp) (s : State) (l : Nat) : FpRes :=
  fpElems f (s.me.lane l).rm (s.me.lane l).sat op (s.me.readN l f.regs a) (s.me.readN l f.regs b) (s.me.readN l f.regs d)

end Sys2Proof.Machine

namespace Sys2Proof

open Machine (FFlags flagNX flagUF flagOF flagDZ flagIV flagIf)

/-- The number a finite value stands for. -/
def FVal.rat : FVal → ℚ
  | .num n m e => (if n then -1 else 1) * (m : ℚ) * 2 ^ e
  | _ => 0
def FVal.finite : FVal → Bool
  | .num .. => true
  | _ => false

/-- x lies below y; neither is a NaN. -/
def FVal.less (x y : FVal) : Prop :=
  (x = .inf true ∧ y ≠ .inf true) ∨ (y = .inf false ∧ x ≠ .inf false) ∨ (x.finite = true ∧ y.finite = true ∧ x.rat < y.rat)

/-- The delivery of an exact number: zero with a sign, or the one rounding of R235. -/
def Exact (f : FFmt) (rm : Round) (sat : Bool) (v : ℚ) (zneg : Bool) (r : Nat × FFlags) : Prop :=
  if v = 0 then r = (f.signBit zneg, 0)
  else ∃ (m : Nat) (e : Int), (m : ℚ) * 2 ^ e = |v| ∧ r = f.roundNum rm sat (decide (v < 0)) m e
/-- The delivery of an infinity (R236): clamped by the saturation attribute, without a flag. -/
def Infinite (f : FFmt) (sat neg : Bool) (r : Nat × FFlags) : Prop :=
  r = (f.signBit neg + if sat then f.maxCode else (2 ^ (f.width - 1 - f.mbits) - 1) * 2 ^ f.mbits, 0)

/-- The sum of two values (R239). -/
def SumIs (f : FFmt) (rm : Round) (sat : Bool) (x y : FVal) (r : Nat × FFlags) : Prop :=
  if x.isNan || y.isNan then r = (f.nan, flagIf (x.sig || y.sig) flagIV)
  else if x.isInf && y.isInf && x.neg != y.neg then r = (f.nan, flagIV)
  else if x.isInf then Infinite f sat x.neg r
  else if y.isInf then Infinite f sat y.neg r
  else Exact f rm sat (x.rat + y.rat) (if x.isZero && y.isZero && x.neg == y.neg then x.neg else rm == .rd) r
/-- The product of two values. -/
def ProductIs (f : FFmt) (rm : Round) (sat : Bool) (x y : FVal) (r : Nat × FFlags) : Prop :=
  if x.isNan || y.isNan then r = (f.nan, flagIf (x.sig || y.sig) flagIV)
  else if (x.isInf && y.isZero) || (x.isZero && y.isInf) then r = (f.nan, flagIV)
  else if x.isInf || y.isInf then Infinite f sat (x.neg != y.neg) r
  else Exact f rm sat (x.rat * y.rat) (x.neg != y.neg) r
/-- The product of two values and a third added, one rounding. -/
def FusedIs (f : FFmt) (rm : Round) (sat : Bool) (x y z : FVal) (r : Nat × FFlags) : Prop :=
  let zeroInf := (x.isInf && y.isZero) || (x.isZero && y.isInf)
  if x.isNan || y.isNan || z.isNan || zeroInf then r = (f.nan, flagIf (x.sig || y.sig || z.sig || zeroInf) flagIV)
  else if x.isInf || y.isInf then
    if z.isInf && z.neg != (x.neg != y.neg) then r = (f.nan, flagIV) else Infinite f sat (x.neg != y.neg) r
  else if z.isInf then Infinite f sat z.neg r
  else Exact f rm sat (x.rat * y.rat + z.rat)
    (if (x.isZero || y.isZero) && z.isZero && (x.neg != y.neg) == z.neg then z.neg else rm == .rd) r

/-- An integer to which a number rounds in a direction. -/
def RoundsTo (rm : Round) (v : ℚ) (k : Int) : Prop :=
  match rm with
  | .rne => |v - k| ≤ 1 / 2 ∧ (|v - k| = 1 / 2 → k % 2 = 0)
  | .rz => |(k : ℚ)| ≤ |v| ∧ |v - k| < 1 ∧ 0 ≤ v * k
  | .ru => v ≤ k ∧ (k : ℚ) < v + 1
  | .rd => (k : ℚ) ≤ v ∧ v < k + 1

end Sys2Proof
end

