-- ==== Sys2Proof/Certificates/Slice0/Obligations.lean ====
section
/-!
DEFINITION. The statements for the provers, one definition each, in the order of the spec's parts.
-/

open Sys2Proof Sys2Proof.Machine

/-! ### Integer and address arithmetic -/

/-- R229, R293, R294: the exact sum, difference, product or product and sum of the signed elements, modulo 2^n or, under SAT, clamped to
the signed range; MULH gives the upper half of the exact signed or unsigned product. -/
def Obligations.IntegerArithmetic : Prop :=
  ∀ (w : Bool) (d a b : Operand) (i : BitVec 7) (f : IForm),
    Gives (.iadd w d a b f) w d f.regs (IntR f d a b fun n sat x y _ r => Holds n sat (sgn n x + sgn n y) r)
    ∧ Gives (.isub w d a b f) w d f.regs (IntR f d a b fun n sat x y _ r => Holds n sat (sgn n x - sgn n y) r)
    ∧ Gives (.imul w d a b f) w d f.regs (IntR f d a b fun n sat x y _ r => Holds n sat (sgn n x * sgn n y) r)
    ∧ Gives (.imad w d a b f) w d f.regs (IntR f d a b fun n sat x y z r => Holds n sat (sgn n x * sgn n y + sgn n z) r)
    ∧ Gives (.imulhS w d a b f) w d f.regs (IntR f d a b fun n _ x y _ r => r < 2 ^ n ∧ sgn n r = sgn n x * sgn n y / 2 ^ n)
    ∧ Gives (.imulhW w d a b f) w d f.regs (IntR f d a b fun n _ x y _ r => r = x * y / 2 ^ n)
    ∧ Gives (.iaddI w d a i f) w d f.regs (IntI f a i fun n sat x c r => Holds n sat (sgn n x + c) r)
    ∧ Gives (.imulI w d a i f) w d f.regs (IntI f a i fun n sat x c r => Holds n sat (sgn n x * c) r)

/-- R293, R295, R299: the bitwise instructions, bit by bit; SEL takes a bit of a where the old d holds 1 and of b elsewhere; the immediate of
ANDI, ORI and XORI is sign-extended. A shift moves the pattern by the element's count, a left shift drops what leaves the element, a
right shift is the floor of a division, of the unsigned or of the signed value, for every count; a rotation moves bit j to place
(j + count) modulo n. -/
def Obligations.IntegerBitwiseAndShifts : Prop :=
  (∀ (w : Bool) (d a b : Operand) (i : BitVec 7) (f : IForm),
      Gives (.and w d a b f) w d f.regs (IntR f d a b fun n _ x y z r => Bitwise (fun x y _ => x && y) n x y z r)
      ∧ Gives (.or w d a b f) w d f.regs (IntR f d a b fun n _ x y z r => Bitwise (fun x y _ => x || y) n x y z r)
      ∧ Gives (.xor w d a b f) w d f.regs (IntR f d a b fun n _ x y z r => Bitwise (fun x y _ => x ^^ y) n x y z r)
      ∧ Gives (.andn w d a b f) w d f.regs (IntR f d a b fun n _ x y z r => Bitwise (fun x y _ => x && !y) n x y z r)
      ∧ Gives (.sel w d a b f) w d f.regs (IntR f d a b fun n _ x y z r => Bitwise (fun x y z => if z then x else y) n x y z r)
      ∧ Gives (.andI w d a i f) w d f.regs (IntI f a i fun n _ x c r => Bitwise (fun x y _ => x && y) n x (c % 2 ^ n).toNat 0 r)
      ∧ Gives (.orI w d a i f) w d f.regs (IntI f a i fun n _ x c r => Bitwise (fun x y _ => x || y) n x (c % 2 ^ n).toNat 0 r)
      ∧ Gives (.xorI w d a i f) w d f.regs (IntI f a i fun n _ x c r => Bitwise (fun x y _ => x ^^ y) n x (c % 2 ^ n).toNat 0 r))
  ∧ (∀ (w : Bool) (d a b : Operand) (i : BitVec 7) (f : IForm),
      Gives (.shl w d a b f) w d f.regs (IntR f d a b fun n _ x c _ r => r = x * 2 ^ c % 2 ^ n)
      ∧ Gives (.shr w d a b f) w d f.regs (IntR f d a b fun _ _ x c _ r => r = x / 2 ^ c)
      ∧ Gives (.sar w d a b f) w d f.regs (IntR f d a b fun n _ x c _ r => r < 2 ^ n ∧ sgn n r = sgn n x / 2 ^ c)
      ∧ Gives (.rotl w d a b f) w d f.regs (IntR f d a b fun n _ x c _ r => r < 2 ^ n ∧ ∀ j, j < n → r.testBit ((j + c) % n) = x.testBit j)
      ∧ (i.msb = false →
        Gives (.shlI w d a i f) w d f.regs (IntI f a i fun n _ x c r => r = x * 2 ^ c.toNat % 2 ^ n)
        ∧ Gives (.shrI w d a i f) w d f.regs (IntI f a i fun _ _ x c r => r = x / 2 ^ c.toNat)
        ∧ Gives (.sarI w d a i f) w d f.regs (IntI f a i fun n _ x c r => r < 2 ^ n ∧ sgn n r = sgn n x / 2 ^ c.toNat)
        ∧ Gives (.rotlI w d a i f) w d f.regs (IntI f a i fun n _ x c r => r < 2 ^ n ∧ ∀ j, j < n → r.testBit ((j + c.toNat) % n) = x.testBit j)))

/-- R229, R293: comparisons give all ones or zero in each element; MIN and MAX give the lesser or greater element, signed or unsigned. -/
def Obligations.IntegerCompare : Prop :=
  ∀ (w : Bool) (d a b : Operand) (f : IForm),
    Gives (.icmpeq w d a b f) w d f.regs (IntR f d a b fun n _ x y _ r => Decides n (x = y) r)
    ∧ Gives (.icmpne w d a b f) w d f.regs (IntR f d a b fun n _ x y _ r => Decides n (x ≠ y) r)
    ∧ Gives (.icmpltS w d a b f) w d f.regs (IntR f d a b fun n _ x y _ r => Decides n (sgn n x < sgn n y) r)
    ∧ Gives (.icmpltW w d a b f) w d f.regs (IntR f d a b fun n _ x y _ r => Decides n (x < y) r)
    ∧ Gives (.icmpleS w d a b f) w d f.regs (IntR f d a b fun n _ x y _ r => Decides n (sgn n x ≤ sgn n y) r)
    ∧ Gives (.icmpleW w d a b f) w d f.regs (IntR f d a b fun n _ x y _ r => Decides n (x ≤ y) r)
    ∧ Gives (.iminS w d a b f) w d f.regs (IntR f d a b fun n _ x y _ r => (r = x ∨ r = y) ∧ sgn n r = min (sgn n x) (sgn n y))
    ∧ Gives (.iminW w d a b f) w d f.regs (IntR f d a b fun _ _ x y _ r => r = min x y)
    ∧ Gives (.imaxS w d a b f) w d f.regs (IntR f d a b fun n _ x y _ r => (r = x ∨ r = y) ∧ sgn n r = max (sgn n x) (sgn n y))
    ∧ Gives (.imaxW w d a b f) w d f.regs (IntR f d a b fun _ _ x y _ r => r = max x y)

/-- R296 to R298, R300: the number of set bits, of leading zeros, the bits in reverse; a field at position b[6:0] of length b[14:8]
extracted or inserted; PERM takes byte b[4i+3:4i] of the eight bytes d:a, or its sign, 0x00 or 0xFF; GADDR makes tag 0b11 with a rank and a region. -/
def Obligations.IntegerFields : Prop :=
  ∀ (w : Bool) (d a b : Operand) (f : IForm),
    Gives (.popc w d a f) w d f.regs (IntR f d a .zero fun n _ x _ _ r => r = ((List.range n).filter fun j => x.testBit j).length)
    ∧ Gives (.clz w d a f) w d f.regs (IntR f d a .zero fun n _ x _ _ r => r ≤ n ∧ x < 2 ^ (n - r) ∧ (r < n → 2 ^ (n - r - 1) ≤ x))
    ∧ Gives (.brev w d a f) w d f.regs (IntR f d a .zero fun n _ x _ _ r => r < 2 ^ n ∧ ∀ j, j < n → r.testBit j = x.testBit (n - 1 - j))
    ∧ Gives (.bfeW w d a b f) w d f.regs (IntR f d a b fun n _ x y _ r => r = x / 2 ^ (y % 128) % 2 ^ min (y / 256 % 128) n)
    ∧ Gives (.bfeS w d a b f) w d f.regs (IntR f d a b fun n _ x y _ r => r < 2 ^ n ∧
        sgn n r = if y / 256 % 128 = 0 then 0 else sgn (min (y / 256 % 128) n) (x / 2 ^ (y % 128) % 2 ^ min (y / 256 % 128) n))
    ∧ Gives (.bfi w d a b f) w d f.regs (IntR f d a b fun n _ x y z r => r < 2 ^ n ∧ ∀ j, j < n → r.testBit j =
        if y % 128 ≤ j ∧ j < y % 128 + min (y / 256 % 128) n then x.testBit (j - y % 128) else z.testBit j)
    ∧ Gives (.perm w d a b) w d 1 (fun s l v => ∀ i, i < 4 → v.extractLsb' (8 * i) 8 =
        match ((s.me.read32 l b).extractLsb' (4 * i) 4).toNat with
        | 15 => 0xFF
        | 12 | 13 | 14 => 0
        | n => if n < 8 then (s.me.read32 l d ++ s.me.read32 l a).extractLsb' (8 * n) 8
          else if (s.me.read32 l d ++ s.me.read32 l a).getLsbD (8 * (n - 8) + 7) then 0xFF else 0)
    ∧ Gives (.gaddr w d a b) w d 2 (fun s l v => v.extractLsb' 0 64 =
        3#2 ++ ((s.me.read32 l a).extractLsb' 0 17 ++ ((s.me.read32 l b).extractLsb' 0 5 ++ 0#40)))

/-! ### Floating point -/

/-- R241, R280, R301 to R308: every floating-point instruction completes where no lane raises an enabled flag, its element rule applied to
each element, its flags added to the chunk's; else it raises FP_EXCEPT with the lanes that raised an enabled flag and the flags of the
lowest. -/
def Obligations.FloatIssue : Prop :=
  ∀ (w : Bool) (d a b : Operand) (f : FForm) (t u : FFmt) (k : IFmt) (g : SumForm) (m : MinForm),
    FpGives (.fadd w d a b f) w d f.regs (FpR f d a b (fpAdd f.fmt))
    ∧ FpGives (.fsub w d a b f) w d f.regs (FpR f d a b (fpSub f.fmt))
    ∧ FpGives (.fmul w d a b f) w d f.regs (FpR f d a b (fpMul f.fmt))
    ∧ FpGives (.ffma w d a b f) w d f.regs (FpR f d a b (fpFma f.fmt))
    ∧ FpGives (.ffms w d a b f) w d f.regs (FpR f d a b (fpFms f.fmt))
    ∧ FpGives (.fnma w d a b f) w d f.regs (FpR f d a b (fpNma f.fmt))
    ∧ FpGives (.fmin w d a b f) w d f.regs (FpR f d a b (fpMin f.fmt))
    ∧ FpGives (.fmax w d a b f) w d f.regs (FpR f d a b (fpMax f.fmt))
    ∧ FpGives (.fcmpeq w d a b f) w d f.regs (FpR f d a b (fpCmp f.fmt true eqVals))
    ∧ FpGives (.fcmpne w d a b f) w d f.regs (FpR f d a b (fpCmp f.fmt true fun x y => !eqVals x y))
    ∧ FpGives (.fcmplt w d a b f) w d f.regs (FpR f d a b (fpCmp f.fmt false fun x y => !anyNan x y && ltVals x y))
    ∧ FpGives (.fcmple w d a b f) w d f.regs (FpR f d a b (fpCmp f.fmt false fun x y => !anyNan x y && !ltVals y x))
    ∧ FpGives (.fcmpun w d a b f) w d f.regs (FpR f d a b (fpCmp f.fmt true anyNan))
    ∧ FpGives (.fldexp w d a b f) w d f.regs (FpR f d a b (fpLdexp f.fmt))
    ∧ FpGives (.fneg w d a f) w d f.regs (FpR f d a .zero (fpNeg f.fmt))
    ∧ FpGives (.fabs w d a f) w d f.regs (FpR f d a .zero (fpAbs f.fmt))
    ∧ FpGives (.frcp w d a f) w d f.regs (FpR f d a .zero (fpFunc f.fmt .rcp))
    ∧ FpGives (.frsq w d a f) w d f.regs (FpR f d a .zero (fpFunc f.fmt .rsq))
    ∧ FpGives (.fsqrt w d a f) w d f.regs (FpR f d a .zero (fpFunc f.fmt .sqrt))
    ∧ FpGives (.fexp2 w d a f) w d f.regs (FpR f d a .zero (fpFunc f.fmt .exp2))
    ∧ FpGives (.flog2 w d a f) w d f.regs (FpR f d a .zero (fpFunc f.fmt .log2))
    ∧ FpGives (.fsinpi w d a f) w d f.regs (FpR f d a .zero (fpFunc f.fmt .sinpi))
    ∧ FpGives (.fcospi w d a f) w d f.regs (FpR f d a .zero (fpFunc f.fmt .cospi))
    ∧ FpGives (.frint w d a f) w d f.regs (FpR f d a .zero (fpRint f.fmt))
    ∧ FpGives (.fclass w d a f) w d f.regs (FpR f d a .zero (fpClass f.fmt))
    ∧ FpGives (.cvtFf w d a t u) w d t.regs (fun s l =>
        let r := cvtFF t u (s.me.lane l).rm (s.me.lane l).sat (s.me.readN l u.regs a).toNat
        (BitVec.ofNat 128 r.1, r.2))
    ∧ FpGives (.cvtFi w d a k u) w d k.regs (fun s l =>
        let r := cvtFI k u (s.me.lane l).rm (s.me.readN l u.regs a).toNat
        (BitVec.ofNat 128 (wrapTo (32 * k.regs) r.1), r.2))
    ∧ FpGives (.cvtIf w d a t k) w d t.regs (fun s l =>
        let r := cvtIF t (s.me.lane l).rm (s.me.lane l).sat (IFmtRead k (s.me.readN l k.regs a))
        (BitVec.ofNat 128 r.1, r.2))
    ∧ FpGives (.cvtSr w d a b t) w d 1 (fun s l =>
        let r := stochastic t (s.me.lane l).sat (s.me.read32 l a).toNat ((s.me.read32 l b).toNat % 2 ^ 16)
        (BitVec.ofNat 128 r.1, r.2))
    ∧ (let dot := fun (scaled : Bool) (s : State) (l : Nat) =>
        let r := dotRes t (s.me.lane l).rm (s.me.lane l).sat
          (if scaled then dotScale ((s.me.read64 l d).extractLsb' 32 32) else some 0)
          (s.me.read32 l a).toNat (s.me.read32 l b).toNat (s.me.read32 l d).toNat
        ((BitVec.ofNat 128 r.1, r.2) : FpRes)
      FpGives (.dot2 w d a b t) w d 1 (dot false) ∧ FpGives (.dot4 w d a b t) w d 1 (dot false)
      ∧ FpGives (.dot8 w d a b t) w d 1 (dot false) ∧ FpGives (.dot4x w d a b t) w d 1 (dot true)
      ∧ FpGives (.dot8x w d a b t) w d 1 (dot true))
    ∧ FpGives (.wadd w d a g) w d g.regs (fun s _ => sumLanes g (s.myLanes.map fun j => s.me.readN j g.regs a))
    ∧ FpGives (.wscan w d a g) w d g.regs (fun s l => sumLanes g ((s.myLanes.filter (· ≤ l)).map fun j => s.me.readN j g.regs a))
    ∧ FpGives (.wmin w d a m) w d 1 (fun s _ => extreme m true (s.myLanes.map fun j => (s.me.read32 j a).toNat))
    ∧ FpGives (.wmax w d a m) w d 1 (fun s _ => extreme m false (s.myLanes.map fun j => (s.me.read32 j a).toNat))

/-- R235, R236, R239, R301: FADD, FSUB, FMUL, FFMA, FFMS and FNMA form the exact sum, product or product and sum and round once; the
cases of NaN, of infinities and of exact zeros are those of IEEE 754 with the canonical NaN. -/
def Obligations.FloatSums : Prop :=
  ∀ (g : FForm) (rm : Round) (sat : Bool) (x y z : Nat),
    let f := g.fmt
    SumIs f rm sat (f.value x) (f.value y) (fpAdd f rm sat x y z)
    ∧ SumIs f rm sat (f.value x) (f.value y).negate (fpSub f rm sat x y z)
    ∧ ProductIs f rm sat (f.value x) (f.value y) (fpMul f rm sat x y z)
    ∧ FusedIs f rm sat (f.value x) (f.value y) (f.value z) (fpFma f rm sat x y z)
    ∧ FusedIs f rm sat (f.value x) (f.value y) (f.value z).negate (fpFms f rm sat x y z)
    ∧ FusedIs f rm sat (f.value x).negate (f.value y) (f.value z) (fpNma f rm sat x y z)

/-- R239, R302 to R304: FMIN and FMAX deliver the lesser and the greater operand, -0 below +0, a NaN if either is one; comparisons hold by
the order of the values, and with a NaN only FCMPNE and FCMPUN hold; FNEG and FABS change the sign bit; FCLASS names the class. -/
def Obligations.FloatSelect : Prop :=
  ∀ (g : FForm) (rm : Round) (sat : Bool) (x y z : Nat),
    let f := g.fmt
    let X := f.value x
    let Y := f.value y
    let nan := X.isNan = true ∨ Y.isNan = true
    (nan → fpMin f rm sat x y z = (f.nan, flagIf (X.sig || Y.sig) flagIV) ∧ fpMax f rm sat x y z = (f.nan, flagIf (X.sig || Y.sig) flagIV))
    ∧ (¬ nan → ∃ v w, (v = X ∨ v = Y) ∧ (w = X ∨ w = Y)
        ∧ ¬ X.less v ∧ ¬ Y.less v ∧ ¬ w.less X ∧ ¬ w.less Y
        ∧ (X.isZero = true ∧ Y.isZero = true → v.neg = (X.neg || Y.neg) ∧ w.neg = (X.neg && Y.neg))
        ∧ fpMin f rm sat x y z = f.deliver rm sat v ∧ fpMax f rm sat x y z = f.deliver rm sat w)
    ∧ (let same := ¬ nan ∧ ¬ X.less Y ∧ ¬ Y.less X
      Decides f.width same (fpCmp f true eqVals rm sat x y z).1
      ∧ Decides f.width (¬ same) (fpCmp f true (fun x y => !eqVals x y) rm sat x y z).1
      ∧ Decides f.width (¬ nan ∧ X.less Y) (fpCmp f false (fun x y => !anyNan x y && ltVals x y) rm sat x y z).1
      ∧ Decides f.width (¬ nan ∧ ¬ Y.less X) (fpCmp f false (fun x y => !anyNan x y && !ltVals y x) rm sat x y z).1
      ∧ Decides f.width nan (fpCmp f true anyNan rm sat x y z).1)
    ∧ (∀ quiet c, (fpCmp f quiet c rm sat x y z).2 = flagIf (if quiet then X.sig || Y.sig else X.isNan || Y.isNan) flagIV)
    ∧ (x < 2 ^ f.width →
      (fpNeg f rm sat x y z = if X.isNan then (f.nan, 0) else ((x + 2 ^ (f.width - 1)) % 2 ^ f.width, 0))
      ∧ (fpAbs f rm sat x y z = if X.isNan then (f.nan, 0) else (x % 2 ^ (f.width - 1), 0)))
    ∧ (let c := (fpClass f rm sat x y z).1
      (X = .nan true → c = 1) ∧ (X = .nan false → c = 2) ∧ (X = .inf true → c = 4) ∧ (X = .inf false → c = 512)
      ∧ (X.isZero = true → c = if X.neg then 32 else 64)
      ∧ (X.finite = true → X.isZero = false →
        c = if (2 : ℚ) ^ (1 - (f.bias : Int)) ≤ |X.rat| then (if X.neg then 8 else 256) else (if X.neg then 16 else 128))
      ∧ (fpClass f rm sat x y z).2 = 0)

/-- R242, R301: the special cases of the functions; the reciprocal and the roots of a power of four are exact; FRINT rounds to an integer
in the direction; FLDEXP multiplies by a power of two and rounds once. -/
def Obligations.FloatFunctions : Prop :=
  ∀ (g : FForm) (rm : Round) (sat : Bool) (x y z : Nat),
    let f := g.fmt
    let X := f.value x
    let r := fun h : Func => fpFunc f h rm sat x y z
    (X.isNan = true → ∀ h, r h = (f.nan, flagIf X.sig flagIV))
    ∧ (∀ n, X = .inf n → r .rcp = (f.signBit n, 0) ∧ r .sinpi = (f.nan, flagIV) ∧ r .cospi = (f.nan, flagIV))
    ∧ (X = .inf false → r .rsq = (0, 0) ∧ Infinite f sat false (r .sqrt) ∧ Infinite f sat false (r .exp2) ∧ Infinite f sat false (r .log2))
    ∧ (X = .inf true → r .exp2 = (0, 0) ∧ ∀ h, h = .rsq ∨ h = .sqrt ∨ h = .log2 → r h = (f.nan, flagIV))
    ∧ (X.isZero = true → r .sqrt = (f.signBit X.neg, 0)
      ∧ (∃ q, Infinite f sat X.neg q ∧ r .rcp = (q.1, flagDZ) ∧ r .rsq = (q.1, flagDZ))
      ∧ (∃ q, Infinite f sat true q ∧ r .log2 = (q.1, flagDZ)))
    ∧ (X.finite = true → X.rat < 0 → ∀ h, h = .rsq ∨ h = .sqrt ∨ h = .log2 → r h = (f.nan, flagIV))
    ∧ (X.finite = true → (∃ n : Int, X.rat = n) → r .sinpi = (f.signBit X.neg, 0))
    ∧ (X.finite = true → (∃ n : Int, X.rat = n + 1 / 2) → r .cospi = (0, 0))
    ∧ (∀ n : Int, X.finite = true → X.rat = 4 ^ n →
        Exact f rm sat (1 / 4 ^ n) false (r .rcp) ∧ Exact f rm sat (2 ^ n) false (r .sqrt) ∧ Exact f rm sat (1 / 2 ^ n) false (r .rsq))
    ∧ (X.isNan = true → fpRint f rm sat x y z = (f.nan, flagIf X.sig flagIV))
    ∧ (∀ n, X = .inf n → Infinite f sat n (fpRint f rm sat x y z))
    ∧ (X.finite = true → ∃ (k : Int) (v : FVal), RoundsTo rm X.rat k ∧ v.finite = true ∧ v.rat = k ∧ v.neg = X.neg
        ∧ fpRint f rm sat x y z = ((f.deliver rm sat v).1, (f.deliver rm sat v).2 ||| flagIf (decide (X.rat ≠ k)) flagNX))
    ∧ (X.isNan = true → fpLdexp f rm sat x y z = (f.nan, flagIf X.sig flagIV))
    ∧ (∀ n, X = .inf n → Infinite f sat n (fpLdexp f rm sat x y z))
    ∧ (X.finite = true → Exact f rm sat (X.rat * 2 ^ sgn f.width y) X.neg (fpLdexp f rm sat x y z))

/-- R233, R243 to R245: conversions between formats, to integers and from integers; the cases of NaN and infinity, and one rounding of
every other value. -/
def Obligations.FloatConversions : Prop :=
  ∀ (t u : FFmt) (k : IFmt) (rm : Round) (sat : Bool) (x : Nat) (n : Int),
    let X := u.value x
    (t ≠ .e8m0 → t ≠ .u5m3 →
      (X.isNan = true → cvtFF t u rm sat x = (t.nan, flagIf (X.sig || !t.hasNan) flagIV))
      ∧ (∀ s, X = .inf s → if t.hasInf then Infinite t sat s (cvtFF t u rm sat x) else cvtFF t u rm sat x = (t.signBit s + t.maxCode, flagOF))
      ∧ (X.finite = true → Exact t rm sat X.rat X.neg (cvtFF t u rm sat x)))
    ∧ (X.isNan = true → cvtFF .e8m0 u rm sat x = (0xFF, flagIf X.sig flagIV) ∧ cvtFF .u5m3 u rm sat x = (0xFF, flagIV))
    ∧ (∀ s, X = .inf s → cvtFF .e8m0 u rm sat x = (if sat then (0xFE, flagOF) else (0xFF, flagIV))
        ∧ cvtFF .u5m3 u rm sat x = if s then (0xFF, flagIV) else (0xFE, flagOF))
    ∧ (X.isZero = true → cvtFF .e8m0 u rm sat x = (0, flagNX) ∧ cvtFF .u5m3 u rm sat x = (0, 0))
    ∧ (X.finite = true → X.isZero = false → ∃ E : Int,
        (if rm = .ru then (2 : ℚ) ^ (E - 128) < |X.rat| ∧ |X.rat| ≤ 2 ^ (E - 127) else (2 : ℚ) ^ (E - 127) ≤ |X.rat| ∧ |X.rat| < 2 ^ (E - 126))
        ∧ ((cvtFF .e8m0 u rm sat x).1 : Int) = max 0 (min 254 E)
        ∧ (cvtFF .e8m0 u rm sat x).2 = flagIf (decide (X.rat ≠ 2 ^ (max 0 (min 254 E) - 127))) flagNX ||| flagIf (decide (254 < E)) flagOF)
    ∧ (X.finite = true → X.rat < 0 → cvtFF .u5m3 u rm sat x = (0xFF, flagIV))
    ∧ (X.finite = true → 0 < X.rat → Exact .u5m3 rm true X.rat false (cvtFF .u5m3 u rm sat x))
    ∧ (let lo := (IFmtRange k).1
      let hi := (IFmtRange k).2
      let r := cvtFI k u rm x
      (X.isNan = true → r = (0, flagIV)) ∧ (∀ s, X = .inf s → r = (if s then lo else hi, flagIV))
      ∧ (X.finite = true → ∃ j : Int, RoundsTo rm X.rat j ∧
          r = if j < lo then (lo, flagIV) else if hi < j then (hi, flagIV) else (j, flagIf (decide (X.rat ≠ j)) flagNX)))
    ∧ Exact t rm sat n false (cvtIF t rm sat n)

/-- R235 to R237: the rounding of an exact non-zero number m 2^e. A result that is no overflow is a code of the sign whose value is the
nearest (ties to the even code), or the nearest in the direction; NX says that it differs, UF that it also is tiny; OF is never raised
up to the largest finite value, and always from twice the largest power of two. -/
def Obligations.FloatRounding : Prop :=
  ∀ (f : FFmt) (rm : Round) (sat neg : Bool) (m : Nat) (e : Int), f ≠ .e8m0 → f ≠ .u5m3 → m ≠ 0 →
    let v : ℚ := m * 2 ^ e
    let r := f.roundNum rm sat neg m e
    let most := (f.value f.maxCode).rat
    (v ≤ most → r.2 &&& flagOF = 0)
    ∧ (2 * most ≤ v → r.2 &&& flagOF ≠ 0)
    ∧ (r.2 &&& flagOF ≠ 0 → r = (f.signBit neg + f.overflow rm sat neg, flagOF ||| flagNX))
    ∧ (r.2 &&& flagOF = 0 → ∃ c, r.1 = f.signBit neg + c ∧ c ≤ f.maxCode
      ∧ (∀ c', c' ≤ f.maxCode → match rm, neg with
          | .rne, _ => |(f.value c).rat - v| ≤ |(f.value c').rat - v| ∧ (|(f.value c).rat - v| = |(f.value c').rat - v| → c' ≠ c → c % 2 = 0)
          | .rz, _ | .ru, true | .rd, false => (f.value c).rat ≤ v ∧ ((f.value c').rat ≤ v → (f.value c').rat ≤ (f.value c).rat)
          | .ru, false | .rd, true => v ≤ (f.value c).rat ∧ (v ≤ (f.value c').rat → (f.value c).rat ≤ (f.value c').rat))
      ∧ (r.2 &&& flagNX ≠ 0 ↔ (f.value c).rat ≠ v)
      ∧ (r.2 &&& flagUF ≠ 0 → r.2 &&& flagNX ≠ 0 ∧ v < 2 ^ (1 - (f.bias : Int)))
      ∧ (r.2 &&& flagNX ≠ 0 → v ≤ 2 ^ (1 - (f.bias : Int)) - 2 ^ (-(f.bias : Int) - f.mbits) → r.2 &&& flagUF ≠ 0))

/-! ### Dot products and lane exchange -/

/-- R308 to R310, R313: a dot product of finite elements is the exact sum with one rounding; one whose terms hold both infinities is NaN and
raises IV, whatever else they hold; a scale of 0xFF makes it NaN; IDOT4 is the
exact integer sum, wrapped or clamped; WADD and WSCAN wrap integer sums and round an exact float sum once. -/
def Obligations.DotsAndSums : Prop :=
  (∀ (t : FFmt) (rm : Round) (sat : Bool) (k : Int) (a b c : Nat),
    let el := fun (x i : Nat) => t.value (x / 2 ^ ((dotPlaces t).1 * i))
    let v := (FFmt.f32.value c).rat + 2 ^ k * ((List.range (dotPlaces t).2).map fun i => (el a i).rat * (el b i).rat).sum
    ((FFmt.f32.value c).finite = true → (∀ i, i < (dotPlaces t).2 → (el a i).finite = true ∧ (el b i).finite = true) → v ≠ 0 →
      Exact .f32 rm sat v false (dotRes t rm sat (some k) a b c))
    ∧ (let terms := FFmt.f32.value c :: (List.range (dotPlaces t).2).map fun i => (mulVals (el a i) (el b i)).1
      .inf false ∈ terms → .inf true ∈ terms →
        (dotRes t rm sat (some k) a b c).1 = FFmt.f32.nan ∧ (dotRes t rm sat (some k) a b c).2 &&& flagIV ≠ 0)
    ∧ dotRes t rm sat none a b c = (FFmt.f32.nan, 0))
  ∧ (∀ (w : Bool) (d a b : Operand) (sg : Bool), Gives (.idot4 w d a b sg) w d 1 fun s l r =>
      let el := fun (o : Operand) (i : Nat) => let e := elem ((s.me.read32 l o).setWidth 128) 8 i; if sg then sgn 8 e else (e : Int)
      Holds 32 (s.me.lane l).sat ((s.me.read32 l d).toInt + ((List.range 4).map fun i => el a i * el b i).sum) r.toNat)
  ∧ (∀ (vs : List (BitVec 128)),
      sumLanes .b32 vs = (BitVec.ofNat 128 ((vs.map (·.toNat)).sum % 2 ^ 32), 0)
      ∧ sumLanes .b64 vs = (BitVec.ofNat 128 ((vs.map (·.toNat)).sum % 2 ^ 64), 0)
      ∧ (∀ f t, (f = SumForm.f32 ∧ t = FFmt.f32) ∨ (f = SumForm.f64 ∧ t = FFmt.f64) →
          (∀ v ∈ vs, (t.value v.toNat).finite = true) → ((vs.map fun v => (t.value v.toNat).rat).sum ≠ 0) →
          ∃ r, Exact t .rne false (vs.map fun v => (t.value v.toNat).rat).sum false r ∧ sumLanes f vs = (BitVec.ofNat 128 r.1, r.2)))
  ∧ (∀ (vs : List Nat) (x : Nat), (∀ v ∈ x :: vs, v < 2 ^ 32) →
      (∃ m ∈ x :: vs, extreme .w32 true (x :: vs) = (BitVec.ofNat 128 m, 0) ∧ ∀ v ∈ x :: vs, m ≤ v)
      ∧ (∃ m ∈ x :: vs, extreme .w32 false (x :: vs) = (BitVec.ofNat 128 m, 0) ∧ ∀ v ∈ x :: vs, v ≤ m)
      ∧ (∃ m ∈ x :: vs, extreme .s32 true (x :: vs) = (BitVec.ofNat 128 m, 0) ∧ ∀ v ∈ x :: vs, sgn 32 m ≤ sgn 32 v)
      ∧ (∃ m ∈ x :: vs, extreme .s32 false (x :: vs) = (BitVec.ofNat 128 m, 0) ∧ ∀ v ∈ x :: vs, sgn 32 v ≤ sgn 32 m))

/-- R312, R314: a shuffle gives each lane the word of a source lane of the set, or its own where that lane is not of the set; MATCH gives
the lanes with an equal word, VOTE the lanes with a word other than zero. -/
def Obligations.LaneExchange : Prop :=
  ∀ (w : Bool) (d a b : Operand) (i : BitVec 7),
    (let from_ := fun (src : State → Nat → Nat) (s : State) (l : Nat) (r : BitVec 128) =>
      r = (s.me.read32 (if src s l ∈ s.myLanes then src s l else l) a).setWidth 128
    Gives (.shfl w d a b) w d 1 (from_ fun s l => (s.me.read32 l b).toNat % 64)
    ∧ Gives (.shflup w d a i) w d 1 (from_ fun _ l => if l < i.toNat then l else l - i.toNat)
    ∧ Gives (.shfldn w d a i) w d 1 (from_ fun _ l => if 63 < l + i.toNat then l else l + i.toNat)
    ∧ Gives (.shflx w d a i) w d 1 (from_ fun _ l => l ^^^ i.toNat)
    ∧ Gives (.bcast w d a i) w d 1 (from_ fun _ _ => i.toNat))
    ∧ Gives (.matchEq w d a) w d 2 (fun s l r => ∀ k, k < 128 →
        (r.getLsbD k = true ↔ k ∈ s.myLanes ∧ s.me.read32 k a = s.me.read32 l a))
    ∧ Gives (.vote w d a .any) w d 1 (fun s _ r => r = if ∃ k ∈ s.myLanes, s.me.read32 k a ≠ 0 then 0xFFFFFFFF else 0)
    ∧ Gives (.vote w d a .all) w d 1 (fun s _ r => r = if ∀ k ∈ s.myLanes, s.me.read32 k a ≠ 0 then 0xFFFFFFFF else 0)
    ∧ Gives (.vote w d a .ballot) w d 2 (fun s _ r => ∀ k, k < 128 → (r.getLsbD k = true ↔ k ∈ s.myLanes ∧ s.me.read32 k a ≠ 0))

/-! ### Control transfer and the system instructions -/

/-- R270, R288, R289: a branch goes to its own counter plus four times the signed offset, in the lanes whose test holds, and to the next
instruction in the others; the link forms write the next counter to v118; JMP and JMPL go to the counter held in a pair, RET to the
word within the present 4 GiB. -/
def Obligations.ControlTransfer : Prop :=
  ∀ (s : State) (a d : Operand) (off : BitVec 16),
    let next := s.cur.pc + 4
    let there := s.cur.pc + 4 * off.signExtend 64
    let zero := fun l => s.me.read32 l a == 0
    let goes := fun (i : Instr) (link : Option Operand) (take : Nat → Bool) (pc : Nat → W64) =>
      s.ready i = true → ∃ t, exec i s = .next t ∧ Jumped s t link take pc
    goes (.br off) none (fun _ => true) (fun _ => there)
    ∧ goes (.call off) (some (.v 118)) (fun _ => true) (fun _ => there)
    ∧ goes (.bz a off) none zero (fun l => if zero l then there else next)
    ∧ goes (.bzl a off) (some (.v 118)) zero (fun l => if zero l then there else next)
    ∧ goes (.bnz a off) none (fun l => !zero l) (fun l => if zero l then next else there)
    ∧ goes (.bnzl a off) (some (.v 118)) (fun l => !zero l) (fun l => if zero l then next else there)
    ∧ goes (.jmp a) none (fun _ => true) (fun l => s.me.read64 l a)
    ∧ goes (.jmpl d a) (some d) (fun _ => true) (fun l => s.me.read64 l a)
    ∧ goes (.ret a) none (fun _ => true) (fun l => s.cur.pc.extractLsb' 32 32 ++ s.me.read32 l a)

/-- R77, R91, R280: what follows an instruction's own effect changes nothing but the wave's lanes and chunks and the picker's
accounts; registers keep their words, and the chunk its writes, closing operation and flags; each lane of the set goes on by four unless
the instruction has moved it, its latches kept. -/
def Obligations.IssueEnds : Prop :=
  ∀ (u : State) (i : Instr) (moved : Bool), (u.tenant (u.waveTenant u.cur.wave)).reverse = none →
    let t := u.finish i moved
    Frame u.cur.wave u t ∧ RegsKept u t (fun _ _ => False) ∧ LanesKept u t ∧ ChunkKept u t
    ∧ (t.wave u.cur.wave).lastChunk.flags = u.me.run.flags
    ∧ ∀ l ∈ u.myLanes, l < u.me.lanes.length → let x := (t.wave u.cur.wave).lane l
      x.pc = (if moved then (u.me.lane l).pc else (u.me.lane l).pc + 4) ∧ x.latches = (u.me.lane l).latches
      ∧ x.exited = (u.me.lane l).exited ∧ x.halted = (u.me.lane l).halted ∧ x.pcnt = (u.me.lane l).pcnt ∧ x.age = 0

/-- R260 to R262, R287, R290 to R292: NOP has no effect of its own; PAUSE holds the lanes for n cycles; EXIT ends them; CHUNK ends the
chunk; HINT sets the modifiers of the next instruction, the limit of later chunks (0 for 4,096), a line to fetch ahead, or the wave's
place for n cycles. An IMM gives each lane its sign-extended 24 bits; a second one directly after makes 48 bits of the first and its
own; a third is ILLEGAL_INSTR with detail 0x06. -/
def Obligations.WaveControlAndImm : Prop :=
  (∀ s : State,
      let lanes := fun (u : State) (f : Lane → Lane) => u.modWave s.cur.wave fun w => w.modLanes s.myLanes f
      (s.ready .nop = true → Does .nop false s (s.entered .nop))
      ∧ (∀ n, s.ready (.pause n) = true → Does (.pause n) false s (lanes (s.entered (.pause n)) fun x => { x with pcnt := n.toNat }))
      ∧ (s.ready .exit = true → (s.lastLanes = false ∨ s.myWg.held = 0) →
          Does .exit false s (lanes (s.entered .exit) fun x => { x with exited := true }))
      ∧ (s.ready .exit = true → s.lastLanes = true → s.myWg.held ≠ 0 → ∃ info,
          exec .exit s = .next ((s.entered .exit).trap causeAccLeak 0 s.cur.mask info))
      ∧ (s.ready .chunk = true → ∃ t, exec .chunk s = .next t ∧ Went s t (fun _ => s.cur.pc + 4)
          ∧ (t.wave s.cur.wave).lastChunk.ended = true ∧ (t.wave s.cur.wave).lastChunk.issued = s.me.run.issued + 1)
      ∧ (∀ m sat, s.ready (.hintMod m sat) = true →
          Does (.hintMod m sat) false s (lanes (s.entered (.hintMod m sat)) fun x => { x with rm := m, sat := sat }))
      ∧ (∀ n, s.ready (.hintChunksz n) = true → Does (.hintChunksz n) false s
          ((s.entered (.hintChunksz n)).modWave s.cur.wave fun w => { w with limit := if n = 0 then 4096 else n.toNat }))
      ∧ (∀ n, s.ready (.hintStick n) = true → Does (.hintStick n) false s
          ((s.entered (.hintStick n)).modWave s.cur.wave fun w => { w with stickUntil := s.cycle + n.toNat }))
      ∧ (∀ o, s.ready (.hintIpref o) = true → ∃ u, Does (.hintIpref o) false s u
          ∧ u = { s.entered (.hintIpref o) with cores := u.cores, agenda := u.agenda }
          ∧ (let k := s.cur.wave
            let line := lineVa s.cur.pc + 128 * o.signExtend 64
            let c := s.coreOf k
            let t := s.waveTenant k
            let asks := if fetchWalks s c t line then [Instr.pageWalk (.l1 c, t) line] else []
            if o = 0 ∨ (fetchFault s c t line).isSome then u.cores = s.cores ∧ u.agenda = s.agenda
            else if (∃ f ∈ (s.core c).fills, f.2 = (t, line)) ∨ 2 ≤ ((s.core c).fills.filter (·.1 == k)).length then
              u.cores = s.cores ∧ u.agenda = s.agenda ++ asks
            else (∀ x, u.core x = if x = c then { s.core c with fills := (s.core c).fills ++ [(k, t, line)] } else s.core x)
              ∧ u.agenda = s.agenda ++ asks ++ [.icacheFill c t line])))
  ∧ (∀ (s : State) (p : BitVec 24),
      (s.ready (.imm p) = true → ∃ t, exec (.imm p) s = .next t ∧ Went s t (fun _ => s.cur.pc + 4)
        ∧ ∀ l ∈ s.myLanes, let x := s.me.lane l; let y := (t.wave s.cur.wave).lane l
          (x.immRun = 0 → y.imm = p.signExtend 64 ∧ y.immCount = 1 ∧ y.immRun = 1)
          ∧ (x.immRun = 1 → y.imm = ((x.imm.setWidth 24) ++ p : BitVec 48).signExtend 64 ∧ y.immCount = 2 ∧ y.immRun = 2))
      ∧ (s.setStands = true → s.me.run.ended = false → (∃ l ∈ s.myLanes, 2 ≤ (s.me.lane l).immRun) →
        exec (.imm p) s = .next (s.trap causeIllegal 0x06 s.cur.mask (s.cur.word.setWidth 64))))

/-- R381, R395, R398 to R401: an entry goes to the tail of the wave's queue with the mark, counter, lanes and word it carries; TRAP n
queues SOFTWARE with NEXT = 1 and n; a ninth entry, or a synchronous trap in handler mode, aborts the launch. -/
def Obligations.TrapRaised : Prop :=
  (∀ (s : State) (k : Nat) (e : TrapEntry), let w := s.wave k; let g := s.wg w.wg
    (s.tenant g.tenant).reverse = none → g.cntOpen = false → e.cause.toNat ≠ causePoison →
    (w.handler = false ∨ e.async = true → w.trapQ.length < 8 → let t := s.raise k e
        (t.wave k).trapQ = w.trapQ ++ [e] ∧ t.agenda = s.agenda ++ [.trapDelivery k]
        ∧ (e.async = false → e.next = false → (t.wave k).run.doomed = some .trap)
        ∧ (e.async = true ∨ e.next = true → (t.wave k).run.doomed = w.run.doomed)
        ∧ (∀ j, j ≠ k → t.wave j = s.wave j) ∧ t.mem = s.mem ∧ t.tenants = s.tenants ∧ t.wgs = s.wgs ∧ t.launches = s.launches)
    ∧ (w.handler = true → e.async = false → s.raise k e = s.trapAbort k true e.cause.toNat e.detail.toNat e.fpc)
    ∧ (w.handler = false ∨ e.async = true → 8 ≤ w.trapQ.length → s.raise k e = s.trapAbort k false causeOverflow 0 e.fpc))
  ∧ (∀ (s : State) (n : BitVec 15), s.ready (.trap n) = true → s.me.handler = false → s.me.trapQ.length < 8 →
    ∃ t, exec (.trap n) s = .next t
      ∧ (t.wave s.cur.wave).trapQ = s.me.trapQ ++
        [{ cause := BitVec.ofNat 8 causeSoftware, detail := 0, next := true, async := false, fpc := s.cur.pc, mask := s.cur.mask,
           info := n.setWidth 64 }]
      ∧ Instr.trapDelivery s.cur.wave ∈ t.agenda ∧ ∀ l ∈ s.myLanes, ((t.wave s.cur.wave).lane l).pc = s.cur.pc + 4)

/-- R382, R396, R400: delivery of the head entry discards the running chunk, saves the lanes' state, loads the trap registers with the
entry and each lane's counter, and starts all 64 lanes at %tvec in handler mode; with %tvec zero it aborts the launch; TRET restores
each lane at its own %tpc with its latches invalid, and outside handler mode it is ILLEGAL_INSTR with detail 0x08. -/
def Obligations.TrapTakenAndReturned : Prop :=
  (∀ (s : State) (k : Nat) (e : TrapEntry) (rest : List TrapEntry),
    let w := s.wave k
    let g := s.wg w.wg
    w.live = true → g.saved = false → g.saving = false → g.restoring = false → w.trapQ = e :: rest → w.handler = false → w.com = none →
    w.wait.kind ≠ .far → (w.run.ended = true → e ∉ w.run.raised) → (∃ l ∈ w.lanes, l.exited = false ∧ l.halted = false) →
    ((s.tenant g.tenant).cur.tvec = 0 → exec (.trapDelivery k) s = .next (s.trapAbort k true e.cause.toNat e.detail.toNat e.fpc))
    ∧ ((s.tenant g.tenant).cur.tvec ≠ 0 → ∃ t, exec (.trapDelivery k) s = .next t ∧
        let x := t.wave k
        x.handler = true ∧ x.trapQ = rest ∧ x.tcause = e.word ∧ x.tfpc = e.fpc ∧ x.tmask = e.mask ∧ x.tinfo = e.info
        ∧ (w.run.start.length = w.lanes.length → x.tpc = w.run.start.map (·.pc))
        ∧ (∀ l, l < 64 → (x.lane l).pc = (s.tenant g.tenant).cur.tvec ∧ (x.lane l).exited = false ∧ (x.lane l).pcnt = 0 ∧ (x.lane l).lvalid = 0)
        ∧ x.run.issued = 0 ∧ ∀ j, j ≠ k → t.wave j = s.wave j))
  ∧ (∀ s : State, s.ready .tret = true → s.me.handler = true →
      (s.tenant (s.waveTenant s.cur.wave)).logging = false ∨ (s.tenant (s.waveTenant s.cur.wave)).logMode ≠ 0 →
      s.me.savedLanes.length = 64 → s.me.tpc.length = 64 →
      ∃ t, exec .tret s = .next t ∧
        let x := t.wave s.cur.wave
        x.handler = false ∧ x.limit = s.me.savedLimit ∧ x.run.issued = 0 ∧ x.trapQ = s.me.trapQ
        ∧ (∀ l, l < 64 → let y := s.me.savedLanes.getD l {}
            x.lane l = { y with pc := s.me.tpc.getD l 0, lvalid := 0,
                                halted := y.halted || (s.me.haltPending && s.me.haltMask.getLsbD l) || s.me.run.step.isSome })
        ∧ (s.me.trapQ ≠ [] → Instr.trapDelivery s.cur.wave ∈ t.agenda))
  ∧ (∀ s : State, s.ready .tret = true → s.me.handler = false →
      exec .tret s = .next ((s.entered .tret).trap causeIllegal 0x08 s.cur.mask (s.cur.word.setWidth 64)))

/-- R240, R383 to R385: CSRR gives the register of the tenant, of the wave or of the device to each lane, %tpc its own; the trap frame is
read and written in handler mode alone, and only FPCTL and %tpc are written: else PRIVILEGE with details 2 and 1. -/
def Obligations.ControlRegisters : Prop :=
  (∀ (w : Bool) (d : Operand) (n : Csr),
    GivesIf (fun s => (csrFrame n = true → s.me.handler = true) ∧ (csrLogged n = true → s.inputRoom s.myLanes.length))
      (.csrr w d n) w d 2 fun s l r =>
        let c := (s.tenant (s.waveTenant s.cur.wave)).cur
        let t := s.tenant (s.waveTenant s.cur.wave)
        r = (match n with
          | .ptRoot => c.ptRoot | .rgnBase => c.rgnBase | .rankBase => c.rankBase | .rankCount => c.rankCount
          | .jobRank => c.jobRank | .jobSize => c.jobSize | .jobPrefix => c.jobPrefix | .podCfg => c.podCfg
          | .psetBase => c.psetBase | .psetCount => c.psetCount | .tvec => c.tvec | .scopeCfg => s.scopeCfg
          | .poisonStat => BitVec.ofNat 64 t.poisonStat | .podTime => BitVec.ofNat 64 t.podClock
          | .progcnt i => t.progcnt.getD i.val 0 | .cntStat => s.myWg.cntStat | .fpctl => s.me.fpctl
          | .tcause => s.me.tcause | .tfpc => s.me.tfpc | .tmask => s.me.tmask | .tinfo => s.me.tinfo
          | .tpc => s.me.tpc.getD l 0).setWidth 128)
  ∧ (∀ (s : State) (w : Bool) (d : Operand) (n : Csr), s.ready (.csrr w d n) = true → csrFrame n = true → s.me.handler = false →
      exec (.csrr w d n) s = .next ((s.entered (.csrr w d n)).trap causePrivilege 2 s.cur.mask (n.code.setWidth 64)))
  ∧ (∀ (s : State) (a : Operand) (n : Csr), s.ready (.csrw a n) = true →
      let u := s.entered (.csrw a n)
      let v := s.me.read64 (leading s.cur.mask) a
      (csrFrame n = true → s.me.handler = false → exec (.csrw a n) s = .next (u.trap causePrivilege 2 s.cur.mask (n.code.setWidth 64)))
      ∧ ((csrFrame n = false ∨ s.me.handler = true) → n ≠ .fpctl → n ≠ .tpc →
          exec (.csrw a n) s = .next (u.trap causePrivilege 1 s.cur.mask (n.code.setWidth 64)))
      ∧ (n = .fpctl → v &&& ~~~0x1F1F#64 = 0 → Does (.csrw a n) false s (u.modWave s.cur.wave fun w => { w with fpctl := v }))
      ∧ (n = .fpctl → v &&& ~~~0x1F1F#64 ≠ 0 → exec (.csrw a n) s = .next (u.trap causeReserved 2 s.cur.mask (s.cur.word.setWidth 64)))
      ∧ (n = .tpc → s.me.handler = true → ∃ ps, Does (.csrw a n) false s (u.modWave s.cur.wave fun w => { w with tpc := ps })
          ∧ ∀ l, l < s.me.tpc.length → ps.getD l 0 = if l ∈ s.myLanes then s.me.read64 l a else s.me.tpc.getD l 0))

/-- R378, R380, R392: CLKQ gives nanoseconds since reset, RANKQ the job rank, the job size, the accelerator or the core, STAGEX the word of
the workgroup's stage; STAGEX outside a staged launch traps. -/
def Obligations.Queries : Prop :=
  ∀ (w : Bool) (d : Operand),
    GivesIf (fun s => s.inputRoom s.myLanes.length) (.clkq w d) w d 2 (fun s _ r => r = BitVec.ofNat 128 (s.time / 756 % 2 ^ 64))
    ∧ (let c := fun s : State => (s.tenant (s.waveTenant s.cur.wave)).cur
      Gives (.rankq w d 0) w d 1 (fun s _ r => r = ((c s).jobRank.setWidth 32).setWidth 128)
      ∧ Gives (.rankq w d 1) w d 1 (fun s _ r => r = ((c s).jobSize.setWidth 32).setWidth 128)
      ∧ Gives (.rankq w d 2) w d 1 (fun s _ r => r = BitVec.ofNat 128 (s.accel % 2 ^ 32))
      ∧ GivesIf (fun s => s.inputRoom s.myLanes.length) (.rankq w d 3) w d 1 (fun s _ r => r = BitVec.ofNat 128 (s.coreOf s.cur.wave % 2 ^ 32)))
    ∧ GivesIf (fun s => s.inputRoom s.myLanes.length ∧ s.myStages ≠ []) (.stagex w d) w d 1 (fun s _ r =>
        r = (s.stageWord s.myWg).setWidth 128 ∧ (s.myWg.stage < 256 → (r.extractLsb' 8 8).toNat = s.myWg.stage
        ∧ (r.extractLsb' 16 16).toNat = min (s.stageRes s.myWg.launch s.myWg.stage) 65535))
    ∧ (∀ s : State, s.ready (.stagex w d) = true → s.myStages = [] → exec (.stagex w d) s = .next ((s.entered (.stagex w d)).stageTrap 1))

/-- R37, R386, R389, R390: CNTOPEN opens a containment region with its handler address where none is open, CNTCLOSE closes it; PROGPT adds
the number of active lanes to a progress counter at the commit; TLBINV drops the translations and the walk entries of its address,
or all of the tenant's, in every cache, once no engine command and no packet of the tenant is in work; an address with a tag is
ADDR_TAG. -/
def Obligations.ContainmentAndTranslation : Prop :=
  ∀ (s : State) (a : Operand) (r : Bool) (n : BitVec 4),
    let t := s.waveTenant s.cur.wave
    let v := s.me.read64 (leading s.cur.mask) a
    let idle := (∀ c ∈ s.cmds, c.translates t = false) ∧ ∀ p ∈ s.arrivals, p.tenant ≠ t
    (s.ready (.cntopen a r) = true →
      (s.myWg.cntOpen = true → Does (.cntopen a r) false s (s.entered (.cntopen a r)))
      ∧ (s.myWg.cntOpen = false → (r = false ∨ (s.tenant t).logging = false) →
        Does (.cntopen a r) false s ((s.entered (.cntopen a r)).modWg s.me.wg fun g =>
          { g with cntOpen := true, cntRev := r, cntH := v, cntStat := 0xFFFFFFFF })))
    ∧ (s.ready .cntclose = true → Does .cntclose false s ((s.entered .cntclose).modWg s.me.wg fun g => { g with cntOpen := false }))
    ∧ (s.ready (.progpt n) = true → ∃ t, exec (.progpt n) s = .next t ∧ Went s t (fun _ => s.cur.pc + 4)
        ∧ (t.wave s.cur.wave).lastChunk.prog = s.me.run.prog ++ [(n.toNat, s.myLanes.length)])
    ∧ (s.ready (.tlbinv a) = true →
        ((∃ d, tag00 v = some d ∧ exec (.tlbinv a) s = .next ((s.entered (.tlbinv a)).trap causeAddrTag d s.cur.mask v))
        ∨ (v.extractLsb' 57 7 = 0 ∧ (idle → ∃ u, Does (.tlbinv a) false s u ∧ u = { s.entered (.tlbinv a) with tlb := u.tlb, walkCache := u.walkCache }
            ∧ (∀ e, e ∈ u.tlb ↔ e ∈ s.tlb ∧ (e.tenant ≠ t ∨ v.toNat / e.size ≠ e.va / e.size))
            ∧ ∀ e, e ∈ u.walkCache ↔ e ∈ s.walkCache ∧ (e.tenant ≠ t ∨ v.toNat / 2 ^ (12 + 9 * e.level) ≠ e.unit)))))
    ∧ (s.ready .tlbinvAll = true → idle → ∃ u, Does .tlbinvAll false s u
        ∧ u = { s.entered .tlbinvAll with tlb := u.tlb, walkCache := u.walkCache }
        ∧ (∀ e, e ∈ u.tlb ↔ e ∈ s.tlb ∧ e.tenant ≠ t) ∧ ∀ e, e ∈ u.walkCache ↔ e ∈ s.walkCache ∧ e.tenant ≠ t)

/-! ### Memory -/

/-- R7 to R11, R18, R28, R39, R316: the checks of an address. Tag 0b10 is ADDR_TAG 1; a virtual address with bits [61:57] or a local code
above 3 is ADDR_TAG; a scope too wide for the window is SCOPE; a misaligned access is ALIGNMENT 1 after these; a page without the
permission is PERMISSION 1 or 2; a poisoned page is POISON 1 after that. -/
def Obligations.AddressChecks : Prop :=
  ∀ (s : State) (k l : Nat) (ea : W64) (size : Nat) (sc : Scope) (acc : Acc),
    let r := resolve s k l ea size sc acc
    let t := s.waveTenant k
    let h := TlbHome.l1 (s.coreOf k)
    let tag := ea.extractLsb' 62 2
    (tag = 2 → r = .err ⟨causeAddrTag, 1⟩)
    ∧ (tag = 0 → ea.extractLsb' 57 5 ≠ 0 → r = .err ⟨causeAddrTag, 3⟩)
    ∧ (tag = 0 → ea.extractLsb' 57 5 = 0 →
        (5 ≤ Scope.num sc → r = .err ⟨causeScope, 2⟩)
        ∧ (Scope.num sc < 5 → ea.toNat % size ≠ 0 → r = .err ⟨causeAlignment, 1⟩)
        ∧ (Scope.num sc < 5 → ea.toNat % size = 0 →
            (∀ d, translate s h t ea.toNat = .fail d → r = .err ⟨causeNotPresent, d⟩)
            ∧ (translate s h t ea.toNat = .miss → r = .miss ea.toNat)
            ∧ (∀ e, translate s h t ea.toNat = .hit e → acc ≠ .fetch → 0 < size →
                (acc.reads = true → e.r = false → r = .err ⟨causePermission, 1⟩)
                ∧ ((acc.reads = true → e.r = true) → acc.writes = true → e.w = false → r = .err ⟨causePermission, 2⟩)
                ∧ ((acc.reads = true → e.r = true) → (acc.writes = true → e.w = true) → e.tgt = 0 →
                    r = if e.poison = true ∧ s.poisoned (e.pa + (ea.toNat - e.va)) = true then .err ⟨causePoison, 1⟩
                      else .ok { target := .chip ((List.range size).map fun i => .mem (e.pa + (ea.toNat - e.va) + i)),
                                 far := decide (4 ≤ Scope.num sc), cnt := e.cnt }))))
    ∧ (tag = 1 → 4 ≤ (ea.extractLsb' 56 6).toNat → r = .err ⟨causeAddrTag, 2⟩)
    ∧ (tag = 1 → ea.extractLsb' 56 6 = 0 → (ea.extractLsb' 24 32 ≠ 0 → r = .err ⟨causeAddrTag, 3⟩)
        ∧ (ea.extractLsb' 24 32 = 0 → 4 ≤ Scope.num sc → r = .err ⟨causeScope, 1⟩)
        ∧ (ea.extractLsb' 24 32 = 0 → Scope.num sc < 4 → ea.toNat % size ≠ 0 → r = .err ⟨causeAlignment, 1⟩))
    ∧ (tag = 3 → ea.toNat % size ≠ 0 → r = .err ⟨causeAlignment, 1⟩)
    ∧ (tag = 3 → ea.toNat % size = 0 → (s.tenant t).cur.jobSize.toNat ≤ (ea.extractLsb' 45 17).toNat → r = .err ⟨causeRankRegion, 1⟩)

/-- R11, R36, R417: where lanes fail, the trap carries the cause that comes earliest in the order of the checks, the lanes that failed with
it, and the detail and address of the lowest of them (for the device's own storage its register or bank); nothing is loaded or stored;
of POISON each granule is counted once. -/
def Obligations.AccessFaults : Prop :=
  ∀ (s : State) (w : Bool) (d a : Operand) (sc : Scope) (z : Width) (o : BitVec 3) (r : Order) (rel : Bool) (e : AddrErr),
    let faults := fun (i : Instr) (off : Nat) (acc : Acc) =>
      let xs := s.resolveAll a off z.bytes sc acc
      let hit := fun (y : LaneAcc) => y.err?.any (·.cause == e.cause)
      (acc = .write → (xs.flatMap fun x => x.stashLines s s.cur.wave z.bytes).eraseDups.length ≤ 64) →
      (∀ x ∈ xs, x.miss? = none) → (∃ x ∈ xs, x.err? = some e) → (∀ x ∈ xs, ∀ f, x.err? = some f → e.order ≤ f.order) →
      (∀ x ∈ xs, ∀ f, x.err? = some f → f.order = e.order → f.cause = e.cause) →
      ∃ mask : LaneMask, ∃ x ∈ xs, ∃ f, x.err? = some f ∧ f.cause = e.cause
        ∧ (∀ y ∈ xs, mask.getLsbD y.lane = true ↔ hit y = true) ∧ (∀ y ∈ xs, hit y = true → x.lane ≤ y.lane)
        ∧ (s.ready i = true →
          let u := s.entered i
          let u := if e.cause = causePoison then
              u.consume (s.waveTenant s.cur.wave) ((xs.filter hit).filterMap fun y => granuleOf s s.cur.wave y.lane y.ea).eraseDups.length
            else u
          exec i s = .next (u.trap e.cause f.detail mask
            (if e.cause ≠ causeUncorrected then x.ea
             else if f.detail = 1 then (x.ea.extractLsb' 8 7).setWidth 64 else (x.ea.extractLsb' 11 7).setWidth 64)))
    faults (.ld w d a sc z o) (o.toNat * z.bytes) .read ∧ faults (.ldSigned w d a sc z o) (o.toNat * z.bytes) .read
    ∧ faults (.ldAcq w d a sc z o) (o.toNat * z.bytes) .read
    ∧ faults (.st d a sc z o) (o.toNat * z.bytes) .write ∧ faults (.stRel d a sc z o) (o.toNat * z.bytes) .write
    ∧ faults (.aadd d a sc z r) 0 .atomic ∧ faults (.acas d a sc z r) 0 .atomic ∧ faults (.redAdd d a sc z rel) 0 .red

/-- R80, R82, R93, R103, R319, R321: a load of bytes on the chip gives each lane the little-endian value of its bytes as its chunk reads
them, zero-extended, or sign-extended to 32 bits in the signed form; the lines enter the read signature, those of the private window
apart; memory is unchanged. A byte of device memory reads, within a chunk, as the chunk's latest store to it, and where it has stored
none as committed; through the private window, until an acquire or FENCE at .chip, as it stood before an alias of it was written. -/
def Obligations.LoadsReadOwnStores : Prop :=
  (∀ (s : State) (w : Bool) (d a : Operand) (sc : Scope) (z : Width) (o : BitVec 3) (at_ : Nat → List Loc),
      OnChip s a (o.toNat * z.bytes) z.bytes sc .read at_ →
      let ea := fun l => s.me.read64 l a + BitVec.ofNat 64 (o.toNat * z.bytes)
      let sig := fun (priv : Bool) => sigOf (s.keysOf (((s.myLanes.filter fun l => isPrivate (ea l) == priv).flatMap at_).map Loc.line))
      let gives := fun (i : Instr) (v : Nat → BitVec 128) =>
        s.ready i = true → ∃ t, exec i s = .next t ∧ Wrote (s.recordsOf t) t w d z.regs v ∧ CoresKept s t
          ∧ (t.wave s.cur.wave).lastChunk.flags = s.me.run.flags
          ∧ (t.wave s.cur.wave).lastChunk.rsig = s.me.run.rsig ||| sig false
          ∧ (t.wave s.cur.wave).lastChunk.rpriv = s.me.run.rpriv ||| sig true
      gives (.ld w d a sc z o) (fun l => BitVec.ofNat 128 (s.loaded (ea l) (at_ l)))
      ∧ gives (.ldAcq w d a sc z o) (fun l => BitVec.ofNat 128
          (if sc = .chip then leNat (s.chunkBytes s.cur.wave (at_ l)) else s.loaded (ea l) (at_ l)))
      ∧ gives (.ldSigned w d a sc z o) (fun l => ((BitVec.ofNat (8 * z.bytes) (s.loaded (ea l) (at_ l))).signExtend 32).setWidth 128))
  ∧ (∀ (s : State) (k dpa : Nat),
      ((∀ x ∈ (s.wave k).run.writes, x.at (.mem dpa) = none) → s.chunkByte k (.mem dpa) = s.peek (.mem dpa))
      ∧ (∀ (x : Write) older b, (s.wave k).run.writes = x :: older → x.at (.mem dpa) = some b → s.chunkByte k (.mem dpa) = b)
      ∧ (∀ (x : Write) (a : Nat) (b : Byte), x.loc = .mem a → (x.at (.mem dpa) = some b ↔ a ≤ dpa ∧ x.bytes[dpa - a]? = some b))
      ∧ (Tab.get none (s.wave k).stale dpa = none ∨ (s.wave k).run.view = true → s.privateByte k (.mem dpa) = s.chunkByte k (.mem dpa))
      ∧ (∀ b, Tab.get none (s.wave k).stale dpa = some b → (s.wave k).run.view = false →
          (∀ x ∈ (s.wave k).run.writes, x.at (.mem dpa) = none) → s.privateByte k (.mem dpa) = b))

/-- R22, R50, R77, R80, R82, R320: a store of bytes on the chip that fits in the stash changes no memory: its bytes, the register's low
ones, little-endian, are what the chunk reads there from then on, the highest lane's where lanes name one place; every other place reads
as before. Through the wave's own register window it writes the register. -/
def Obligations.Stores : Prop :=
  ∀ (s : State) (d a : Operand) (sc : Scope) (z : Width) (o : BitVec 3) (at_ : Nat → List Loc),
    OnChip s a (o.toNat * z.bytes) z.bytes sc .write at_ → s.stashRoom at_ →
    let k := s.cur.wave
    let all := s.myLanes.flatMap at_
    (∀ l ∈ s.myLanes, (at_ l).Nodup ∧ ((∀ p ∈ at_ l, ∃ r, p = .reg k r) ∨ ∀ p ∈ at_ l, ∀ r, p ≠ .reg k r)) →
    s.me.run.saved.length + (ownRows k all).length ≤ 32 → (∀ x ∈ s.me.run.writes, ∀ r, x.loc ≠ .reg k r) →
    let stores := fun (i : Instr) =>
      s.ready i = true → ∃ u, Does i false s u ∧ Frame k s u
        ∧ RegsKept s u (fun v l => ∃ r, Loc.reg k r ∈ all ∧ v = r / 256 ∧ l = r % 256 / 4)
        ∧ (∀ l ∈ s.myLanes, ∀ j p, (at_ l)[j]? = some p → (∀ h ∈ s.myLanes, l < h → p ∉ at_ h) →
            u.chunkByte k p = (storeBytes s.me l d z).getD j 0)
        ∧ (∀ p, (∀ l ∈ s.myLanes, p ∉ at_ l) → u.chunkByte k p = s.chunkByte k p)
    stores (.st d a sc z o) ∧ stores (.stRel d a sc z o)

/-- R323, R324: PREF changes nothing that a program reads, whatever it names: it may bring lines into the caches and ask for a copy of a
pod line. FENCE up to .chip makes the commit of its chunk a chip commit, and at .chip ends the view of stale private bytes (R103); a
wider one ends its chunk once no posted or failed access of its scope, and at .fab no counted placement, is left. -/
def Obligations.PrefetchAndFence : Prop :=
  ∀ (s : State) (a : Operand) (sc : Scope) (z : Width) (o : BitVec 3) (at_ : Nat → List Loc),
    (s.ready (.pref a sc z o) = true → ∃ u, Does (.pref a sc z o) false s u ∧ CoresKept s u
      ∧ u = { (s.entered (.pref a sc z o)).recordsOf u with outbox := u.outbox }
      ∧ (OnChip s a (o.toNat * z.bytes) z.bytes sc .read at_ → u.outbox = s.outbox))
    ∧ (s.ready (.fence sc) = true → Scope.num sc ≤ 3 → ∃ t, exec (.fence sc) s = .next t ∧ Went s t (fun _ => s.cur.pc + 4)
        ∧ (t.wave s.cur.wave).lastChunk.fence = true
        ∧ (t.wave s.cur.wave).lastChunk.view = (s.me.run.view || decide (sc = .chip)))
    ∧ (s.ready (.fence sc) = true → 4 ≤ Scope.num sc → s.alone = true → s.logRoom s.cur.wave 1 = true →
        s.postedIn s.cur.wave (Scope.num sc) = [] → s.failedIn s.cur.wave (Scope.num sc) = none →
        (sc = .fab → s.uncounted s.cur.wave = false) →
        ∃ t, exec (.fence sc) s = .next t ∧ (∀ l ∈ s.myLanes, ((t.wave s.cur.wave).lane l).pc = s.cur.pc + 4)
          ∧ (t.wave s.cur.wave).lastChunk.ended = true ∧ (t.wave s.cur.wave).lastChunk.view = true ∧ t.mem = s.mem)

/-- R78, R90, R325 to R329: an atomic or a RED on the chip completes its issue: it closes its chunk with each lane's places and operands,
both halves of the lines in the signatures, memory and registers as they were. The commit of the chunk then acts on what stands in the
scratchpad: the new value, with a result the old one in the destination, nothing else. -/
def Obligations.Atomics : Prop :=
  (∀ (s : State) (d a : Operand) (sc : Scope) (z : Width) (r : Order) (rel : Bool) (at_ : Nat → List Loc),
    let k := s.cur.wave
    let closes := fun (i : Instr) (op : AtomOp) (ret : Bool) =>
      OnChip s a 0 z.bytes sc (if ret then .atomic else .red) at_ → s.ready i = true →
      ∃ t lanes, exec i s = .next t ∧ Frame k { s with invDone := t.invDone } t ∧ RegsKept s t (fun _ _ => False) ∧ LanesKept s t
        ∧ (∀ l ∈ s.myLanes, ((t.wave k).lane l).pc = s.cur.pc + 4)
        ∧ (let c := (t.wave k).lastChunk
          let sig := sigOf (s.keysOf ((s.myLanes.flatMap at_).map Loc.line))
          c.ended = true ∧ c.writes = s.me.run.writes ∧ c.closing = .atomic op z lanes (destOf d) ret
          ∧ c.rsig = s.me.run.rsig ||| sig ∧ c.wsig = s.me.run.wsig ||| sig)
        ∧ lanes.map (fun x => (x.lane, x.locs, x.ea, x.x)) =
            s.myLanes.map (fun l => (l, at_ l, s.me.read64 l a, s.me.readN l z.regs d))
        ∧ (op = .cas → lanes.map (·.y) = s.myLanes.map fun l => s.me.readN l z.regs (operandAfter d z.regs))
    closes (.aadd d a sc z r) .add true ∧ closes (.aaddF d a sc z r) .addF true ∧ closes (.aminS d a sc z r) .minS true
    ∧ closes (.aminW d a sc z r) .minW true ∧ closes (.amaxS d a sc z r) .maxS true ∧ closes (.amaxW d a sc z r) .maxW true
    ∧ closes (.aand d a sc z r) .and true ∧ closes (.aor d a sc z r) .or true ∧ closes (.axor d a sc z r) .xor true
    ∧ closes (.axchg d a sc z r) .xchg true ∧ closes (.acas d a sc z r) .cas true
    ∧ closes (.redAdd d a sc z rel) .add false ∧ closes (.redAddF d a sc z rel) .addF false
    ∧ closes (.redMinS d a sc z rel) .minS false ∧ closes (.redMinW d a sc z rel) .minW false
    ∧ closes (.redMaxS d a sc z rel) .maxS false ∧ closes (.redMaxW d a sc z rel) .maxW false
    ∧ closes (.redAnd d a sc z rel) .and false ∧ closes (.redOr d a sc z rel) .or false ∧ closes (.redXor d a sc z rel) .xor false)
  ∧ (∀ (s : State) (k : Nat) (c : Chunk) (op : AtomOp) (z : Width) (lane g b : Nat) (ea : W64) (x y : BitVec 128) (d : Option VReg) (ret : Bool),
    s.Quiet → s.Commits k c → c.writes = [] → lane < 64 →
    c.closing = .atomic op z [{ lane := lane, locs := (List.range z.bytes).map fun i => .scr g (b + i), ea := ea, x := x, y := y }] d ret →
    let n := 8 * z.bytes
    let old := leNat (s.peekN (.scr g b) z.bytes)
    After (.localCommit k) s fun t => t.mem = s.mem ∧ (t.wave k).com = none
      ∧ (∀ h p, t.peek (.scr h p) = match atomVal op n old (x.toNat % 2 ^ n) (y.toNat % 2 ^ n) with
          | some v => if h = g ∧ b ≤ p ∧ p < b + z.bytes then (leBytes z.bytes v).getD (p - b) 0 else s.peek (.scr h p)
          | none => s.peek (.scr h p))
      ∧ ∀ v : VReg, d = some v → ∀ j, j < z.regs →
          (t.wave k).reg (v.val + j) lane = if ret = true then (BitVec.ofNat 128 old).extractLsb' (32 * j) 32 else (s.wave k).reg (v.val + j) lane)

/-- R252, R325: the new value of a location of n bits: the sum modulo 2^n, the rounded float sum, the lesser or greater, the bitwise
result, the operand, or for compare-and-swap the second operand where the old value equals the first, else nothing. -/
def Obligations.AtomicValues : Prop :=
  ∀ (n old x y : Nat), old < 2 ^ n → x < 2 ^ n → 0 < n →
    atomVal .add n old x y = some ((old + x) % 2 ^ n)
    ∧ (n = 32 → ∃ v, SumIs .f32 .rne false (FFmt.f32.value old) (FFmt.f32.value x) v ∧ atomVal .addF n old x y = some v.1)
    ∧ (n = 64 → ∃ v, SumIs .f64 .rne false (FFmt.f64.value old) (FFmt.f64.value x) v ∧ atomVal .addF n old x y = some v.1)
    ∧ (∃ v, atomVal .minS n old x y = some v ∧ (v = old ∨ v = x) ∧ sgn n v = min (sgn n old) (sgn n x))
    ∧ (∃ v, atomVal .maxS n old x y = some v ∧ (v = old ∨ v = x) ∧ sgn n v = max (sgn n old) (sgn n x))
    ∧ atomVal .minW n old x y = some (min old x) ∧ atomVal .maxW n old x y = some (max old x)
    ∧ (∀ op g, (op = .and ∧ g = (· && ·)) ∨ (op = .or ∧ g = (· || ·)) ∨ (op = .xor ∧ g = (· ^^ ·)) →
        ∃ v, atomVal op n old x y = some v ∧ v < 2 ^ n ∧ ∀ j, v.testBit j = g (old.testBit j) (x.testBit j))
    ∧ atomVal .xchg n old x y = some x ∧ atomVal .cas n old x y = if old = x then some y else none

/-! ### Synchronisation -/

/-- R58 to R62, R331: the fields of a barrier object survive its 16 bytes; an arrival lowers ARRIVE, the last one with no bytes owed
completes the phase, one too many breaks the object; expected bytes hold a phase open; a failure counts what it owed and sets ERR;
the status word names the phase and the four conditions. -/
def Obligations.BarrierObjects : Prop :=
  ∀ (b : Barrier) (n : Int) (p owed : Nat),
    (b.phase < 2 ^ 16 → b.arrive < 2 ^ 20 → b.init < 2 ^ 20 → -2 ^ 40 ≤ b.bytes → b.bytes < 2 ^ 40 → Barrier.ofBytes b.toBytes = b)
    ∧ (b.init ≠ 0 → 1 < b.arrive → barrierChange .arrive b = ({ b with arrive := b.arrive - 1 }, none))
    ∧ (b.init ≠ 0 → b.arrive = 1 → b.bytes = 0 →
        barrierChange .arrive b = ({ b with phase := (b.phase + 1) % 65536, arrive := b.init }, none))
    ∧ (b.init ≠ 0 → b.arrive = 1 → b.bytes ≠ 0 → barrierChange .arrive b = ({ b with arrive := 0 }, none))
    ∧ (b.init ≠ 0 → b.arrive = 0 → barrierChange .arrive b = ({ b with broken := true }, some 1))
    ∧ (b.init = 0 → barrierChange .arrive b = (b, some 4) ∧ barrierChange (.expect n) b = (b, some 4))
    ∧ (b.init ≠ 0 → 0 < b.arrive → barrierChange (.expect n) b = ({ b with bytes := b.bytes + n }, none))
    ∧ (b.init ≠ 0 → b.arrive = 0 → b.bytes + n = 0 →
        barrierChange (.expect n) b = ({ b with bytes := 0, phase := (b.phase + 1) % 65536, arrive := b.init }, none))
    ∧ (barrierChange (.init p) b = ({ broken := false, err := false, phase := 0, arrive := p, init := p, bytes := 0 }, none))
    ∧ (0 < b.arrive → b.fail owed = { b with bytes := b.bytes - owed, err := true })
    ∧ (b.released p = true ↔ (b.init ≠ 0 ∧ b.phase ≠ p) ∨ b.broken = true)
    ∧ (b.phase < 2 ^ 16 → let w := b.status p
        (w.extractLsb' 16 16).toNat = b.phase ∧ w.extractLsb' 4 12 = 0
        ∧ (w.getLsbD 0 = true ↔ b.init ≠ 0 ∧ b.phase ≠ p) ∧ w.getLsbD 1 = b.broken ∧ w.getLsbD 2 = b.err ∧ w.getLsbD 3 = decide (b.init = 0))

/-- R330, R333, R334, R336: BINIT, BARR and BEXP leave their change of the object at the leading lane's address to the commit of the
chunk that they close; BINIT with a count outside 1 to 1,048,575 is BARRIER_BROKEN with detail 0x03; BTEST gives the status word of
the object as its chunk reads it. -/
def Obligations.BarrierInstructions : Prop :=
  ∀ (s : State) (w : Bool) (d a b : Operand) (l : Loc),
    let ea := s.me.read64 (leading s.cur.mask) a
    let y := s.me.read32 (leading s.cur.mask) b
    let closes := fun (i : Instr) (op : BarOp) =>
      ∃ t, exec i s = .next t ∧ Frame s.cur.wave s t ∧ RegsKept s t (fun _ _ => False) ∧ LanesKept s t
        ∧ (∀ j ∈ s.myLanes, ((t.wave s.cur.wave).lane j).pc = s.cur.pc + 4)
        ∧ (let c := (t.wave s.cur.wave).lastChunk
          c.ended = true ∧ c.writes = s.me.run.writes ∧ c.closing = .barrier op l ea s.cur.pc s.cur.mask ∧ c.fence = s.me.run.fence)
    (s.objectFree a true .atomic badBarrier l →
      (s.ready (.binit a b) = true → 1 ≤ y.toNat → y.toNat ≤ 1048575 → closes (.binit a b) (.init y.toNat))
      ∧ (s.ready (.binit a b) = true → y.toNat = 0 ∨ 1048575 < y.toNat →
          exec (.binit a b) s = .next ((s.entered (.binit a b)).trap causeBarrier 3 s.cur.mask ea))
      ∧ (s.ready (.barr a) = true → closes (.barr a) .arrive)
      ∧ (s.ready (.bexp a b) = true → closes (.bexp a b) (.expect y.toInt)))
    ∧ (s.objectFree a true .read badBarrier l → s.ready (.btest w d a b) = true →
        ∃ t, exec (.btest w d a b) s = .next t ∧ CoresKept s t ∧ Wrote (s.recordsOf t) t w d 1 fun _ =>
          ((Barrier.ofBytes (s.chunkBytes s.cur.wave ((List.range 16).map l.add))).status (y.toNat % 65536)).setWidth 128)

/-- R61, R335, R338, R343, R377: BWAIT and CTRWAIT complete at once where the object meets their condition, with the status word or with
nothing, and else wait; a counter with ERR set also traps with NEXT = 1; GSYNC marks the wave's arrival and waits for the group's object
to leave its phase, an arrival that finds the object broken or without a count a trap as well; CTRSET leaves COUNT and the cleared error to the commit; LOGMARK without logging gives 0xFFFF_FFFF, and with it
waits for the window it asks for. -/
def Obligations.WaitInstructions : Prop :=
  ∀ (s : State) (w : Bool) (d a b : Operand) (l : Loc) (n : BitVec 8),
    let k := s.cur.wave
    let ea := s.me.read64 (leading s.cur.mask) a
    let y := s.me.read32 (leading s.cur.mask) b
    let v := s.me.read64 (leading s.cur.mask) b
    let quiet := (s.tenant (s.waveTenant k)).logging = false
    (s.objectFree a true .read badBarrier l → s.ready (.bwait w d a b) = true →
      let o := s.barrierAt l
      (o.released (y.toNat % 65536) = true → ∃ t, exec (.bwait w d a b) s = .next t ∧ Woken s t w d (fun _ => o.status (y.toNat % 65536)) ∧ t.mem = s.mem)
      ∧ (o.released (y.toNat % 65536) = false → ∃ t, exec (.bwait w d a b) s = .next t ∧ Waits s t
          { kind := .bwait, ea := ea, obj := some l, val := BitVec.ofNat 64 (y.toNat % 65536), pc := s.cur.pc, mask := s.cur.mask, w := w, d := d }))
    ∧ (∀ dpa, l = .mem dpa → s.objectFree a false .read badCounter l → s.ready (.ctrwait a b) = true →
      (((s.ld64 dpa - v).toNat < 2 ^ 63) → (s.ld64 (dpa + 8)).getLsbD 63 = false → ∃ t, exec (.ctrwait a b) s = .next t ∧ Woken s t false .zero (fun _ => 0) ∧ t.mem = s.mem)
      ∧ (2 ^ 63 ≤ (s.ld64 dpa - v).toNat → ∃ t, exec (.ctrwait a b) s = .next t ∧ Waits s t
          { kind := .ctrwait, ea := ea, obj := some l, val := v, pc := s.cur.pc, mask := s.cur.mask }))
    ∧ (∀ i v u bad, s.ready (.gsync w d n) = true → s.myWg.groups.idxOf? n.toNat = some i → (s.groupObj s.me.wg i).bind s.waitLine = none →
        v = (s.entered (.gsync w d n)).modWave k (fun w => { w with gArrived := setAt w.gArrived i true }) → bad = v.arrivalFault s.me.wg →
        u = v.makeArrivals s.me.wg →
        let x : Waiting := { kind := .gsync, obj := (u.groupObj s.me.wg i).map .mem, val := BitVec.ofNat 64 (i * 65536 + s.me.gDone.getD i 0 % 65536),
                             pc := s.cur.pc, mask := s.cur.mask, w := w, d := d }
        (bad = none → exec (.gsync w d n) s = .next (u.waitOn (.gsync w d n) x).wakeAll)
        ∧ (∀ m at_, bad = some (m, at_) → exec (.gsync w d n) s =
            .next ((u.waitOn (.gsync w d n) x).wakeAll.trapAsync k s.cur.pc causeBarrier m true s.cur.mask at_))
        ∧ (bad = none → (∀ j, j ≠ k → (u.wave j).wait.kind = .none) → (u.wave k).lanes = s.me.lanes → (∃ dpa, u.groupObj s.me.wg i = some dpa
              ∧ (u.barrierAt (.mem dpa)).released (s.me.gDone.getD i 0 % 65536) = true) → i < 65536 →
            ∃ t, exec (.gsync w d n) s = .next t ∧ Woken s t false .zero (fun _ => 0) ∧ (t.wave k).gDone.getD i 0 = (u.wave k).gDone.getD i 0 + 1))
    ∧ (s.ready (.gsync w d n) = true → s.myWg.groups.idxOf? n.toNat = none →
        exec (.gsync w d n) s = .next ((s.entered (.gsync w d n)).trap causeBarrier 5 s.cur.mask (n.setWidth 64)))
    ∧ (s.objectFree a false .atomic badCounter l → s.ready (.ctrset a b) = true →
        ∃ t, exec (.ctrset a b) s = .next t ∧ Frame k s t ∧ RegsKept s t (fun _ _ => False) ∧ LanesKept s t
          ∧ (∀ j ∈ s.myLanes, ((t.wave k).lane j).pc = s.cur.pc + 4)
          ∧ (t.wave k).lastChunk.ended = true ∧ (t.wave k).lastChunk.writes = s.me.run.writes ∧ (t.wave k).lastChunk.closing = .ctrset l v)
    ∧ (s.ready (.logmark w d) = true →
        (quiet → ∃ t, exec (.logmark w d) s = .next t ∧ Wrote s t w d 1 fun _ => 0xFFFFFFFF)
        ∧ (¬ quiet → ∃ t, exec (.logmark w d) s = .next t ∧ (t.wave k).wait.kind = .logmark ∧ Instr.logWindowOpen (s.waveTenant k) ∈ t.agenda))

/-- R203, R339 to R342: QPUSH leaves the lanes' sixteen words to the commit, one entry for each lane in order while the queue has room,
TAIL raised by each, status 1 where it has none; QPOP takes the entry at HEAD, raises HEAD, and gives status 0, or 1 of an empty queue
and 2 of a closed one; outside its stage each is STAGE_QUEUE. -/
def Obligations.StageQueues : Prop :=
  (∀ (s : State) (w : Bool) (d a b : Operand) (line : Nat), s.ready (.qpush w d a b) = true →
    let n := s.myWg.stage
    let q := s.queueOf n (n + 1 = s.myStages.length) (s.me.read64 (leading s.cur.mask) a)
    (∀ e, q = .error e → exec (.qpush w d a b) s = .next ((s.entered (.qpush w d a b)).stageTrap e))
    ∧ (q = .ok line → s.waitLine line = none → ∃ t, exec (.qpush w d a b) s = .next t ∧ Frame s.cur.wave s t
        ∧ RegsKept s t (fun _ _ => False) ∧ LanesKept s t ∧ (∀ l ∈ s.myLanes, ((t.wave s.cur.wave).lane l).pc = s.cur.pc + 4)
        ∧ (let c := (t.wave s.cur.wave).lastChunk
          c.ended = true ∧ c.writes = s.me.run.writes ∧ c.closing = .qpush line (s.myLanes.map fun l => (l, s.me.group l 16 b)) w d)))
  ∧ (∀ (s : State) (w : Bool) (d a b : Operand) (line : Nat), s.ready (.qpop w d a b) = true →
    let n := s.myWg.stage
    let q := s.queueOf (n - 1) (n = 0) (s.me.read64 (leading s.cur.mask) a)
    (∀ e, q = .error e → exec (.qpop w d a b) s = .next ((s.entered (.qpop w d a b)).stageTrap e))
    ∧ (q = .ok line → s.waitLine line = none → s.logRoom s.cur.wave 2 = true → (∀ j, j ≠ s.cur.wave → (s.wave j).wait.kind = .none) →
        (0 < queueOcc (s.queueAt line) ∨ (s.queueAt line).2.2.1 = true) → ∃ t, exec (.qpop w d a b) s = .next t ∧ Woken s t false .zero (fun _ => 0))
    ∧ (q = .ok line → s.waitLine line = none → (∀ j, j ≠ s.cur.wave → (s.wave j).wait.kind = .none) →
        queueOcc (s.queueAt line) = 0 → (s.queueAt line).2.2.1 = false → ∃ t, exec (.qpop w d a b) s = .next t
        ∧ (t.wave s.cur.wave).wait.kind = .qpop ∧ t.mem = s.mem))
  ∧ (∀ (s : State) (line l : Nat),
    let q := s.queueAt line
    let e := s.entryAt line (q.2.1 % 2 ^ q.2.2.2)
    (0 < queueOcc q → s.popEntries line [l] = ((s.st64 (line + 8) (BitVec.ofNat 64 (q.2.1 + 1))).stampHome line,
        [(l, some ((List.range 16).map fun i => le32 (s.peekN (.mem (e + 4 * i)) 4)), 0)]))
    ∧ (queueOcc q = 0 → s.popEntries line [l] = (s, [(l, none, if q.2.2.1 then 2 else 1)])))
  ∧ (∀ (s : State) (line l : Nat) (ws : List W32),
    let q := s.queueAt line
    (2 ^ q.2.2.2 ≤ queueOcc q → s.pushEntries line [(l, ws)] = (s, [(l, 1)]))
    ∧ (queueOcc q < 2 ^ q.2.2.2 → (s.pushEntries line [(l, ws)]).2 = [(l, 0)]
        ∧ ((s.pushEntries line [(l, ws)]).1).ld64 line = BitVec.ofNat 64 (q.1 + 1)))

/-! ### Engines -/

/-- R346 to R349, R368, R373, R375: an engine command that passes its checks takes the leading lane's operands, closes its chunk, and moves
nothing until the commit; a failed check ends the step in its trap, wait or walk. -/
def Obligations.EngineIssue : Prop :=
  ∀ (s : State) (c a b : VReg) (f : Comp),
    let lead := leading s.cur.mask
    let pair := fun (v : VReg) => s.me.reg (v.val + 1) lead ++ s.me.reg v.val lead
    let issues := fun (i : Instr) (op : CmdOp) (aw : W64) (words : Nat) (at_ : Nat) =>
      s.ready i = true →
      let m := (s.entered i).moveCmd op c aw b words at_ f
      (∀ e, (s.entered i).moveChecks m = .error e → exec i s = .next ((s.entered i).stop e))
      ∧ (∀ m', (s.entered i).moveChecks m = .ok m' → (∀ e, (s.entered i).boardCheck m' = .error e → exec i s = .next ((s.entered i).stop e))
        ∧ ((s.entered i).boardCheck m' = .ok () → ∃ t x, exec i s = .next t ∧ (t.wave s.cur.wave).lastChunk.closing = .engine x
            ∧ (t.wave s.cur.wave).lastChunk.ended = true ∧ x.id = s.nextId ∧ t.nextId = s.nextId + 1 ∧ x.op = op ∧ x.c = pair c ∧ x.a = aw ∧ x.b = (List.range words).map (fun j => s.me.reg (b.val + j) lead) ∧ x.comp = f
            ∧ x.wave = s.cur.wave ∧ x.pc = s.cur.pc ∧ x.mask = s.cur.mask ∧ x.forked = false
            ∧ t.mem = s.mem ∧ t.cmds = s.cmds ∧ RegsKept s t (fun _ _ => False) ∧ LanesKept s t
            ∧ ∀ l ∈ s.myLanes, ((t.wave s.cur.wave).lane l).pc = s.cur.pc + 4))
    issues (.acopy c a b f) .acopy (pair a) 4 2 ∧ issues (.acopySys c a b f) .acopySys (pair a) 4 2
    ∧ issues (.acopyNear c a b f) .acopyNear (pair a) 4 2 ∧ issues (.acopyPod c a b f) .acopyPod (pair a) 4 2
    ∧ issues (.afill c a b f) .afill ((s.me.reg a.val lead).setWidth 64) 4 2 ∧ issues (.acopy2d c a b f) .acopy2d (pair a) 8 4
    ∧ issues (.agath c a b f) .agath (pair a) 8 4 ∧ issues (.ascat c a b f) .ascat (pair a) 8 4
    ∧ issues (.putr c a b f) .putr (pair a) 8 2 ∧ issues (.getr c a b f) .getr (pair a) 8 2 ∧ issues (.atomr c a b f) .atomr (pair a) 8 2

/-- R195 to R200: MACQ and MACQ.pair complete once the wave owns the engine of its core, or both of a pair, and else queue for them; MREL
gives them up, and without one is ENGINE_FAULT 0x02; ABALLOC takes and clears the lowest free run of banks, ABFREE gives banks back;
no run, or banks not held, trap. -/
def Obligations.MatrixOwnership : Prop :=
  ∀ (s : State) (w : Bool) (d : Operand) (n : BitVec 8),
    let k := s.cur.wave
    let c := s.coreOf k
    let g := s.myWg
    let free := fun x => ((s.core x).owner = none ∧ (s.core x).queue = []) ∨ (s.core x).owner = some k
    (s.ready .macq = true →
      (free c →
        ∃ u, Does .macq false s u ∧ (u.core c).owner = some k ∧ u.me.own = max 1 s.me.own ∧ u.mem = s.mem)
      ∧ (∀ j, j ≠ k → (s.core c).owner = some j → ∃ t, exec .macq s = .next t ∧ (t.core c).owner = some j ∧ (t.core c).queue.any (·.1 == k)
          ∧ ∀ l ∈ s.myLanes, ((t.wave k).lane l).pc = s.cur.pc))
    ∧ (s.ready .macqPair = true →
      (g.pair = false → exec .macqPair s = .next ((s.entered .macqPair).engTrap causeEngine 0x04))
      ∧ (g.pair = true → free g.core → free (g.core + 1) → ((s.core (g.core + 1)).owner = some k → (s.core g.core).owner = some k) →
          ∃ u, Does .macqPair false s u ∧ (u.core g.core).owner = some k ∧ (u.core (g.core + 1)).owner = some k ∧ u.me.own = 2 ∧ u.mem = s.mem))
    ∧ (s.ready .mrel = true →
      ((s.core g.core).owner ≠ some k → (s.core (g.core + 1)).owner ≠ some k → exec .mrel s = .next ((s.entered .mrel).engTrap causeEngine 0x02))
      ∧ ((s.core g.core).owner = some k ∨ (s.core (g.core + 1)).owner = some k →
          ∃ u, Does .mrel false s u ∧ (u.wave k).own = 0 ∧ u.mem = s.mem
            ∧ ((s.core g.core).owner = some k → (s.core g.core).queue = [] → (u.core g.core).owner = none)))
    ∧ (s.ready (.aballoc w d n) = true →
      (g.freeRun n.toNat = none → exec (.aballoc w d n) s = .next ((s.entered (.aballoc w d n)).engTrap causeEngine 0x03))
      ∧ (∀ b, g.freeRun n.toNat = some b → (∀ i, i < n.toNat → g.held.getLsbD (b + i) = false) ∧ g.accBase ≤ b
          ∧ ∃ t, exec (.aballoc w d n) s = .next t ∧ (t.wg s.me.wg).held = g.held ||| bankMask b n.toNat
            ∧ (∀ i, i < 2048 * n.toNat → t.peek (.acc g.core (2048 * b + i)) = 0)
            ∧ (∀ i, i < n.toNat → (t.core g.core).badBanks.contains (b + i) = false)
            ∧ (∀ v : VReg, d = .v v → w = true → ∀ l ∈ s.myLanes, (t.wave k).reg v.val l = BitVec.ofNat 32 b)
            ∧ ∀ l ∈ s.myLanes, ((t.wave k).lane l).pc = s.cur.pc + 4))
    ∧ (let b := (s.me.read32 (leading s.cur.mask) d).toNat % 256
      s.ready (.abfree d n) = true →
      (g.holds b n.toNat = false → exec (.abfree d n) s = .next ((s.entered (.abfree d n)).engTrap causePermission 7))
      ∧ (g.holds b n.toNat = true → (∀ e, (∃ x ∈ g.cores, e ∈ s.board x) → e.wg = s.me.wg → ∀ i, i < n.toNat → e.namesBank (b + i) = false) →
          ∃ u, Does (.abfree d n) false s u ∧ (u.wg s.me.wg).held = g.held &&& ~~~(bankMask b n.toNat) ∧ u.mem = s.mem))

/-- R347, R353 to R364: a matrix command that passes its checks takes its words from the leading lane, closes its chunk, and runs on the
engine only after the commit; MDRAIN may name a barrier object in the scratchpad; the types and signs of each form are those of its row. -/
def Obligations.MatrixIssue : Prop :=
  ∀ (s : State) (p : Bool) (c a b : VReg) (f : BitVec 2) (x : Bool) (g : DrainForm),
    let lead := leading s.cur.mask
    let r := fun (v : Nat) => s.me.reg v lead
    let issues := fun (i : Instr) (op : CmdOp) (aw : W64) (bs : List W32) =>
      s.ready i = true →
      let m := (s.entered i).matrixCmd op p c aw bs
      (∀ e, (s.entered i).matrixChecks m = .error e → exec i s = .next ((s.entered i).stop e))
      ∧ (let ea := BitVec.ofNat 64 (windowEa (bits (m.w 1) 23 0))
        let bar := (∃ h, op = .mdrain h) ∧ (m.w 1).getLsbD 31 = false
        let at_ := (s.entered i).objectAt s.cur.wave lead ea true .atomic
        (s.entered i).matrixChecks m = .ok () →
          (bar → ∀ e, at_ = .error e → exec i s = .next ((s.entered i).stop e))
          ∧ ∀ m', (¬ bar ∧ m' = m) ∨ (bar ∧ ∃ o, at_ = .ok o ∧ m' =
                { m with comp := .bar, compAddr := ea, compLoc := some o, compCnt := countedAt (s.entered i) s.cur.wave lead ea }) →
            (∀ e, (s.entered i).boardCheck m' = .error e → exec i s = .next ((s.entered i).stop e))
            ∧ ((s.entered i).boardCheck m' = .ok () → ∃ t y, exec i s = .next t ∧ (t.wave s.cur.wave).lastChunk.closing = .engine y
              ∧ (t.wave s.cur.wave).lastChunk.ended = true ∧ y.id = s.nextId ∧ y.op = op ∧ y.pair = p
              ∧ y.c = (r c.val).setWidth 64 ∧ y.a = aw ∧ y.b = bs ∧ y.sat = (s.me.lane lead).sat ∧ y.forked = false
              ∧ y.comp = m'.comp ∧ y.compLoc = m'.compLoc
              ∧ t.mem = s.mem ∧ t.cmds = s.cmds ∧ (∀ x o, t.peek (.acc x o) = s.peek (.acc x o)) ∧ RegsKept s t (fun _ _ => False)
              ∧ LanesKept s t ∧ ∀ l ∈ s.myLanes, ((t.wave s.cur.wave).lane l).pc = s.cur.pc + 4))
    let ap := r (a.val + 1) ++ r a.val
    let bw := [r b.val, r (b.val + 1)]
    let e8 := fun (h : Bool) => if h then FFmt.e5m2 else .e4m3
    let e6 := fun (h : Bool) => if h then FFmt.e2m3 else .e3m2
    let f0 := f.getLsbD 0
    let f1 := f.getLsbD 1
    (f.toNat < 2 → issues (.mmaF16 p c a b f) (.mmaF (if f = 0 then .f16 else .bf16) (if f = 0 then .f16 else .bf16) false false) ap bw)
    ∧ issues (.mmaFp8 p c a b f) (.mmaF (e8 f1) (e8 f0) false false) ap bw
    ∧ issues (.mmaInt8 p c a b f) (.mmaI (!f1) (!f0)) ap bw
    ∧ issues (.mmaFp8Fp4 p c a b f) (.mmaF (e8 f1) .e2m1 false f0) ap bw
    ∧ (f.toNat < 2 → issues (.mmaFp4 p c a b f) (.mmaF .e2m1 .e2m1 f0 f0) ap bw)
    ∧ issues (.mmaFp6 p c a b f) (.mmaF (e6 f0) (e6 (f0 != f1)) false false) ap bw
    ∧ issues (.mgath p c a b) .mgath ap [r b.val]
    ∧ issues (.mscale p c x) (.mscale x) 0 []
    ∧ issues (.mzero p c) .mzero 0 []
    ∧ issues (.msnap p c a) .msnap ((r a.val).setWidth 64) []
    ∧ issues (.mdrain p c a b g) (.mdrain g) ap bw

/-! ### Launches and bias flips -/

/-- R153, R379, R391: LAUNCH whose checks pass becomes the closing operation of its chunk with its queue, its rank and its record, and moves
nothing until the commit; a failed check ends the step. BIASFLIP of a page that stands in the bias asked for, of host or pool memory, or
in PCIe mode, has no effect; else the flip begins, with the commands that are moving the page's bytes, and the wave waits at the
instruction. -/
def Obligations.LaunchesAndFlips : Prop :=
  (∀ (s : State) (c a b : VReg) (rank : Bool),
    let i : Instr := if rank then .launchRank c a b else .launch c a b
    let l := leading s.cur.mask
    let cw := s.me.read32 l (.v c)
    let r := (s.entered i).launchChecks cw (s.me.read64 l (.v a)) (s.me.read64 l (.v b)) rank
    s.ready i = true →
      (∀ e, r = .error e → exec i s = .next ((s.entered i).stop e))
      ∧ (let t := s.tenant (s.waveTenant s.cur.wave)
        ∀ ls st, r = .ok (ls, st) → (rank = true → s.frozen = false ∧ (t.logging = false ∨ t.logMode ≠ 0 ∨ 1 ≤ t.logFree)) →
          ∃ u, exec i s = .next u ∧ RegsKept s u (fun _ _ => False) ∧ LanesKept s u
            ∧ (rank = false ∨ t.logging = false → Frame s.cur.wave s u)
            ∧ (∀ j ∈ s.myLanes, ((u.wave s.cur.wave).lane j).pc = s.cur.pc + 4)
            ∧ (u.wave s.cur.wave).lastChunk.ended = true
            ∧ (u.wave s.cur.wave).lastChunk.closing =
                .launch (cw.extractLsb' 0 4).toNat (if rank then some (cw.extractLsb' 15 17).toNat else none) ls st))
  ∧ (∀ (s : State) (a : Operand) (host : Bool),
    let i : Instr := if host then .biasflipHost a else .biasflipDev a
    let l := leading s.cur.mask
    let ea := s.me.read64 l a
    s.ready i = true →
      (∀ d, tag00 ea = some d → exec i s = .next ((s.entered i).trap causeAddrTag d s.cur.mask ea))
      ∧ (∀ x far cnt, tag00 ea = none → resolve s s.cur.wave l ea 1 .chip .write = .ok { target := x, far := far, cnt := cnt } →
          (∀ d rest, x ≠ .chip (.mem d :: rest)) → Does i false s (s.entered i))
      ∧ (∀ d rest far cnt, tag00 ea = none →
          resolve s s.cur.wave l ea 1 .chip .write = .ok { target := .chip (.mem d :: rest), far := far, cnt := cnt } →
          (s.cxl = false → Does i false s (s.entered i))
          ∧ (s.cxl = true → (∀ f ∈ s.flips, f.page ≠ d / 4096) →
              (s.hostBias d = host → Does i false s (s.entered i))
              ∧ (s.hostBias d = !host → After i s fun t => t.mem = s.mem ∧ Instr.biasFlipComplete (d / 4096) ∈ t.agenda
                  ∧ (∃ f ∈ t.flips, f.page = d / 4096 ∧ f.toHost = host ∧ f.wave = s.cur.wave ∧ f.movers = s.moversOf (d / 4096))
                  ∧ ∀ j ∈ s.myLanes, ((t.wave s.cur.wave).lane j).pc = s.cur.pc))))

/-! ### Encoding, fetch and step -/

/-- R255 to R269: what some words, written out from their rows, stand for. -/
def Obligations.DecodedWords : Prop :=
  decode 0x0403FFFB = .ok (.bnz (.v 3) 0xFFFB) ∧ decode 0x0600EC00 = .ok (.ret (.v 118)) ∧ decode 0x02800030 = .ok (.call 0x30)
  ∧ decode 0x50A85014 = .ok (.fadd true (.v 40) (.v 40) (.v 5) .f32) ∧ decode 0x6A8610C2 = .ok (.cvtFi true (.v 6) (.v 8) .w32 .f64)
  ∧ decode 0x937810D0 = .ok (.st (.x 0) (.v 8) .chip .b4 0) ∧ decode 0xA2882923 = .ok (.acas (.v 8) (.v 20) .sys .b16 .acqrel)
  ∧ decode 0xB59829F0 = .ok (.bwait true (.v 24) (.v 20) .zero) ∧ decode 0xC0101051 = .ok (.acopy 16 8 20 .bar)
  ∧ decode 0xD51B2049 = .ok (.mmaF16 false 27 16 18 1) ∧ decode 0xE0200C62 = .ok (.putr 32 6 24 .ctr)
  ∧ decode 0x0BAC0125 = .ok (.csrr true (.v 44) .tinfo) ∧ decode 0xFF000002 = .ok (.hintMod .rz false)

/-- R254 to R269: a word stands for an instruction exactly if the instruction is well formed and the word is its encoding: no field is
dropped, no reserved bit is passed over, no two words name one instruction. -/
def Obligations.DecodeAndEncode : Prop :=
  ∀ (i : Instr) (w : W32), decode w = .ok i ↔ i.wf = true ∧ encode i = some w

/-- R175, R220, R289: a step runs the instruction that the word of the chosen set decodes to, once the checks of its fetch pass; a set that stands no more is passed over; with no
set chosen, the next event due runs, and with none due a picker takes a cycle. Every step has a next state. The order of the
model's steps is its own (log entry 4). -/
def Obligations.StepRunsDecoded : Prop :=
  ∀ s : State,
    (∀ x rest w i, s.issue = x :: rest → 0 < s.ports → (s.take x rest 0).setStands = true →
        fetchFault s (s.coreOf x.wave) (s.waveTenant x.wave) x.pc = none → fetchWalks s (s.coreOf x.wave) (s.waveTenant x.wave) x.pc = false →
        (s.core (s.coreOf x.wave)).word? (s.waveTenant x.wave) x.pc = some w → decode w = .ok i → step s = exec i (s.take x rest w))
    ∧ (∀ x rest, s.issue = x :: rest → (s.ports = 0 ∨ (s.take x rest 0).setStands = false) → step s = .next (s.take x rest 0))
    ∧ (∀ i rest, s.issue = [] → s.agenda = i :: rest → step s = exec i { s with agenda := rest })
    ∧ (s.issue = [] → s.agenda = [] → step s = exec (.pickerCycle s.pick) s)
    ∧ Runs s

/-- R7, R9, R11, R18, R38, R39, R178, R264, R266, R289: every fetch is checked, its line held or not: a tag, reserved address bits, a
misaligned counter, no translation, a page not executable, a poisoned granule, each with its cause. A walk or a fill is waited for. A
word that decodes to nothing raises the cause and detail of its first failing check, with the word in %tinfo; the codes 0x00 and 0xF0
to 0xFD are unassigned. A wave whose chunk has ended waits for its commit first. -/
def Obligations.FetchTraps : Prop :=
  (∀ w : W32, (w.extractLsb' 24 8 = 0 ∨ 0xF0 ≤ (w.extractLsb' 24 8).toNat ∧ (w.extractLsb' 24 8).toNat ≤ 0xFD) → decode w = .error .unassigned)
  ∧ ∀ (s : State) (x : Slot) (rest : List Slot),
    s.issue = x :: rest → 0 < s.ports → (s.take x rest 0).setStands = true →
    let c := s.coreOf x.wave
    let ten := s.waveTenant x.wave
    let t := s.take x rest 0
    let traps := fun (u : State) (cause detail : Nat) (info : W64) =>
      step s = .next (if (s.wave x.wave).run.ended then u.hold .commit else u.trap cause detail x.mask info)
    let good := x.pc.extractLsb' 57 7 = 0 ∧ x.pc.extractLsb' 0 2 = 0
    let tr := translate s (.l1 c) ten x.pc.toNat
    (x.pc.extractLsb' 62 2 ≠ 0 → traps t causeAddrTag 4 x.pc)
    ∧ (x.pc.extractLsb' 62 2 = 0 → x.pc.extractLsb' 57 5 ≠ 0 → traps t causeAddrTag 3 x.pc)
    ∧ (x.pc.extractLsb' 57 7 = 0 → x.pc.extractLsb' 0 2 ≠ 0 → traps t causeAlignment 2 x.pc)
    ∧ (good → (∀ d, tr = .fail d → traps t causeNotPresent d x.pc)
      ∧ (tr = .miss → step s = .next ((t.fetchWalk x).hold .localmem))
      ∧ ∀ e, tr = .hit e →
        let poison := e.tgt.toNat < 2 ∧ e.poison = true ∧ s.poisoned ((if e.tgt = 0 then 0 else tierBase) + e.pa + (x.pc.toNat - e.va)) = true
        (e.x = false → traps t causePermission 3 x.pc)
        ∧ (e.x = true → poison → (s.wave x.wave).run.ended = false →
            step s = .next ((t.consume ten 1).trap causePoison 2 x.mask x.pc))
        ∧ (e.x = true → ¬ poison → (s.core c).word? ten x.pc = none → step s = .next (t.hold .fetch))
        ∧ (e.x = true → ¬ poison → ∀ w err, (s.core c).word? ten x.pc = some w → decode w = .error err →
            traps (s.take x rest w) (if err = .reserved then 2 else 1)
              (match err with | .unassigned => 1 | .reserved => 1 | .undefined => 2 | .badCode => 3 | .misaligned => 5) (w.setWidth 64)))

/-! ### Reset and memory -/

/-- R36, R113, R384, R485 to R487, R491: what the device is after power good: no core assigned, no tenant loaded, logging and tracing off,
operating point 0, no clock lock, time zero, the power cap of the record where it is valid, one identity, POD_CFG and JOB_SIZE at their reset
values; nothing listed in memory but the scope table; in recovery mode without a valid record. That no byte is listed,
and values the rules do not give, are the model's choice (log entries 2 and 3). -/
def Obligations.ResetState : Prop :=
  (Memory.wf State.reset.mem = true ∧ State.reset.mem = [] ∧ State.reset.time = 0 ∧ State.reset.point = 0 ∧ State.reset.clockLock = none)
  ∧ ∀ (s : State) (d : Discovery), After (.powerGoodReset d) s fun t =>
    Memory.wf t.mem = true ∧ t.waves = [] ∧ t.wgs = [] ∧ t.launches = [] ∧ t.cmds = []
    ∧ (∀ c, (t.core c).assigned = false) ∧ t.clockLock = none ∧ t.point = 0 ∧ t.time = 0
    ∧ t.errBase = 0 ∧ t.poisonBase = 0 ∧ t.biasBase = 0 ∧ t.accessBase = 0 ∧ t.clkPermit = 0
    ∧ (∀ n, (t.tenant n).loaded = false ∧ (t.tenant n).traceCtl = 0 ∧ (t.tenant n).logCtl = 0 ∧ (t.tenant n).cur.podCfg = 0x3F00000000
        ∧ (t.tenant n).cur.jobSize = 1)
    ∧ t.recovery = !d.valid
    ∧ (d.valid = true → 600 ≤ d.pcap → d.pcap ≤ 2200 → t.powerCap.toNat = d.pcap)
    ∧ (d.valid = true → d.pcap < 600 ∨ 2200 < d.pcap → t.powerCap = 2200)

/-- The canonical form of memory (log entry 3): every step keeps it. -/
def Obligations.MemoryStaysCanonical : Prop :=
  ∀ s t : State, Memory.wf s.mem = true → step s = .next t → Memory.wf t.mem = true

/-! ### Commits -/

/-- R59, R86 to R92, R105, R240, R326, R334, R376, R389: a local commit stores the latest bytes of its chunk, adds its flags to the sticky
ones and its progress points; a chip commit takes the next timestamp and sends each write to its home, which stores it; a commit waits
while a line that it writes is on its way; an atomic acts at its home on what stands there then, and its old value goes to the
destination, a barrier change and CTRSET likewise on their objects; an engine command forks; the reservation goes to the wave that has
waited longest. Timestamps without gaps are the model's choice (log entry 4). -/
def Obligations.Commits : Prop :=
  (∀ (s : State) (k : Nat) (c : Chunk), s.Quiet → s.Commits k c → c.closing = .none → After (.localCommit k) s fun t =>
    (∀ a, t.peek (.mem a) = (c.writes.findSome? (·.at (.mem a))).getD (s.peek (.mem a)))
    ∧ (t.wave k).com = none ∧ (t.wave k).squashes = 0 ∧ (t.wave k).fpctl = fpSticky (s.wave k).fpctl c.flags
    ∧ (t.tenant (s.waveTenant k)).progcnt = c.prog.foldl (fun ps p => ps.modify p.1 (· + BitVec.ofNat 64 p.2)) (s.tenant (s.waveTenant k)).progcnt)
  ∧ (∀ (s : State) (k : Nat) (c : Chunk), s.Quiet → s.Commits k c → c.closing = .none → c.writes ≠ [] →
    After (.chipCommit k) s fun t => t.mem = s.mem ∧ t.lastTs = s.lastTs + 1 ∧ ((t.wave k).com.bind (·.ts)) = some (s.lastTs + 1)
      ∧ ∀ x ∈ c.writes, ∃ p ∈ t.packets, p.home = s.homeOf x.loc ∧ p.wave = k ∧ p.ts = s.lastTs + 1 ∧ x ∈ p.writes
          ∧ Instr.lineApplied p.home ∈ t.agenda)
  ∧ (∀ (s : State) (k : Nat) (c : Chunk), (s.wave k).com = some c → c.lines.any s.pendingLine = true →
      exec (.localCommit k) s = .next s ∧ exec (.chipCommit k) s = .next s)
  ∧ (∀ (s : State) (k : Nat) (c : Chunk) (cmd : Cmd), s.Quiet → s.Commits k c → c.writes = [] → c.closing = .engine cmd →
    (cmd.op.isMatrix = true ∨ cmd.left ≠ []) → After (.chipCommit k) s fun t => t.mem = s.mem ∧ (t.wave k).com = none
      ∧ (∃ x ∈ t.cmds, x.id = cmd.id ∧ x.op = cmd.op ∧ x.c = cmd.c ∧ x.a = cmd.a ∧ x.b = cmd.b ∧ x.left = cmd.left ∧ x.forked = true)
      ∧ (cmd.op.isMatrix = true → Instr.matrixCommandDone cmd.id ∈ t.agenda))
  ∧ (∀ (s : State) (h : Nat) (p : OpPacket), s.Quiet → s.packets.find? (·.home == h) = some p →
    (s.wave p.wave).lanes.all (·.exited) = false → (∀ c, (s.wave p.wave).com = some c → c.step = none) →
    (s.tenant (s.waveTenant p.wave)).reverse = none → (s.wave p.wave).trapQ = [] →
    (p.closing = .none → After (.lineApplied h) s fun t => t.packets = s.packets.erase p
      ∧ ∀ a, t.peek (.mem a) = (p.writes.reverse.findSome? (·.at (.mem a))).getD (s.peek (.mem a)))
    ∧ (p.writes = [] → ∀ op b ea pc mask, p.closing = .barrier op (.mem b) ea pc mask →
        let r := barrierChange op (s.barrierAt (.mem b))
        r.2 = none → After (.lineApplied h) s fun t => Placed s t b r.1.toBytes)
    ∧ (p.writes = [] → ∀ b v, p.closing = .ctrset (.mem b) v → After (.lineApplied h) s fun t =>
        t.ld64 b = v ∧ t.ld64 (b + 8) = s.ld64 (b + 8) &&& ~~~(1#64 <<< 63 ||| 0x00FFFF0000000000#64)
        ∧ ∀ x, x < b ∨ b + 16 ≤ x → t.peek (.mem x) = s.peek (.mem x))
    ∧ (∀ op w lane b ea x y d, lane < 64 → p.writes = [] →
        p.closing = .atomic op w [{ lane := lane, locs := (List.range w.bytes).map fun i => .mem (b + i), ea := ea, x := x, y := y }] (some d) true →
        let old := leNat (s.peekN (.mem b) w.bytes)
        let n := 8 * w.bytes
        After (.lineApplied h) s fun t =>
          (match atomVal op n old (x.toNat % 2 ^ n) (y.toNat % 2 ^ n) with
            | some v => Placed s t b (leBytes w.bytes v)
            | none => t.mem = s.mem)
          ∧ ∀ j, j < w.regs → (t.wave p.wave).reg (d.val + j) lane = (BitVec.ofNat 128 old).extractLsb' (32 * j) 32))
  ∧ (∀ (s : State) (k : Nat) (rest : List Nat), s.resHolder = none → s.resQueue = k :: rest →
      exec .reservationGrant s = .next { s with resHolder := some k, resQueue := rest })

/-! ### The picker, fetch and translation -/

/-- R174, R175, R179, R180, R220, R392, R490: the last cycle of a pause ends it, an age of 4,095 promotes a lane; the cycle of a core without a
tenant passes without a set, that of another opens two ports and offers sets of voting lanes at their counter alone; the 256th core ends
the device's cycle and moves the time on by the period of the operating point. The order of cores is
the model's own (log entry 5). -/
def Obligations.PickerAndLanes : Prop :=
  ∀ (s : State) (k l c : Nat),
    (((s.wave k).lane l).pcnt ≤ 1 → After (.pauseExpire k l) s fun t => (t.wave k).lane l = { (s.wave k).lane l with pcnt := 0 } ∧ t.mem = s.mem)
    ∧ (1 < ((s.wave k).lane l).pcnt → After (.pauseExpire k l) s fun t => (t.wave k).lane l = (s.wave k).lane l)
    ∧ (l < (s.wave k).lanes.length → 4095 ≤ ((s.wave k).lane l).age →
        After (.lanePromotion k l) s fun t => (t.wave k).lane l = { (s.wave k).lane l with age := 4096 } ∧ t.mem = s.mem)
    ∧ (s.cycleOf = none → c < 255 → (c = 0 → ∀ p ∈ s.wgs, p.2.unwindDue = none) → (s.core c).assigned = false →
        exec (.pickerCycle c) s = .next { s with pick := c + 1 })
    ∧ (s.cycleOf = none → c < 255 → (c = 0 → ∀ p ∈ s.wgs, p.2.unwindDue = none) → (s.core c).assigned = true →
        (∀ p ∈ s.tenants, p.2.reverse = none) → After (.pickerCycle c) s fun t =>
        t.ports = 2 ∧ t.cycleOf = some c ∧ t.pick = c + 1
        ∧ ∀ x ∈ t.issue, ∀ j, x.mask.getLsbD j = true → ((s.wave x.wave).lane j).votes = true ∧ ((s.wave x.wave).lane j).pc = x.pc)
    ∧ (s.cycleOf.isSome = true → s.switched = none → s.holdPorts.2 = true → exec (.pickerCycle c) s = .next s.holdPorts.1)
    ∧ (s.cycleOf = none ∨ s.switched.isSome = true ∨ s.holdPorts.2 = false → After (.pickerCycle 255) s fun t =>
        t.pick = 0 ∧ t.cycle = s.cycle + 1 ∧ t.time = s.time + [280, 252, 240, 315, 378, 630].getD s.point 280)

/-- R15, R37, R38, R43, R66, R178: a walk that succeeds puts its translation into the caches; a line fill takes the 32 words of a line as
memory holds them; the counts gathered for a granule are added to its access record. -/
def Obligations.WalksAndFills : Prop :=
  ∀ (s : State) (home : TlbHome) (ten : Nat) (va line : W64) (core : Nat),
    (tlbFind s home ten va.toNat = none →
      (∀ e, (tlbNext home).bind (tlbFind s · ten va.toNat) = some e →
        exec (.pageWalk (home, ten) va) s = .next (s.holdTlb { e with home := home }))
      ∧ ((tlbNext home).bind (tlbFind s · ten va.toNat) = none →
        (∀ e, walk s (tlbHalf home) ten va.toNat = .ok e → After (.pageWalk (home, ten) va) s fun t => t.mem = s.mem
          ∧ ∀ h ∈ home :: (tlbNext home).toList, tlbFind t h ten va.toNat = some { e with home := h })
        ∧ ∀ d, walk s (tlbHalf home) ten va.toNat = .error d → exec (.pageWalk (home, ten) va) s = .next s))
    ∧ (∀ e, (s.tlb.filter (·.home == home)).length ≤ tlbSize home →
        ((s.holdTlb e).tlb.filter (·.home == home)).length ≤ tlbSize home ∧ e ∈ (s.holdTlb e).tlb)
    ∧ (∀ e j, line.toNat % 128 = 0 → tlbFind s (.l1 core) ten line.toNat = some e → pageCheck s e line.toNat 4 .fetch = none → j < 32 →
        After (.icacheFill core ten line) s fun t =>
          t.mem = s.mem ∧ (t.core core).fills = (s.core core).fills.filter (fun f => f.2 != (ten, line))
          ∧ ((t.core core).word? ten (line + BitVec.ofNat 64 (4 * j))).isSome = true
          ∧ (e.tgt.toNat < 2 → (t.core core).word? ten (line + BitVec.ofNat 64 (4 * j)) =
              some (le32 (Tab.bytes s.mem ((if e.tgt = 0 then 0 else tierBase) + e.pa + (line.toNat - e.va) + 4 * j) 4))))
    ∧ (∀ n r w f, s.Quiet → s.counts = [(n, r, w, f)] →
        let a := s.accessBase.toNat + 8 * n
        let old := s.ld64 a
        After .accessCountUpdate s fun t => t.counts = []
          ∧ Placed s t a (bytes64 (BitVec.ofNat 64 (min (2 ^ 24 - 1) ((old.extractLsb' 40 24).toNat + r) * 2 ^ 40
              + min (2 ^ 24 - 1) ((old.extractLsb' 16 24).toNat + w) * 2 ^ 16 + min (2 ^ 16 - 1) ((old.extractLsb' 0 16).toNat + f)))))

/-! ### Engines at work -/

/-- R51, R106, R208, R349, R350, R368: a running copy whose source and destination bytes stand ready on the chip places a part: the destination
holds what the source held, and the part is done. A command with nothing left ends; one that fails is dropped, its completion counter
counts what it owed and takes its error, and the launch's fault cell its cause, detail, workgroup and address. -/
def Obligations.CopyEvents : Prop :=
  (∀ (s : State) (c : Cmd) (k src dst : Nat), s.Quiet → s.cmd? c.id = some c → c.op = .acopy → c.forked = true → c.comp = .none →
    k ∈ c.left → k ∉ c.waiting → c.buf = [] → s.pausedAt c k = false →
    let p := c.part k
    let n := p.2.2 - p.2.1
    let from_ := c.srcRow p.1 + BitVec.ofNat 64 p.2.1
    let at_ := c.dstRow p.1 + BitVec.ofNat 64 p.2.1
    let run := fun (a : Nat) => (List.range n).map fun i => FarTarget.chip [.mem (a + i)]
    s.engTargets c from_ n .chip .read = .ok (run src) → s.engTargets c at_ n .chip .write = .ok (run dst) →
    s.chipReady c false from_ (run src) = .ok () → s.chipReady c true at_ (run dst) = .ok () → 0 < n →
    After (.engineLinePlace c.id k) s fun t => Placed s t dst (s.peekN (.mem src) n)
      ∧ (∀ d, t.cmd? c.id = some d → d.left = c.left.erase k)
      ∧ (c.left = [k] → c.owed = 0 → Instr.engineCommandComplete c.id ∈ t.agenda))
  ∧ (∀ (s : State) (c : Cmd), s.Quiet → s.cmd? c.id = some c → c.op.isMatrix = false → c.left = [] → c.owed = 0 → c.comp = .none →
    After (.engineCommandComplete c.id) s fun t => t.cmds = s.cmds.filter (fun d => d.id != c.id) ∧ t.mem = s.mem
      ∧ Instr.workgroupRetire c.wg ∈ t.agenda)
  ∧ (∀ (s : State) (c : Cmd) (a cause detail : Nat) (addr : W64), s.Quiet → s.cmd? c.id = some c → c.op.isMatrix = false →
    (s.wg c.wg).cntOpen = false → cause < 256 → detail < 256 → s.homeWait (.mem a) = none → s.homeSteps = [] →
    (c.comp = .none → s.doneAt c.launch = some a → (s.ld64 (a + 16)).getLsbD 63 = false →
      After (.engineCommandFail c.id cause detail addr) s fun t => t.cmds = s.cmds.filter (fun d => d.id != c.id) ∧ t.ld64 (a + 24) = addr
        ∧ (t.ld64 (a + 16)).getLsbD 63 = true ∧ ((t.ld64 (a + 16)).extractLsb' 48 8).toNat = cause
        ∧ ((t.ld64 (a + 16)).extractLsb' 40 8).toNat = detail ∧ ((t.ld64 (a + 16)).extractLsb' 0 32).toNat = (s.wg c.wg).index % 2 ^ 32)
    ∧ (c.comp = .ctr → c.compLoc = some (.mem a) →
      let ten := s.tenant (s.launch c.launch).tenant
      ten.owns 0 ten.cur.ptRoot.toNat 2097152 = false →
      let m := s.ld64 (a + 8)
      After (.engineCommandFail c.id cause detail addr) s fun t => t.cmds = s.cmds.filter (fun d => d.id != c.id)
        ∧ t.ld64 a = s.ld64 a + BitVec.ofNat 64 (if m.getLsbD 62 then 1 else c.length - c.placed) ∧ (t.ld64 (a + 8)).getLsbD 63 = true
        ∧ (m.getLsbD 63 = false → ((t.ld64 (a + 8)).extractLsb' 48 8).toNat = (if cause = causeFabricFail then 0x0B else 0x0A))))

/-- R248, R250, R354, R357, R360 to R364, R366: at the head of its engines, MZERO clears its banks, MSNAP copies banks, MSCALE sets a tile
scale, MGATH fills the latch; an integer MMA adds to each of the 4,096 elements of its tile the products of its row and column, 32 in each
k-group, modulo 2^32 or clamped, and one of .f16 or .bf16 the exact sum of the products rounded once; MDRAIN stores the words of its tile
row by row; a fault holds the command, and traps at its wave with ASYNC = 1. -/
def Obligations.MatrixEvents : Prop :=
  ∀ (s : State) (c : Cmd), s.Quiet → s.cmd? c.id = some c → c.op.isMatrix = true → c.held = false → s.heads c = true → c.load = [] →
    c.comp = .none →
    let b := (c.c.extractLsb' 0 8).toNat
    let n := (c.c.extractLsb' 8 8).toNat + 1
    let word := fun (t : State) (x i : Nat) => leNat (t.peekN (.acc x (2048 * b + 4 * i)) 4)
    (∀ a stride, c.op = .mdrain .replace → c.readWaits s = false → c.readFault s = none → c.pair = false → 256 ≤ stride →
      s.drainPlaces c .replace = .ok ((List.range 64).map fun r => (c.dstRow r, (List.range 256).map fun j => .mem (a + stride * r + j))) →
      After (.matrixCommandDone c.id) s fun t => t.cmds = s.cmds.filter (fun d => d.id != c.id)
        ∧ (∀ r j, r < 64 → j < 64 → leNat (t.peekN (.mem (a + stride * r + 4 * j)) 4) =
            let x := word s c.core (64 * r + j)
            if (c.w 0).getLsbD 20 = false ∧ c.sat = true ∧ x % 2 ^ 31 = 0x7F800000 then x - 1 else x)
        ∧ ∀ y, (∀ r, r < 64 → ¬ (a + stride * r ≤ y ∧ y < a + stride * r + 256)) → t.peek (.mem y) = s.peek (.mem y))
    ∧ (c.readWaits s = false → c.readFault s = none → (∀ x ∈ c.cores, c.latchShort (s.core x).eng = false) → (∀ f, c.op ≠ .mdrain f) →
      After (.matrixCommandDone c.id) s fun t => t.mem = s.mem ∧ t.cmds = s.cmds.filter (fun d => d.id != c.id)
        ∧ ∀ x ∈ c.cores,
          (c.op = .mzero → ∀ i, i < 2048 * n → t.peek (.acc x (2048 * b + i)) = 0)
          ∧ (c.op = .msnap → ∀ i, i < 2048 * n →
              t.peek (.acc x (2048 * b + i)) = s.peek (.acc x (2048 * (c.a.extractLsb' 0 8).toNat + i)))
          ∧ (∀ h, c.op = .mscale h → (t.core x).eng =
              if h then { (s.core x).eng with tb := c.c.setWidth 32 } else { (s.core x).eng with ta := c.c.setWidth 32 })
          ∧ (c.op = .mgath → (t.core x).eng.valid = true ∧ (t.core x).eng.rbu = (((c.b.getD 0 0).extractLsb' 0 6).toNat)
              ∧ (t.core x).eng.ta = (s.core x).eng.ta ∧ (t.core x).eng.tb = (s.core x).eng.tb)
          ∧ (∀ sa sb i j, c.op = .mmaI sa sb → n = 1 → i < 64 → j < 64 →
              let at_ := fun (isB sg : Bool) (r k : Nat) =>
                let v := c.rowAt s (s.core x).eng x isB 0 r / 2 ^ (8 * k) % 256
                if sg then sgn 8 v else (v : Int)
              Holds 32 c.sat (sgn 32 (word s x (64 * i + j)) + ((List.range 32).map fun k => at_ false sa i k * at_ true sb j k).sum)
                (word t x (64 * i + j)))
          ∧ (∀ f i j, f = .f16 ∨ f = .bf16 → c.op = .mmaF f f false false → n = 1 → i < 64 → j < 64 →
              let at_ := fun (isB : Bool) (r k : Nat) => f.value (c.rowAt s (s.core x).eng x isB 0 r / 2 ^ (16 * k) % 2 ^ 16)
              let v := ((List.range 32).map fun k => (at_ false i k).rat * (at_ true j k).rat).sum
              (∀ k, k < 32 → (at_ false i k).finite = true ∧ (at_ true j k).finite = true) →
              ∃ g fl, (v = 0 → g = 0) ∧ (v ≠ 0 → Exact .f32 .rne c.sat v false (g, fl))
                ∧ word t x (64 * i + j) = (fpAdd .f32 .rne c.sat (word s x (64 * i + j)) g 0).1))
    ∧ (∀ d info, c.faults < 2 → s.waveEnded c.wave = false → (s.tenant (s.waveTenant c.wave)).reverse = none →
        (s.wg (s.wave c.wave).wg).cntOpen = false → (s.wave c.wave).trapQ.length < 8 →
        After (.matrixFault c.id d info) s fun t =>
          (∀ e, t.cmd? c.id = some e → e.held = true ∧ e.faults = c.faults + 1)
          ∧ (t.wave c.wave).trapQ = (s.wave c.wave).trapQ ++ [{ cause := BitVec.ofNat 8 causeEngine, detail := BitVec.ofNat 8 d, async := true,
                                                                fpc := c.pc, mask := c.mask, info := info }])

/-! ### Answers from beyond the chip -/

/-- R79, R112, R122, R134, R158, R161, R317: the last answer of a waiting far load puts its bytes into the destination; a request that a pod
home or the host port does not answer fails late: FABRIC_FAIL 0x03 or 0x02, UNCORRECTED 0x20; a completion of the host port without
success fails it with the cause that R161 or R41 gives; the acknowledgement of a RED ends it and raises the view time and the pod clock. -/
def Obligations.FarAnswers : Prop :=
  ∀ (s : State) (k : Nat) (f : FarLane),
    (s.OneLane k f →
      (∀ bs stamp pc, f.target.isPod = true → After (.farResponse k f.lane (.data bs stamp pc)) s fun t => Answered s t k f bs)
      ∧ (∀ bs, f.target.noncoherent = true → (∃ w sg, f.op = .load w sg) →
          After (.portCompletion k f.lane (.data bs)) s fun t => Answered s t k f bs)
      ∧ (∀ bs pa w sg, f.target = .host pa true 4 → f.op = .load w sg → f.asked = some pa → pa % 64 + w.bytes ≤ 64 → bs.length = 64 →
          s.hostLine? pa = none → After (.portCompletion k f.lane (.data bs)) s fun t => Answered s t k f ((bs.drop (pa % 64)).take w.bytes))
      ∧ (∀ l b a, f.target = .pod l b a →
          After (.podRequestTimeout k f.lane) s (fun t => FailedLate s t k f causeFabricFail 3)
          ∧ After (.destinationUnreachable k f.lane) s (fun t => FailedLate s t k f causeFabricFail 2))
      ∧ (f.target.port = true →
          After (.portRequestTimeout k f.lane) s (fun t => FailedLate s t k f causeUncorrected 0x20)
          ∧ ∀ r cause d, (r, cause, d) ∈ [(PortReply.unsupported, causeUncorrected, 0x21), (.abort, causeUncorrected, 0x22),
              (.cacheFailed, causeUncorrected, 0x23), (.poisoned, causePoison, 3)] →
            After (.portCompletion k f.lane r) s fun t => FailedLate s t k f cause d))
    ∧ (∀ op w x l b a stamp pc rest, (s.wave k).wait.kind = .none → (s.wave k).posted = f :: rest → f.op = .red op w x → f.target = .pod l b a →
        (s.tenant (s.waveTenant k)).loaded = true → (∀ g ∈ (s.wave k).wait.lanes ++ rest, g.held = false) →
        After (.podWriteAck k stamp pc) s fun t => (t.wave k).posted = rest ∧ (t.wave k).pv = max (s.wave k).pv stamp
          ∧ (t.tenant (s.waveTenant k)).podClock = max (s.tenant (s.waveTenant k)).podClock (max pc stamp) ∧ t.mem = s.mem)

/-- R112 to R117, R119: at the home, a read extends the lease and answers with the line; an ownership request takes the next time after
every lease, moves the clock and the write stamp there and names the owner; an atomic acts on memory and answers with the old value; the
line an owner returns is written back; the clock of each loaded tenant ticks. -/
def Obligations.PodHome : Prop :=
  (∀ (s : State) (q : PodReq) (line : Nat), s.Quiet → s.Open → s.poisoned (128 * line) = false →
    let u := s.mergePc q.tenant q.pc
    let clock := (u.tenant q.tenant).podClock
    let e := if (s.dirAt line).present then s.dirAt line else { present := true, tenant := q.tenant, wts := clock, name := q.line }
    let found := fun (acc : Acc) => inbound u q.tenant q.line.region (128 * q.line.line) 128 (some acc) = .ok ((lineLocs line).map fun l => (l, false))
    let rsp := fun (data : List Byte) (wts lend pc : Nat) =>
      ({ tenant := q.tenant, line := q.line, src := s.accel, data := data, wts := wts, lend := lend, pc := pc, pois := false, wave := 0 } : PodRsp)
    e.owner = none → e.waiting = [] → e.back = none →
    (found .read → let lend := max e.lend (max clock q.pv + (s.tenant q.tenant).lease)
      After (.podReadRequest q) s fun t => t.mem = s.mem ∧ (t.dirAt line).lend = lend ∧ (t.dirAt line).owner = none
        ∧ Out.podReply 0 q.src (rsp (s.peekN (.mem (128 * line)) 128) e.wts lend clock) ∈ t.outbox)
    ∧ (found .write → let g := max clock (max e.lend q.pv) + 1
      After (.podOwnershipRequest q) s fun t => t.mem = s.mem ∧ (t.dirAt line).owner = some q.src ∧ (t.dirAt line).wts = g
        ∧ (t.tenant q.tenant).podClock = g ∧ Out.podReply 1 q.src (rsp (s.peekN (.mem (128 * line)) 128) g 0 g) ∈ t.outbox)
    ∧ (∀ data tag total, found .write → q.byte + data.length ≤ 128 → 0 < data.length →
      After (.podAtomicRequest q (.bytes data 0 tag total)) s fun t => Placed s t (128 * line + q.byte) data
        ∧ ∃ r, Out.podReply 3 q.src r ∈ t.outbox)
    ∧ (∀ op w x y red, found (if red then .red else .atomic) →
      let a := 128 * line + q.byte
      let n := 8 * w.bytes
      let old := leNat (s.peekN (.mem a) w.bytes)
      After (.podAtomicRequest q (.atomic op w x y red 0)) s fun t =>
        (match atomVal op n old (x.toNat % 2 ^ n) (y.toNat % 2 ^ n) with
          | some v => Placed s t a (leBytes w.bytes v)
          | none => t.mem = s.mem)
        ∧ ∃ r, Out.podReply (if red then 3 else 2) q.src r ∈ t.outbox ∧ r.data = leBytes w.bytes old))
  ∧ (∀ (s : State) (r : PodRsp) (line : Nat) (e : DirEntry), s.Quiet → s.Open →
    s.dir.find? (fun p => p.2.tenant == r.tenant && p.2.name == r.line && p.2.owner == some r.src) = some (line, e) → s.dirAt line = e →
    e.waiting = [] → r.data.length = 128 → r.pois = false → s.poisoned (128 * line) = false → (s.tenant r.tenant).loaded = true →
    After (.recallResponse r) s fun t => Placed s t (128 * line) r.data ∧ (t.dirAt line).owner = none ∧ (t.dirAt line).recalling = false
      ∧ (t.dirAt line).wts = max (s.tenant r.tenant).podClock r.pc + 1)
  ∧ (∀ (s : State), Tab.wf ({} : Tenant) s.tenants = true → After .podClockTick s fun t =>
    ∀ n, (t.tenant n).podClock = (s.tenant n).podClock + if (s.tenant n).loaded then 1 else 0)

/-- R41, R115, R116, R119, R121, R144, R161: a read response installs a leased copy, an ownership grant the owned line; a recall, or the owner of
its own accord, sends an owned line home with its data and drops it; a leased copy is dropped alone; an owner that is lost leaves its
lines at home with their granules poisoned; a link that is down stays down. The keep-alive goes out each period, and each owner whose
own is in has renewed (whose is in the model leaves free, log entry 6). -/
def Obligations.PodLines : Prop :=
  ∀ (s : State),
    (∀ (r : PodRsp), r.pois = false → (s.tenant r.tenant).loaded = true →
      (∀ k, (s.wave k).wait.kind ≠ .far ∧ (s.wave k).posted = []) → (∀ p ∈ s.waves, p.2.posted = []) →
      let fresh := fun (t : State) (own : Bool) (lend : Nat) =>
        t.copy? r.tenant r.line = some { tenant := r.tenant, line := r.line, data := r.data, wts := r.wts, lend := lend, owned := own }
        ∧ (t.tenant r.tenant).podClock = max (s.tenant r.tenant).podClock r.pc ∧ t.mem = s.mem
      (s.copy? r.tenant r.line = none → After (.podReadResponse r) s fun t => fresh t false r.lend)
      ∧ (s.recalls = [] → After (.podOwnershipGrant r) s fun t => fresh t true 0 ∧ (t.wave r.wave).pv = max (s.wave r.wave).pv r.wts)
      ∧ (∀ q, s.recalls = [q] → q.tenant = r.tenant → q.line = r.line → After (.podOwnershipGrant r) s fun t =>
          t.copy? r.tenant r.line = none ∧ t.recalls = [] ∧ ∃ b, Out.podReply 5 q.src b ∈ t.outbox ∧ b.data = r.data ∧ b.wts = r.wts))
    ∧ (∀ ten line c, s.copy? ten line = some c →
      let gone := fun (t : State) => t.copy? ten line = none ∧ t.mem = s.mem
      let sent := fun (t : State) (dst : Nat) => ∃ r, Out.podReply 5 dst r ∈ t.outbox ∧ r.data = c.data ∧ r.wts = c.wts ∧ r.line = line
      (∀ q, q.tenant = ten → q.line = line → c.owned = true → After (.recall q) s fun t => gone t ∧ sent t q.src)
      ∧ (∀ leaf, rankLookup s ten line.rank = .ok leaf → c.owned = true → After (.podOwnerEvict ten line) s fun t => gone t ∧ sent t (bits leaf.fabric 9 0))
      ∧ (c.owned = false → After (.leasedCopyEviction ten line) s gone)
      ∧ (c.owned = true → exec (.leasedCopyEviction ten line) s = .next s))
    ∧ (∀ q, s.copy? q.tenant q.line = none → s.wantsLine q.tenant q.line = true →
        exec (.recall q) s = .next { s.mergePc q.tenant q.pc with recalls := s.recalls ++ [q] })
    ∧ exec .keepalive s = .next { s.send .keepalive with renewed := s.renewals, fresh := s.fresh + 1 }
    ∧ (Tab.wf 0 s.renewed = true → ∀ o, Tab.get 0 s.renewals o =
        if (∃ p ∈ s.dir, p.2.owner = some o) ∧ Config.renews s.fresh o = true then s.time else Tab.get 0 s.renewed o)
    ∧ (∀ ten o line, s.Quiet → s.homeSteps = [] → s.ownerGone ten o = true → bits s.errN 4 0 < 6 → Tab.wf ({} : DirEntry) s.dir = true → (∀ p ∈ s.dir, p.2.waiting = []) →
        (s.dirAt line).owner = some o → (s.dirAt line).tenant = ten →
        After (.ownerTimeout ten o) s fun t => (t.dirAt line).owner = none ∧ t.poisoned (128 * line) = true ∧ Out.fabricLoss ten o ∈ t.outbox)
    ∧ (∀ n, After (.linkDown n) s fun t => (t.link n).down = true)
    ∧ (∀ k f, s.OneLane k f → s.waves = [(k, s.wave k)] → (s.wave k).posted = [] → s.cmds = [] → f.target.port = true →
        After (.linkDown hostPort) s fun t => FailedLate s t k f causeUncorrected 0x23)

/-- R29, R106, R128 to R133, R136, R139, R379: at the target, a put, get or atomic whose header is one and whose region covers it is taken and
goes on piece by piece: a put places each line, a get reads each line, an atomic acts once, and the counter that the header names
counts apart from the placements; the last step sends the answer. A second arrival is answered alike and changes nothing; an access
that no region covers is answered with ERR; an atomic on a poisoned granule is answered with POIS and acts on nothing; while the engine
is frozen, and for a header that is none, a packet is dropped; a launch record of another rank is appended and its status returned. -/
def Obligations.FabricTarget : Prop :=
  (∀ (s : State) (ten : Nat) (h : PktHdr) (seq total a : Nat) (data : List Byte) (w : Width) (op : AtomOp) (x y : BitVec 128),
    (s.frozen = true ∨ h.ok 1 = false → exec (.putPacket ten h seq ⟨total, data⟩) s = .next s)
    ∧ (s.frozen = true ∨ h.ok 2 = false → exec (.getRequest ten h seq) s = .next s)
    ∧ (s.frozen = true ∨ h.ok 4 = false → exec (.atomicRequest ten h seq op w x y) s = .next s)
    ∧ (s.Quiet → s.frozen = false → s.arrivals.any (fun z => z.tenant == ten && z.h.src == h.src && z.seq == seq) = false →
      let u := s.fillInbound ten h.region h.offset h.len
      let run := (List.range h.len).map fun i => (Loc.mem (a + i), false)
      let first := ∀ p ∈ (s.tenant ten).placedSeq, ¬ (p.1 = h.src ∧ p.2.1 = seq)
      let taken := fun (work : ArrWork) (t : State) => t.mem = s.mem ∧ t.arrivals = s.arrivals ++
        [{ id := s.nextId, tenant := ten, h := h, seq := seq, work := work, left := arrivalPieces work (run.map (·.1)) data,
           uncounted := h.tc && (work matches .put _) }]
      let refused := fun (o : Nat) (t : State) => t.mem = s.mem ∧ ∃ bs, Out.response ten h.src seq (h.answer o true false) bs ∈ t.outbox
      (h.ok 1 = true → data.length = h.len →
        (first → inbound u ten h.region h.offset h.len (some .write) = .ok run → After (.putPacket ten h seq ⟨total, data⟩) s (taken (.put total)))
        ∧ (first → h.tc = false → ∀ e, inbound u ten h.region h.offset h.len (some .write) = .error e →
            After (.putPacket ten h seq ⟨total, data⟩) s fun t => refused 6 t ∧ (h.src, seq, true) ∈ (t.tenant ten).placedSeq)
        ∧ ∀ err, (s.tenant ten).placedSeq.find? (fun p => p.1 == h.src && p.2.1 == seq) = some (h.src, seq, err) →
            exec (.putPacket ten h seq ⟨total, data⟩) s = .next (s.send (.response ten h.src seq (h.answer 6 err false) [])))
      ∧ (h.ok 2 = true → first → data = [] →
        (inbound u ten h.region h.offset h.len (some .read) = .ok run → After (.getRequest ten h seq) s (taken .get))
        ∧ ∀ e, inbound u ten h.region h.offset h.len (some .read) = .error e → After (.getRequest ten h seq) s (refused 3))
      ∧ (h.ok 4 = true → first → data = [] → h.len = w.bytes → h.offset % w.bytes = 0 →
        (inbound u ten h.region h.offset h.len (some .atomic) = .ok run → After (.atomicRequest ten h seq op w x y) s (taken (.atomic op w x y)))
        ∧ (h.tc = false → ∀ e, inbound u ten h.region h.offset h.len (some .atomic) = .error e →
            After (.atomicRequest ten h seq op w x y) s (refused 5)))))
  ∧ (∀ (s : State) (z : Arrival) (k a n : Nat) (bs : List Byte),
    s.Quiet → s.Open → s.frozen = false → (∀ i, (s.dirAt i).owner = none) → s.cmd? z.id = none → s.arrivals.find? (·.id == z.id) = some z →
    let ls := (List.range n).map fun i => Loc.mem (a + i)
    let rest := z.left.filter (·.1 != k)
    let answer := fun (o : Nat) (err pois : Bool) (out : List Byte) =>
      Out.response z.tenant z.h.src z.seq (z.h.answer o err pois) out
    (z.left.find? (·.1 == k) = some (k, ls, bs) → 0 < n →
      (∀ total, z.work = .put total → z.h.pois = false → bs.length = n → After (.engineLinePlace z.id k) s fun t => Placed s t a bs
        ∧ (rest = [] → z.uncounted = false → answer 6 z.err false [] ∈ t.outbox ∧ (z.h.src, z.seq, z.err) ∈ (t.tenant z.tenant).placedSeq)
        ∧ (rest ≠ [] → (∀ e, answer 6 e false [] ∈ t.outbox → answer 6 e false [] ∈ s.outbox) ∧ ∃ y ∈ t.arrivals, y.id = z.id ∧ y.left = rest))
      ∧ (z.work = .get → z.uncounted = false → After (.engineLinePlace z.id k) s fun t => t.mem = s.mem
        ∧ (rest ≠ [] → ∃ y ∈ t.arrivals, y.id = z.id ∧ y.left = rest ∧ y.got = z.got ++ [(k, s.peekN (.mem a) n)])
        ∧ (rest = [] → z.got = [] → k = 0 → answer 3 z.err (z.pois || anyPoisoned s ls) (s.peekN (.mem a) n) ∈ t.outbox))
      ∧ (∀ op w x y, z.work = .atomic op w x y → k = 0 → rest = [] → n = w.bytes → z.uncounted = false →
        let m := 8 * n
        let old := leNat (s.peekN (.mem a) n)
        (anyPoisoned s ls = false → z.h.pois = false → z.h.tc = false → After (.engineLinePlace z.id k) s fun t =>
          (match atomVal op m old (x.toNat % 2 ^ m) (y.toNat % 2 ^ m) with
            | some v => ∀ b, t.peek (.mem b) = if a ≤ b ∧ b < a + n then (leBytes n v).getD (b - a) 0 else s.peek (.mem b)
            | none => t.mem = s.mem)
          ∧ answer 5 false z.pois (leBytes n old) ∈ t.outbox ∧ (z.h.src, z.seq, false) ∈ (t.tenant z.tenant).placedSeq)
        ∧ (anyPoisoned s ls = true → After (.engineLinePlace z.id k) s fun t =>
            t.mem = s.mem ∧ answer 5 z.err true (leBytes n 0) ∈ t.outbox)))
    ∧ (∀ total c cs, z.work = .put total → z.uncounted = true → (∀ p ∈ z.left, p.1 ≠ 4096) →
      inbound s z.tenant (bits z.h.counter 44 40) (bits z.h.counter 39 0) 16 none = .ok ((.mem a, c) :: cs) → z.h.counter ≠ 0 →
      let before := (((s.tenant z.tenant).putParts.find? fun p => p.1 == z.h.src && p.2.1 == z.h.otag).map (·.2.2)).getD 0
      After (.engineLinePlace z.id 4096) s fun t => t.ld64 a = s.ld64 a +
          BitVec.ofNat 64 (if s.counterMode a then (if total ≤ before + 1 then 1 else 0) else z.h.len)
        ∧ (z.left ≠ [] → ∀ e, answer 6 e false [] ∈ t.outbox → answer 6 e false [] ∈ s.outbox) ∧ (z.left = [] → answer 6 z.err false [] ∈ t.outbox)))
  ∧ (∀ (s : State) (ten q src : Nat) (rec : List W64), s.frozen = false → ∃ pod,
      exec (.remoteLaunchRecord ten q rec src) s = .next ((s.appendRecord ten q rec).1.send (.launchReply src (s.appendRecord ten q rec).2 pod)))

/-- R29, R79, R123, R126, R127, R130, R132, R134, R135, R139, R350, R375: at the initiator, an acknowledged part is done and the window of its
group grows, or halves where the answer marks congestion; a trimmed packet goes out again at once and the window halves; the data of a
get are placed, or answer the lane that loads; the old value of an atomic goes to its result address, and the response is acknowledged;
a target error fails the command or the lane; a packet that times out is sent again on another enabled path where there is one, and the
third timeout in a row fails a path until a probe, 1 ms later, finds it good; a group without progress is failed; while the engine is
frozen an answer is dropped. -/
def Obligations.FabricInitiator : Prop :=
  ∀ (s : State) (ten seq : Nat) (h : PktHdr),
    (s.frozen = true → ∀ e data old, exec (.acknowledgement ten h ⟨seq, e⟩) s = .next s ∧ exec (.getResponse ten h (⟨seq, e⟩, data)) s = .next s
      ∧ exec (.atomicResponse ten h (⟨seq, e⟩, old)) s = .next s)
    ∧ (∀ i p g, s.Quiet → s.frozen = false → s.inFlight ten h.otag seq = some (i, p) → (s.tenant ten).groups[i]? = some g →
      let u := (s.ackPacket ten h.otag seq .none).1
      (h.src = (s.tenant ten).cur.jobRank.toNat → h.ok 6 = true → g.failed = false → After (.acknowledgement ten h ⟨seq, .trim⟩) s fun t => ∃ y path,
        (t.tenant ten).groups[i]? = some y ∧ y.window = max 1 (g.window / 2) ∧ t.mem = s.mem
        ∧ Out.packet ten p.seq path p.fabric p.total p.h p.data ∈ t.outbox)
      ∧ (∀ k f data, p.cmd = 0 → p.wave = k → s.OneLane k f → f.tag = p.h.otag → h.ok 3 = true →
        (h.err = false → h.pois = false → After (.getResponse ten h (⟨seq, .none⟩, data)) s fun t => Answered s t k f data)
        ∧ (h.err = true → After (.getResponse ten h (⟨seq, .none⟩, data)) s fun t => FailedLate s t k f causeRankRegion 6)
        ∧ (h.err = false → h.pois = true → After (.getResponse ten h (⟨seq, .none⟩, data)) s fun t => FailedLate s t k f causePoison 3))
      ∧ (∀ c k, s.cmd? c.id = some c → p.cmd = c.id → c.id ≠ 0 → p.part = k → k ∈ c.waiting → k ∈ c.left → c.comp = .none → c.buf = [] →
        (h.src = (s.tenant ten).cur.jobRank.toNat → h.ok 6 = true → c.op = .putr →
          (h.err = false → ∀ e, e ≠ .trim → After (.acknowledgement ten h ⟨seq, e⟩) s fun t => t.mem = s.mem
            ∧ (∀ d, t.cmd? c.id = some d → d.left = c.left.erase k)
            ∧ (c.left = [k] → c.owed = 0 → Instr.engineCommandComplete c.id ∈ t.agenda)
            ∧ ∃ y, (t.tenant ten).groups[i]? = some y ∧ y.window =
                if e = .ecn then max 1 (g.window / 2) else if g.window ≤ g.ackedInWindow + 1 then min 4096 (g.window + 1) else g.window)
          ∧ (h.err = true → After (.acknowledgement ten h ⟨seq, .none⟩) s fun t => t.cmd? c.id = none))
        ∧ (∀ dst data rs, h.ok 3 = true → h.err = false → h.pois = false → c.op = .getr → c.forked = true → c.waiting = [k] → 0 < data.length →
          let c' := { c with waiting := [], buf := [(k, data, false)] }
          let v := u.modCmd c.id fun x => { x with waiting := x.waiting.erase k, buf := x.keep k data false }
          let r := c'.part k
          let n := r.2.2 - r.2.1
          let from_ := c'.srcRow r.1 + BitVec.ofNat 64 r.2.1
          let at_ := c'.dstRow r.1 + BitVec.ofNat 64 r.2.1
          let run := (List.range n).map fun i => FarTarget.chip [.mem (dst + i)]
          data.length = n → v.pausedAt c' k = false → v.engTargets c' from_ n (c'.srcPlace.scope from_) .read = .ok rs →
          (∀ r ∈ rs, ∃ a b c d e, r = .remote a b c d e) →
          v.engTargets c' at_ n (c'.dstPlace.scope at_) .write = .ok run → v.chipReady c' true at_ run = .ok () →
          After (.getResponse ten h (⟨seq, .none⟩, data)) s fun t => Placed s t dst data ∧ (∀ d, t.cmd? c.id = some d → d.left = c.left.erase k))
        ∧ (∀ old dst, h.ok 5 = true → h.err = false → h.pois = false → c.op = .atomr → k = 0 → h.len = c.rowb →
          let ackd := fun (t : State) => Out.response ten p.rank seq (h.answer 6 false false) [] ∈ t.outbox
          (c.w64 6 = 0 → After (.atomicResponse ten h (⟨seq, .none⟩, old)) s fun t => t.mem = s.mem ∧ ackd t
            ∧ (∀ d, t.cmd? c.id = some d → d.left = c.left.erase 0))
          ∧ (c.w64 6 ≠ 0 → (u.send (.response ten p.rank seq (h.answer 6 false false) [])).engLocs c (c.w64 6) c.rowb .write
                = .ok ((List.range c.rowb).map fun i => .mem (dst + i)) →
              After (.atomicResponse ten h (⟨seq, .none⟩, old)) s fun t => Placed s t dst (leBytes c.rowb old.toNat) ∧ ackd t))))
    ∧ (∀ g x p, (s.tenant ten).groups[g]? = some x → x.unacked.find? (·.seq == seq) = some p →
        s.frozen = false → x.failed = false → p.path < 64 →
        let en := s.paths ten p
        (p.sentAt + x.rto ≤ s.time → en ≠ 0 → After (.retransmissionTimeout ten g seq) s fun t => ∃ path y,
          Out.packet ten p.seq path p.fabric p.total p.h p.data ∈ t.outbox
          ∧ en.getLsbD path = true ∧ (t.tenant ten).groups[g]? = some y
          ∧ ((∃ e, e < 64 ∧ e ≠ p.path ∧ en.getLsbD e = true ∧ x.failedPaths.getLsbD e = false) → path ≠ p.path)
          ∧ (2 ≤ Tab.get 0 x.timeouts p.path → y.failedPaths.getLsbD p.path = true))
        ∧ (s.time < p.sentAt + x.rto → exec (.retransmissionTimeout ten g seq) s = .next s))
    ∧ (∀ g x path, (s.tenant ten).groups[g]? = some x → After (.pathProbe ten g path) s fun t => ∃ y, (t.tenant ten).groups[g]? = some y
        ∧ (s.time < Tab.get 0 x.failedAt path + 1000 * microsecond → y = x)
        ∧ (Tab.get 0 x.failedAt path + 1000 * microsecond ≤ s.time →
            y.failedPaths.getLsbD path = false ∧ Tab.get 0 y.timeouts path = 0 ∧ y.unacked = x.unacked))
    ∧ (∀ g x, (s.tenant ten).groups[g]? = some x →
        (s.stuck ten x = true → After (.groupProgressTimeout ten g) s fun t => ∃ y, (t.tenant ten).groups[g]? = some y ∧ y.failed = true)
        ∧ (s.stuck ten x = false → exec (.groupProgressTimeout ten g) s = .next s))

/-! ### Sealed links -/

/-- R140 to R144, R416: the first key of a direction is in use at once, from counter 0; from counter 0xFFF0_0000 on the transmitter goes over to
the loaded spare slot behind a marker of the old one, and is silent when every value is used and no spare is loaded. An authentic flit
of a loaded slot, with a counter that is not below the slot's, is admitted and moves the counter: a data flit in order is delivered, a
marker opens the slot it names, an acknowledging marker closes the old transmit slot, a control flit acknowledges payloads or has one
sent again, or kept for a key; a flit under the idle slot opens it as the lost marker would have. A flit that is not admitted delivers nothing; the sixteenth in a row, or the sixteenth CRC error in a row, takes the link
down. -/
def Obligations.LinkSecurity : Prop :=
  ∀ (s : State) (n : Nat) (f : Flit),
    let x := s.link n
    let k := x.tx x.txSlot
    let spare := x.tx !x.txSlot
    let sealed := fun (t : State) (kind : Nat) (seq : BitVec 16) (payload : List Byte) => ∃ tag,
      Out.flit n (BitVec.ofNat 64 ((if x.txSlot then 2 ^ 63 else 0) + kind * 2 ^ 60 + seq.toNat * 2 ^ 32 + k.ctr)) (k.salt ++ BitVec.ofNat 64 k.ctr)
        ((payload ++ List.replicate 232 0).take 232) tag ∈ t.outbox
    (∀ slot salt key,
      (x.tx0.active = false → x.tx1.active = false → x.unsent = [] → After (.keyLoad n true slot salt key) s fun t =>
        (t.link n).tx slot = { salt := salt, key := key, loaded := true, active := true, ctr := 0 } ∧ (t.link n).txSlot = slot)
      ∧ After (.keyLoad n false slot salt key) s fun t =>
        (t.link n).rx slot = { salt := salt, key := key, loaded := true, active := !x.rx0.active && !x.rx1.active, ctr := 0 })
    ∧ (k.active = true → x.down = false → 0xFFF00000 ≤ k.ctr → spare.loaded = true → spare.active = false →
        After (.keySwitchover n) s fun t => (t.link n).txSlot = !x.txSlot ∧ ((t.link n).tx !x.txSlot) = { spare with active := true, ctr := 0 }
          ∧ (k.ctr < 0xFFFFFFFF → sealed t 1 0 [if x.txSlot then 0 else 1]))
    ∧ (k.ctr < 0xFFF00000 → exec (.keySwitchover n) s = .next s)
    ∧ (k.active = true → x.down = false → 0xFFFFFFFF ≤ k.ctr → spare.loaded = false →
        After (.keyExhausted n) s fun t => (t.link n).txStopped = true ∧ t.outbox = s.outbox)
    ∧ (k.ctr < 0xFFFFFFFF → exec (.keyExhausted n) s = .next s)
    ∧ (x.down = false → f.authentic = true → f.kind ≤ 3 → (x.rx f.slot).loaded = true → (x.rx f.slot).active = false → (x.rx f.slot).ctr ≤ f.ctr →
        After (.sealedDataFlit n f) s fun t => ((t.link n).rx f.slot).ctr = f.ctr + 1 ∧ ((t.link n).rx f.slot).active = true
          ∧ (f.kind ≠ 1 → ((t.link n).rx !f.slot).active = false))
    ∧ (x.down = false → f.authentic = true → (x.rx f.slot).loaded = true → (x.rx f.slot).active = true → (x.rx f.slot).ctr ≤ f.ctr →
        x.rxNew ≠ some f.slot →
        let moved := fun (t : State) => ((t.link n).rx f.slot).ctr = f.ctr + 1
        (f.kind = 0 → f.seq = x.expect → x.heldPay = [] → After (.sealedDataFlit n f) s fun t =>
          moved t ∧ Out.delivered n f.payload ∈ t.outbox ∧ (t.link n).expect = x.expect + 1)
        ∧ (f.kind = 1 → f.newSlot ≠ f.slot → (x.rx f.newSlot).loaded = true → After (.switchMarker n f) s fun t =>
          moved t ∧ ((t.link n).rx f.newSlot).active = true ∧ ((t.link n).rx f.slot).active = true)
        ∧ (f.kind = 2 → After (.acknowledgingMarker n f) s fun t =>
          moved t ∧ (t.link n).txSlot = x.txSlot ∧ ((t.link n).tx !x.txSlot).active = false)
        ∧ (f.kind = 3 → f.nak = false → After (.sealedControlFlit n f) s fun t =>
          moved t ∧ (t.link n).unacked = x.unacked.filter fun p => decide (2 ^ 15 ≤ (f.seq - p.1).toNat))
        ∧ (∀ p, f.kind = 3 → f.nak = true → x.unacked.find? (fun q => q.1 == f.seq) = some p →
          (k.active = true → k.ctr < 0xFFF00000 → x.txStopped = false → After (.sealedControlFlit n f) s fun t => moved t ∧ sealed t 0 p.1 p.2)
          ∧ (k.active = false → x.unsent = [] → After (.sealedControlFlit n f) s fun t => moved t ∧ (t.link n).unsent = [p])))
    ∧ (x.down = false → (f.authentic = false ∨ 3 < f.kind ∨ (x.rx f.slot).loaded = false ∨ f.ctr < (x.rx f.slot).ctr) →
        (x.bad < 15 → After (.sealedDataFlit n f) s fun t => (t.link n).bad = x.bad + 1 ∧ (t.link n).rx0 = x.rx0 ∧ (t.link n).rx1 = x.rx1
          ∧ (t.link n).expect = x.expect ∧ ∀ p, Out.delivered n p ∈ t.outbox → Out.delivered n p ∈ s.outbox)
        ∧ (15 ≤ x.bad → After (.sealedDataFlit n f) s fun t => (t.link n).down = true))
    ∧ (x.replays < 15 → After (.linkCrcError n) s fun t => (t.link n).replays = x.replays + 1 ∧ (t.link n).down = x.down)
    ∧ (15 ≤ x.replays → After (.linkCrcError n) s fun t => (t.link n).down = true)

/-! ### The host -/

/-- R145, R146, R148, R149, R151 to R157, R165: in CXL mode a host access that the HDM decoder places and an identity admits reads device
memory or writes it; another reads poisoned zeros or is dropped, and a UIO request completes with Completer Abort; the answer to a
back-invalidation frees the line and its modified data are written; a snoop takes a held host line away or leaves it shared; a flip to
device bias sends 64 back-invalidations once the movers and the locked lines are done, and a flip ends with the bit of its page. -/
def Obligations.HostAccesses : Prop :=
  ∀ s : State, s.Quiet →
    (∀ rid a n uio, s.cxl = true → 0 < n →
      let ok := s.hdmBase ≤ a ∧ s.identities.any (identityCovers rid (a - s.hdmBase) n) = true ∧ a - s.hdmBase + n ≤ 2560000000000
      let d := a - s.hdmBase
      let clear := s.Open ∧ s.hostQueue = [] ∧ (∀ i, (s.dirAt i).owner = none) ∧ (∀ i, i < n → s.poisoned (d + i) = false)
        ∧ ∀ k, (s.tenant k).reverse = none
      (ok → clear → After (.hostRead ⟨rid, uio⟩ a n) s fun t => t.mem = s.mem ∧ Out.hostData (s.peekN (.mem d) n) false ∈ t.outbox)
      ∧ (¬ ok → exec (.hostRead ⟨rid, uio⟩ a n) s = .next (s.send (if uio then .completerAbort rid else .hostData (List.replicate n 0) true)))
      ∧ ∀ data, data.length = n →
        (ok → clear → After (.hostWrite ⟨rid, uio⟩ a data false) s fun t => Placed s t d data)
        ∧ (¬ ok → exec (.hostWrite ⟨rid, uio⟩ a data false) s = .next (if uio then s.send (.completerAbort rid) else s)))
    ∧ (s.cxl = false → ∀ rid a n data pois uio,
        exec (.hostRead ⟨rid, uio⟩ a n) s = .next s ∧ exec (.hostWrite ⟨rid, uio⟩ a data pois) s = .next s)
    ∧ (∀ line w flip, s.invWaits.filter (·.1 == line) = [(line, w, flip)] →
        let freed := fun (t : State) => (∀ x ∈ t.invWaits, x.1 ≠ line) ∧ line ∉ t.snoop
        After (.backInvalResponse line none false) s (fun t => freed t ∧ t.mem = s.mem
          ∧ (flip = false → s.hostBias (64 * line) = true → (line, w) ∈ t.invDone)
          ∧ (flip = true → Instr.biasFlipComplete (line / 64) ∈ t.agenda ∧ ∀ f ∈ s.flips, f.asked = true → f.page = line / 64 →
              { f with left := f.left - 1 } ∈ t.flips))
        ∧ (∀ bs, bs.length = 64 → (∀ i, i < 64 → s.poisoned (64 * line + i) = false) →
            After (.backInvalResponse line (some bs) false) s fun t => freed t ∧ Placed s t (64 * line) bs)
        ∧ After (.backInvalResponse line none true) s fun t => (line, w, flip) ∈ t.invWaits ∧ Out.backInval line w ∈ t.outbox)
    ∧ (∀ addr inv, s.hostLine? addr = none → exec (.hostSnoop addr inv) s = .next (s.send (.snoopAnswer (addr / 64 * 64) false)))
    ∧ (∀ addr h, s.hostLine? addr = some h →
        let told := fun (t : State) => Out.snoopAnswer h.addr true ∈ t.outbox ∧ (h.dirty = true → Out.hostWriteback h.addr h.data ∈ t.outbox)
        After (.hostSnoop addr true) s (fun t => t.hostLine? addr = none ∧ told t)
        ∧ After (.hostSnoop addr false) s fun t => t.hostLine? addr = some { h with dirty := false, owned := false } ∧ told t)
    ∧ (∀ page f, s.flips.find? (·.page == page) = some f →
        let busy := s.cmds.any (fun c => f.movers.contains c.id && c.left.any fun k => s.partOnPage c k page) = true
        (¬ busy → s.packets = [] → s.homeSteps = [] → f.left = 0 →
          (f.toHost = true ∨ f.asked = true → After (.biasFlipComplete page) s fun t =>
            t.hostBias (4096 * page) = f.toHost ∧ (∀ g ∈ t.flips, g.page ≠ page) ∧ ∀ l ∈ t.snoop, l / 64 ≠ page)
          ∧ (f.toHost = false → f.asked = false → After (.biasFlipComplete page) s fun t => t.mem = s.mem
            ∧ { f with asked := true, left := 64 } ∈ t.flips
            ∧ ∀ i, i < 64 → Out.backInval (page * 64 + i) true ∈ t.outbox ∧ (page * 64 + i, true, true) ∈ t.invWaits))
        ∧ (busy ∨ 0 < f.left → exec (.biasFlipComplete page) s = .next s))

/-! ### Launch queues -/

/-- R169, R208 to R213, R379: a record enters an enabled queue with room, by a deferrable write or a posted one; a full queue turns the one
back and drops the other, and what is no record is marked; validation discards a record without a completion block, ends a rejected
one with its code and its count, and passes the rest; a head whose dependences are met becomes an active launch under the tenant's next
number where its turn has come. The reply to a record sent to another rank is its status word. -/
def Obligations.LaunchQueues : Prop :=
  ∀ (s : State) (ten q : Nat), s.Quiet → q < (s.tenant ten).queues.length →
    let at_ := fun (t : State) => (t.tenant ten).queues.getD q {}
    let x := at_ s
    (∀ rec : List W64, rec.length = 8 → x.en = true →
      let put := fun (t : State) => (at_ t).recs = x.recs ++ [rec] ∧ (at_ t).accepted = (x.accepted + 1) % 2 ^ 32
        ∧ Instr.launchValidate ten q ∈ t.agenda
      (x.recs.length < 64 → After (.launchRecordDmwr ten q rec) s (fun t => put t ∧ Out.dmwrStatus true ∈ t.outbox)
        ∧ After (.launchRecordPosted ten q 0 64 rec) s put)
      ∧ (64 ≤ x.recs.length → exec (.launchRecordDmwr ten q rec) s = .next (s.send (.dmwrStatus false))
        ∧ After (.launchRecordPosted ten q 0 64 rec) s fun t => at_ t = { x with drop := true }))
    ∧ (∀ rec : List W64, rec.length ≠ 8 ∨ x.en = false →
        After (.launchRecordDmwr ten q rec) s (fun t => at_ t = { x with bad := true } ∧ Out.dmwrStatus true ∈ t.outbox)
        ∧ After (.launchRecordPosted ten q 0 64 rec) s fun t => at_ t = { x with bad := true })
    ∧ (∀ rec : List W64, ∀ off n, off ≠ 0 ∨ n ≠ 64 → After (.launchRecordPosted ten q off n rec) s fun t => at_ t = { x with bad := true })
    ∧ (∀ val, After (.lqStatWrite ten q val) s fun t =>
        at_ t = { x with bad := x.bad && !val.getLsbD 31, drop := x.drop && !val.getLsbD 30, en := val.getLsbD 29 })
    ∧ (∀ a tag code, s.launchTags.find? (·.1 == tag) = some (tag, .mem a) → code < 256 → s.homeWait (.mem a) = none → s.homeSteps = [] →
        After (.launchStatusResponse ten tag code) s fun t => Placed s t a (bytes64 (BitVec.ofNat 64 code)) ∧ ∀ p ∈ t.launchTags, p.1 ≠ tag)
    ∧ ∀ r rest, x.recs = r :: rest →
      (x.validated = false →
        (s.doneBlock ten (recDone r) = none → After (.launchValidate ten q) s fun t => (at_ t).recs = rest ∧ t.mem = s.mem
          ∧ ((s.tenant ten).lastReject.getLsbD 63 = false → q < 16 → (t.tenant ten).lastReject = BitVec.ofNat 64 (2 ^ 63 + 7 * 2 ^ 48 + 2 ^ 32 + q)))
        ∧ (∀ a code, s.doneBlock ten (recDone r) = some a → s.rejection ten r = some code → s.homeWait (.mem a) = none → s.homeSteps = [] →
            After (.launchValidate ten q) s fun t => (at_ t).recs = rest ∧ t.ld64 a = s.ld64 a + 1
              ∧ ((s.ld64 (a + 16)).getLsbD 63 = false → t.ld64 (a + 16) = BitVec.ofNat 64 (2 ^ 63 + code * 2 ^ 40)))
        ∧ (∀ a, s.doneBlock ten (recDone r) = some a → s.rejection ten r = none →
            After (.launchValidate ten q) s fun t => at_ t = { x with validated := true } ∧ t.mem = s.mem ∧ Instr.launchAdmit ten q ∈ t.agenda))
      ∧ (x.validated = true → (s.tenant ten).stopAdmit = false → s.depsMet ten r = true →
          let h := (bits (r.getD 0 0) 6 4, x.stamps.headD 0)
          s.active + s.headsBefore ten h false < 256 → s.activeOf ten + s.headsBefore ten h true < 64 →
          let n := ((s.tenant ten).lastLaunch + 1) % 2 ^ 32
          After (.launchAdmit ten q) s fun t => (at_ t).recs = rest ∧ (t.tenant ten).lastLaunch = n
            ∧ (t.launch s.nextId).live = true ∧ (t.launch s.nextId).num = n ∧ (t.launch s.nextId).tenant = ten
            ∧ (t.launch s.nextId).queue = q ∧ (t.launch s.nextId).record = r ∧ (t.launch s.nextId).nextWg = 0)

/-! ### Workgroups and launches -/

/-- R173, R189 to R191, R197, R205, R211, R214 to R218, R407 to R413: a grid workgroup goes to the first core of the search that fits it, its
waves at the entry with their arguments; an evictable one is saved to the slots of its tenant, a ready one read back into a core that
fits it; one whose waves have ended retires; the targets of stages follow their queues; a launch with nothing outstanding is counted
at its completion block and gone. -/
def Obligations.WorkgroupLives : Prop :=
  ∀ (s : State) (n g : Nat),
    let l := s.launch n
    let r := l.record
    let x := s.wg g
    let base := (s.tenant x.tenant).cur.saveBase.toNat + 2097152 * x.slot
    (s.waves = [] → l.live = true → After (.stageRebalance n) s fun t => ∀ i, 1 ≤ i → i < l.stages.length →
        let st := l.stages.getD i {}
        let inp := s.queueAt (l.stages.getD (i - 1) {}).oqDpa
        let occ := queueOcc inp
        let full := i + 1 < l.stages.length ∧ s.queueFull st.oqDpa = true
        let u := (t.launch n).stages.getD i {}
        u.target = (if occ = 0 then 0 else if full then max 1 (s.stageRes n i)
          else min st.slots ((4 * st.slots * occ + 2 ^ inp.2.2.2 - 1) / 2 ^ inp.2.2.2))
        ∧ u.due = u.target - s.stageRes n i)
    ∧ (∀ a, s.evictable g = true → s.freeSlots x.tenant 1 = some [a] → x.pair = false → After (.workgroupSave g) s fun t =>
        (t.wg g).saving = true ∧ (t.wg g).slot = a ∧ (t.tenant x.tenant).slotsUsed = (s.tenant x.tenant).slotsUsed ++ [a]
        ∧ Instr.saveComplete g ∈ t.agenda
        ∧ ∀ i, i < 2048 * x.scrUnits →
            t.peek (.mem ((s.tenant x.tenant).cur.saveBase.toNat + 2097152 * a + 0xCD000 + i)) = s.peek (.scr g i))
    ∧ (s.evictable g = false → exec (.workgroupSave g) s = .next s)
    ∧ (x.saving = true → After (.saveComplete g) s fun t => (t.wg g).saving = false ∧ (t.wg g).saved = true ∧ t.mem = s.mem)
    ∧ (∀ c b fs, x.live = true → x.saved = true → x.ready = true → x.pair = false →
        (List.range 256).findSome? (fun c => (s.placeable x.tenant c x.need []).map fun f => (c, f)) = some (c, b, fs) →
        (s.halves.contains (c / 128) = true → exec (.workgroupRestore g) s = .next { s with halves := [0, 1] })
        ∧ (s.halves.contains (c / 128) = false → After (.workgroupRestore g) s fun t => (t.wg g).saved = false ∧ (t.wg g).restoring = true ∧ (t.wg g).core = c ∧ t.mem = s.mem
          ∧ (∀ i, i < 2048 * x.scrUnits → t.peek (.scr g i) = s.peek (.mem (base + 0xCD000 + i)))
          ∧ ∀ i v j, i < x.nwaves → v < x.alloc → j < 64 →
              (t.wave (32 * g + i)).reg v j = le32 (s.peekN (.mem (base + 0x55000 + i * (256 * x.alloc) + 4 * (64 * v + j))) 4)))
    ∧ (∀ vs, x.live = true → x.saved = true → x.ready = true → x.pair = false →
        (List.range 256).findSome? (fun c => (s.placeable x.tenant c x.need []).map fun f => (c, f)) = none →
        s.evictSet x.tenant l.prio x.need (List.range 256) = some vs → x.launch = n →
        exec (.workgroupRestore g) s = .next (s.push (vs.map fun v => .workgroupSave v)))
    ∧ (∀ y c b fs, l.live = true → l.aborted = false → l.stopped = false → (s.tenant l.tenant).stopAdmit = false → l.stages = [] →
      s.gridShape n = some y →
      (searchOrder l.lastCore y.pair).findSome? (fun c => (s.placeable l.tenant c y.need []).map fun f => (c, f)) = some (c, b, fs) →
      s.halves.contains (c / 128) = false →
      After (.workgroupPlace n) s fun t =>
        let z := t.wg s.nextId
        z.live = true ∧ z.launch = n ∧ z.index = l.nextWg ∧ z.core = c ∧ z.accBase = b ∧ (t.launch n).nextWg = l.nextWg + 1 ∧ t.mem = s.mem
        ∧ ∀ i, i < (bits (r.getD 2 0) 31 20 + 63) / 64 → ∀ j, j < 64 →
          let w := t.wave (32 * s.nextId + i)
          w.live = true ∧ (w.lane j).pc = BitVec.ofNat 64 (bits (r.getD 0 0) 56 7 * 128)
          ∧ ((w.lane j).exited = true ↔ bits (r.getD 2 0) 31 20 ≤ 64 * i + j)
          ∧ (w.reg 1 j ++ w.reg 0 j : BitVec 64) = BitVec.ofNat 64 (bits (r.getD 1 0) 56 6 * 64)
          ∧ w.reg 2 j = BitVec.ofNat 32 l.nextWg ∧ w.reg 3 j = 0 ∧ w.reg 4 j = 0 ∧ w.reg 5 j = BitVec.ofNat 32 (bits (r.getD 3 0) 20 4 * 16)
          ∧ w.reg 6 j = 0)
    ∧ (s.Quiet → x.restoring = true → x.unwindDue = none → After (.restoreComplete g) s fun t =>
        (t.wg g).restoring = false ∧ x.slot ∉ (t.tenant x.tenant).slotsUsed ∧ t.mem = s.mem)
    ∧ (x.live = true → x.saving = false → x.restoring = false →
        (∀ k ∈ s.wgWaves g, (s.wave k).lanes.all (·.exited) = true ∧ (s.wave k).handler = false ∧ (s.wave k).com = none) →
        (∀ c ∈ s.cmds, c.wg = g → c.intoCore = false) →
        After (.workgroupRetire g) s fun t => (t.wg g).live = false ∧ (∀ k ∈ s.wgWaves g, (t.wave k).live = false)
          ∧ Instr.launchComplete x.launch ∈ t.agenda)
    ∧ (∀ a, s.Quiet → s.homeWait (.mem a) = none → s.homeSteps = [] → l.live = true → s.launchOver n = true → s.doneAt n = some a →
        (s.tenant l.tenant).traceCtl.getLsbD 8 = false →
        After (.launchComplete n) s fun t => Placed s t a (bytes64 (s.ld64 a + 1)) ∧ (t.launch n).live = false)
    ∧ (s.launchOver n = false → exec (.launchComplete n) s = .next s)

/-! ### Accounts, contexts and the assignment of cores -/

/-- R171, R210, R224 to R226, R414, R415: a flush notes its cut and, once no chunk with a slot before it is open, stores CORECYC; a folded slot
goes to the entry of its key, to a free one, or to the overflow count of its cause; a reload brings the written context into force
when no workgroup of the tenant is left; LAST_REJECT keeps its code and queue when it is cleared; a core passes to its new tenant
when it is empty. -/
def Obligations.AccountsAndContexts : Prop :=
  ∀ (s : State) (ten core : Nat),
    let x := s.tenant ten
    let c := s.core core
    (x.flushes.length < 2 → After (.acctFlush ten) s fun t => (t.tenant ten).flushes = x.flushes ++ [(x.cuts + 1, s.coreCycNow ten)]
      ∧ (t.tenant ten).cuts = x.cuts + 1 ∧ Instr.acctFlushPerform ten ∈ t.agenda)
    ∧ (2 ≤ x.flushes.length → exec (.acctFlush ten) s = .next s)
    ∧ (∀ cut cyc rest, x.flushes = (cut, cyc) :: rest → (∀ p ∈ s.waves, p.2.run.slots = [] ∧ p.2.com = none) → x.acctOn = true →
        After (.acctFlushPerform ten) s fun t => t.ld64 x.acctBase.toNat = BitVec.ofNat 64 cyc ∧ (t.tenant ten).flushes = rest)
    ∧ (∀ y, c.charges = [y] → (s.tenant y.tenant).flushes = [] → (s.tenant y.tenant).acctOn = true →
        let base := (s.tenant y.tenant).acctBase.toNat
        let m := bits (s.tenant y.tenant).acctBits 4 0
        let key := y.cause.code * 2 ^ 59 + bits y.pc 56 2
        let entry := fun (i : Nat) => base + 256 + 16 * ((key * 0xB5A37C19E46D2F8B % 2 ^ 64 / 2 ^ (64 - m) + i) % 2 ^ m)
        let used := fun (i : Nat) => (s.ld64 (entry i)).getLsbD 63
        (used 0 = false → After (.acctFold core) s fun t => Placed s t (entry 0) (bytes64 (BitVec.ofNat 64 (2 ^ 63 + key)) ++ bytes64 1)
            ∧ (t.core core).charges = [])
        ∧ (s.ld64 (entry 0) = BitVec.ofNat 64 (2 ^ 63 + key) → After (.acctFold core) s fun t =>
            Placed s t (entry 0 + 8) (bytes64 (s.ld64 (entry 0 + 8) + 1)))
        ∧ ((∀ i, i < 16 → used i = true ∧ s.ld64 (entry i) ≠ BitVec.ofNat 64 (2 ^ 63 + key)) → After (.acctFold core) s fun t =>
            Placed s t (base + 16 + 8 * y.cause.code) (bytes64 (s.ld64 (base + 16 + 8 * y.cause.code) + 1))))
    ∧ After (.tenantReload ten) s (fun t => (t.tenant ten).reload = true ∧ Instr.contextLoad ten ∈ t.agenda ∧ t.mem = s.mem)
    ∧ (x.reload = true → (∀ p ∈ s.wgs, p.2.tenant = ten → p.2.live = false) → After (.contextLoad ten) s fun t =>
        let y := t.tenant ten
        y.loaded = true ∧ y.reload = false ∧ y.tables = s.mem ∧ y.progcnt = List.replicate 16 0 ∧ y.lastLaunch = 0 ∧ t.mem = s.mem
        ∧ y.cur.tvec = x.block.tvec ∧ y.cur.jobSize = x.block.jobSize ∧ y.cur.jobPrefix = x.block.jobPrefix
        ∧ y.cur.rankCount = x.block.rankCount ∧ y.cur.psetCount = x.block.psetCount
        ∧ y.cur.jobRank = x.block.jobRank &&& 0x1FFFF ∧ y.cur.ptRoot = x.block.ptRoot &&& 0xFFFFFFFFFFE00000
        ∧ y.cur.saveBase = x.block.saveBase &&& 0x000FFFFFFFE00000 ∧ y.cur.saveSlots = x.block.saveSlots &&& 0xFFFF)
    ∧ (x.reload = false → exec (.contextLoad ten) s = .next s)
    ∧ After (.lastRejectClear ten) s (fun t => (t.tenant ten).lastReject = x.lastReject &&& 0x00FF00000000000F ∧ t.mem = s.mem)
    ∧ (∀ val : W64, s.recovery = false → c.out = false →
        let v := val.getLsbD 7
        let u := bits val 4 0
        (c.assigned ≠ v ∨ (v = true ∧ c.tenant ≠ u) → After (.coreAssign core val) s fun t =>
          (t.core core) = { c with pending := some (v, u) } ∧ Instr.coreHandover core ∈ t.agenda)
        ∧ (c.assigned = v → (v = true → c.tenant = u) → After (.coreAssign core val) s fun t => t.core core = { c with pending := none }))
    ∧ (∀ v u, c.pending = some (v, u) →
        (s.residents core = [] → After (.coreHandover core) s fun t =>
          t.core core = { c with assigned := v, tenant := u, pending := none, cyc := 0 } ∧ t.mem = s.mem
          ∧ (v = true → (s.tenant u).loaded = false → (t.tenant u).reload = true))
        ∧ (s.residents core ≠ [] → After (.coreHandover core) s fun t => t.core core = c ∧ t.mem = s.mem))

/-- R162, R164, R166, R168, R170 to R172, R429, R492: a memory window or an extent takes what is written, reserved bits and DRAIN aside, and what
it no longer covers leaves the translation caches; a release drains its extents, and ends when nothing uses them; a register reads as
it was written, its reserved bits zero. None of these writes memory. -/
def Obligations.WindowsAndRegisters : Prop :=
  ∀ (s : State) (ten e : Nat),
    let x := s.tenant ten
    (∀ lo hi, e < x.windows.length → After (.memoryWindowWrite ten e lo hi) s fun t => t.mem = s.mem
      ∧ (t.tenant ten).windows = x.windows.set e (lo &&& 0xE00001FFFFE00000, hi &&& 0x000001FFFFE00000)
      ∧ (∀ y ∈ t.tlb, y ∈ s.tlb ∧ (y.tenant = ten → y.tgt.toNat < 2 → (t.tenant ten).owns y.tgt.toNat y.pa y.size = true)))
    ∧ (∀ a b c d : W64, s.Quiet → e < x.extents.length → After (.extentAdd ten e [a, b, c, d]) s fun t => t.mem = s.mem
        ∧ (t.tenant ten).extents = x.extents.set e
            [(a &&& 0x800001FFFFE00000) ||| ((x.extents.getD e []).getD 0 0 &&& 0x4000000000000000), b &&& 0x000001FFFFE00000,
             c &&& 0xFFFFFFFFFFE00000, d])
    ∧ (∀ (j : Nat) (val mask : W64), s.Quiet → ten < 32 → e < 64 → x.extents.length = 64 → (x.extents.getD e []).length = 4 →
        (j, mask) ∈ ([(1, 0x000001FFFFE00000), (2, 0xFFFFFFFFFFE00000), (3, 0xFFFFFFFFFFFFFFFF)] : List (Nat × W64)) →
        let off := 0x10800 + 0x1000 * ten + 32 * e
        (After (.registerWrite 0 (off + 8 * j) val) s fun t => t.registerRead 0 (off + 8 * j) = val &&& mask ∧ t.mem = s.mem)
        ∧ After (.registerWrite 0 off val) s fun t => t.mem = s.mem
          ∧ t.registerRead 0 off = (val &&& 0x800001FFFFE00000) ||| ((x.extents.getD e []).getD 0 0 &&& 0x4000000000000000))
    ∧ (∀ m : W64, (∀ w ∈ x.extents, w.length = 4) → After (.extentRelease ten m) s fun t => t.mem = s.mem
        ∧ (t.tenant ten).extRelease = x.extRelease ||| m
        ∧ ∀ i, i < 64 → i < x.extents.length → m.getLsbD i = true → x.extRelease.getLsbD i = false →
            (((t.tenant ten).extents.getD i []).getD 0 0).getLsbD 62 = true ∧ Instr.extentReleaseComplete ten i ∈ t.agenda)
    ∧ (x.extRelease.getLsbD e = true → e < 64 → e < x.extents.length → s.Quiet →
        (s.extentBusy ten (x.extents.getD e []) = false → After (.extentReleaseComplete ten e) s fun t => t.mem = s.mem
          ∧ (t.tenant ten).extRelease.getLsbD e = false ∧ (((t.tenant ten).extents.getD e []).getD 0 0).getLsbD 63 = false
          ∧ (((t.tenant ten).extents.getD e []).getD 0 0).getLsbD 62 = false ∧ Out.extentDone ten e ∈ t.outbox)
        ∧ (s.extentBusy ten (x.extents.getD e []) = true → exec (.extentReleaseComplete ten e) s = .next s))
    ∧ (∀ c, c < 256 → (s.registerRead 0 (0x2000 + 8 * c)).getLsbD 8 = (s.core c).pending.isSome)
    ∧ (∀ fn off val, off % 8 ≠ 0 → exec (.registerWrite fn off val) s = .next s)
    ∧ (∀ off val, off ∈ [0x3000, 0x3100, 0x3108, 0x3110] → After (.registerWrite 0 off val) s fun t =>
        t.registerRead 0 off = val &&& 0x000FFFFFFFFFF000 ∧ t.mem = s.mem)
    ∧ (∀ off val mask, s.recovery = false → ten < 32 →
        (off, mask) ∈ ([(0x10000, 0xFFFFFFFFFFE00000), (0x10008, 0xFFFFFFFFFFFFFE00), (0x10010, 0xFFFFFFFFFFFFFFE0), (0x10018, 0xFFFFFFFFFFFFFFFF),
          (0x10020, 0x1FFFF), (0x10028, 0xFFFFFFFFFFFFFFFF), (0x10030, 0xFFFFFFFFFFFFFFFF), (0x10048, 0x0000FFFFFFFF0000),
          (0x10050, 0xFFFFFFFFFFFFFFC0), (0x10058, 0xFFFFFFFFFFFFFFFF), (0x10100, 0xFFFFFFFFFFFFFFFF), (0x10820, 0xFFFFFFFFFFFFF000),
          (0x10828, 0x1F), (0x10860, 0x000FFFFFFFE00000), (0x10868, 0xFFFF), (0x10870, 0xFFFFFFFF0000001F), (0x30000, 0xBFBFBFBFBFBFBFBF),
          (0x80010, 0xFFFFFFFFFFFFFFFF), (0x80018, 0xE000000000001F3F), (0x80020, 0xFFFFFFFFFFFFFFFF), (0x80040, 0xFFFFFFFFFFFF0000)]
            : List (Nat × W64)) →
        After (.registerWrite (ten + 1) off val) s fun t => t.registerRead (ten + 1) off = val &&& mask ∧ t.mem = s.mem)

/-! ### Errors, spares and power -/

/-- R40, R73, R75, R416 to R421, R426 to R428, R490, R491: an uncorrectable error leaves its mark where the data lie (a poisoned granule, a
register, a scratchpad line, a bank), a corrected one leaves all data as they are; a clear writes zeros and the bit; a unit that passes its
test leaves quarantine, one that fails is mapped out; the auditor replays on the other half and reports a difference; banks and stores
change their power state; the operating point goes down over a limit, which breaks a clock lock, and back after calm windows. -/
def Obligations.ErrorsAndPower : Prop :=
  ∀ s : State, s.Quiet → bits s.errN 4 0 < 6 →
    (∀ val p, clearPage val = some p →
      (s.clears.length < 256 → exec (.poisonClear val) s = .next ({ s with clears := s.clears ++ [val] }.push [.poisonClearPerform]))
      ∧ (s.clears = [val] → s.Open → (∀ i, (s.dirAt i).owner = none) → After .poisonClearPerform s fun t =>
          t.clears = [] ∧ t.poisoned (4096 * p) = false ∧ (∀ i, i < 4096 → t.peek (.mem (4096 * p + i)) = 0)
          ∧ ∀ a, a / 4096 ≠ p → a ≠ s.poisonBase.toNat + p / 8 → t.peek (.mem a) = s.peek (.mem a)))
    ∧ (∀ a, After (.memoryError (.memory a) false) s (fun t => t.poisoned a = true
          ∧ ∀ b, b ≠ s.poisonBase.toNat + a / 4096 / 8 → t.peek (.mem b) = s.peek (.mem b))
        ∧ After (.memoryError (.memory a) true) s fun t => t.mem = s.mem ∧ t.waves = s.waves)
    ∧ (∀ k v, (s.wave k).com = none → After (.memoryError (.storeReg k v) false) s (fun t => (t.wave k).badLanes v = 0xFFFFFFFFFFFFFFFF ∧ t.mem = s.mem)
        ∧ After (.memoryError (.storeReg k v) true) s fun t => t.wave k = s.wave k ∧ t.mem = s.mem)
    ∧ (∀ g line, After (.memoryError (.scratchLine g line) false) s fun t => Tab.get false (t.wg g).spoiled line = true ∧ t.mem = s.mem)
    ∧ (∀ c b, After (.memoryError (.accBank c b) false) s (fun t => b ∈ (t.core c).badBanks ∧ ∃ x, (2, c, b, x) ∈ t.quarantine)
        ∧ (0 < Tab.get 0 (s.core c).banks b → Tab.get 0 (s.core c).banks b + 4095 ≤ s.cycle →
            After (.bankDrowsy c b) s fun t => Tab.get 0 (t.core c).banks b = 0 ∧ t.mem = s.mem)
        ∧ (Tab.get 0 (s.core c).banks b = 0 ∨ s.cycle < Tab.get 0 (s.core c).banks b + 4095 → exec (.bankDrowsy c b) s = .next s)
        ∧ (s.residents c = [] → (s.core c).storeOff = false → (s.core c).storeUsed + 65536 ≤ s.cycle →
            After (.storePowerOff c) s fun t => (t.core c).storeOff = true ∧ (t.core c).l1 = [] ∧ t.mem = s.mem)
        ∧ (s.residents c ≠ [] ∨ s.cycle < (s.core c).storeUsed + 65536 → exec (.storePowerOff c) s = .next s))
    ∧ (∀ c, After (.memoryError (.icache c) true) s fun t => (t.core c).icache = [])
    ∧ (∀ u c n, s.quarantine.find? (fun q => q.1 == u && q.2.1 == c && q.2.2.1 == n) = some (u, c, n, true) → u ≠ 6 →
        After (.selfTestDone u c n true) s (fun t => t.quarantine = s.quarantine.erase (u, c, n, true) ∧ t.mappedOut = s.mappedOut)
        ∧ After (.selfTestDone u c n false) s fun t => t.quarantine = s.quarantine.erase (u, c, n, true)
            ∧ t.mappedOut = s.mappedOut ++ [(u, c, n)])
    ∧ (∀ g c err trapped, (s.wg g).audited = true →
        ((s.wg g).replaySig = none → c < 256 → c / 128 ≠ (s.wg g).core / 128 → s.takes (s.wg g).tenant c = true →
          After (.auditReplay g c err trapped) s fun t => (t.wg g).replaySig = some ((s.wg g).sig + err, c, trapped)
            ∧ Instr.auditCompare g ∈ t.agenda)
        ∧ ∀ sig, (s.wg g).replaySig = some (sig, c, trapped) →
          let n := (s.wg g).launch
          let stat := fun (t : State) (i : Nat) => (t.tenant (s.wg g).tenant).auditStat.extractLsb' i 16
          (sig = (s.wg g).sig → trapped = false → After (.auditCompare g) s fun t => (t.wg g).audited = false
            ∧ stat t 0 = stat s 0 + 1 ∧ stat t 32 = stat s 32 ∧ t.mem = s.mem)
          ∧ (∀ a, sig ≠ (s.wg g).sig ∨ trapped = true → s.doneAt n = some a → s.homeWait (.mem a) = none → s.homeSteps = [] → (s.ld64 (a + 16)).getLsbD 63 = false →
              After (.auditCompare g) s fun t => (t.wg g).audited = false ∧ stat t 0 = stat s 0 + 1 ∧ stat t 32 = stat s 32 + 1
                ∧ t.ld64 (a + 16) = BitVec.ofNat 64 (2 ^ 63 + 0x17 * 2 ^ 48 + (if trapped then 2 else 1) * 2 ^ 40 + (s.wg g).index % 2 ^ 32)
                ∧ (6, c, c, false) ∈ t.quarantine ∧ (6, (s.wg g).core, (s.wg g).core, false) ∈ t.quarantine))
    ∧ (∀ watts celsius,
        let cap := bits s.powerCap 15 0
        (cap < watts ∨ 105 < celsius → After (.powerWindow watts celsius) s fun t =>
          t.point = [3, 0, 1, 4, 5, 5].getD s.point 5 ∧ t.clockLock = none ∧ t.calmWindows = 0)
        ∧ (watts ≤ cap → celsius ≤ 105 →
            (∀ o p, s.clockLock = some (o, p) → After (.powerWindow watts celsius) s fun t => t.point = p ∧ t.clockLock = some (o, p))
            ∧ (s.clockLock = none → 10 * watts < 9 * cap → celsius < 95 → 99 ≤ s.calmWindows →
                powerOrder.idxOf s.softPoint < powerOrder.idxOf s.point → s.point < 6 →
                After (.powerWindow watts celsius) s fun t => t.point = [1, 2, 2, 0, 3, 4].getD s.point 5 ∧ t.calmWindows = 0)
            ∧ (s.clockLock = none → 9 * cap ≤ 10 * watts ∨ 95 ≤ celsius → After (.powerWindow watts celsius) s fun t =>
                t.point = s.point ∧ t.calmWindows = 0)))

/-! ### The log and the trace ring -/

/-- R431, R440, R441, R448, R450, R495: logging begins with a window, and ends with a final marker; a window opens with a marker of the next number
and the snapshot; LOG_HEAD takes the index of a kept marker alone; MARK asks for a window where logging is on; a sample records what port 0
was charged. -/
def Obligations.LogAndTrace : Prop :=
  ∀ (s : State) (ten : Nat),
    let x := s.tenant ten
    let size := 2 ^ bits x.logCtl 4 0
    let at_ := x.logBase.toNat + 32 * (x.logTail % size)
    (∀ val, x.logging = false → 16 ≤ bits val 4 0 → bits val 4 0 ≤ 30 → bits val 62 61 ≠ 3 → After (.logEnable ten val) s fun t =>
      (t.tenant ten).logging = true ∧ (t.tenant ten).logN = bits val 4 0 ∧ (t.tenant ten).logMode = bits val 62 61
      ∧ (t.tenant ten).logHead = x.logTail ∧ Instr.logWindowOpen ten ∈ t.agenda ∧ t.mem = s.mem)
    ∧ (∀ val, x.logging = false → bits val 4 0 < 16 ∨ 30 < bits val 4 0 → exec (.logEnable ten val) s = .next s)
    ∧ (s.waves = [] → x.logging = true → x.revTarget = none → bits x.logCtl 62 61 ≠ 3 → After (.logDisable ten) s fun t =>
        (t.tenant ten).logging = false
        ∧ Placed s t at_ (bytes64 (BitVec.ofNat 64 (2 * 2 ^ 58) ||| BitVec.ofNat 64 x.logWin) ++ bytes64 0 ++ bytes64 (BitVec.ofNat 64 s.lastTs) ++ bytes64 0))
    ∧ (s.waves = [] → s.wgs = [] → s.launches = [] → s.cmds = [] → x.logging = true → x.windowWanted = true → x.reverse = none → x.revTarget = none →
        x.progcnt.length = 16 → x.logTail - x.logHead + 8 ≤ size → x.traceCtl.getLsbD 8 = false → After (.logWindowOpen ten) s fun t =>
        let n := (x.logWin + 1) % 2 ^ 32
        (t.tenant ten).logWin = n ∧ (t.tenant ten).logTail = x.logTail + 6 ∧ (t.tenant ten).markers = x.markers ++ [(x.logTail, n)]
        ∧ (t.tenant ten).windowWanted = false
        ∧ t.ld64 at_ = BitVec.ofNat 64 (2 ^ 58) ||| BitVec.ofNat 64 n ∧ t.ld64 (at_ + 8) = 160 ∧ t.ld64 (at_ + 16) = BitVec.ofNat 64 s.lastTs)
    ∧ (∀ val, s.waves = [] → x.intWait = [] →
        (∀ m, x.markers.find? (fun m => m.1 % size == val.toNat) = some m → After (.logHeadWrite ten val) s fun t =>
          (t.tenant ten).logHead = m.1 ∧ (t.tenant ten).logOldest = m.2 ∧ t.mem = s.mem)
        ∧ (x.markers.find? (fun m => m.1 % size == val.toNat) = none → exec (.logHeadWrite ten val) s = .next s))
    ∧ (s.dbgBusy ten = false →
        (x.logging = true → After (.markWindow ten) s fun t => t.dbgBusy ten = true ∧ (t.tenant ten).windowWanted = true
          ∧ Instr.logWindowOpen ten ∈ t.agenda ∧ t.mem = s.mem)
        ∧ (x.logging = false → After (.markWindow ten) s fun t => ((t.tenant ten).dbgStat.extractLsb' 0 16) = 3 ∧ t.mem = s.mem))
    ∧ (∀ core k l cause pc, (s.core core).assigned = true → (s.core core).tenant = ten → (s.core core).port0 = (some (k, l), cause, pc) →
        cause ≠ .idle → cause ≠ .empty → x.traceCtl.getLsbD 8 = true → x.traceCtl.getLsbD 25 = true → x.reverse = none → x.traceLost = 0 →
        x.traceTail - x.traceHead < 2 ^ bits x.traceCtl 4 0 → ten < 32 → (s.wave k).idx < 32 → l < 64 → After (.traceSample core) s fun t =>
          let a := x.traceBase.toNat + 32 * (x.traceTail % 2 ^ bits x.traceCtl 4 0)
          (t.tenant ten).traceTail = x.traceTail + 1 ∧ t.ld64 (a + 16) = BitVec.ofNat 64 (s.time / 756) ∧ t.ld64 (a + 24) = pc
          ∧ (t.ld64 (a + 8)).extractLsb' 0 32 = BitVec.ofNat 32 cause.code ∧ (t.ld64 a).extractLsb' 56 8 = 9)
    ∧ (∀ core, (s.core core).assigned = false → exec (.traceSample core) s = .next s)

/-! ### The debugger -/

/-- R430 to R434, R451 to R454, R456, R458: HALT stands the covered lanes where their chunk began, and is done when all of them stand; RESUME lets
them go on; STEP lets a wave run one chunk; the reverse commands take memory and the context back to a point of the log; a trial runs for
its windows; a permitted tenant locks the clock; a halted lane's counter and registers can be written, and memory be read and written
through the aperture. The kept contexts by which the model goes back
are its own (log entry 30). -/
def Obligations.Debugging : Prop :=
  ∀ (s : State) (ten : Nat),
    let x := s.tenant ten
    let result := fun (t : State) (r : Nat) => t.dbgBusy ten = false ∧ ((t.tenant ten).dbgStat.extractLsb' 0 16).toNat = r
    (∀ sel, x.haltSel = some sel → s.haltDone ten sel = true → After (.haltComplete ten) s fun t => result t 0 ∧ (t.tenant ten).haltSel = none)
    ∧ (s.trialOn ten = true → x.trialEnd ≤ s.cycle → After (.trialEnd ten) s fun t => t.trialOn ten = false)
    ∧ (s.cycle < x.trialEnd → exec (.trialEnd ten) s = .next s)
    ∧ (∀ k val, s.selWave ten = some k →
        (∀ l, l < 64 → l < (s.wave k).lanes.length → After (.debugViewWrite ten (0x4000 + 8 * l) val) s fun t =>
          ((t.wave k).lane l).pc = if ((s.wave k).lane l).halted then val else ((s.wave k).lane l).pc)
        ∧ (∀ v j, j < 32 → v < (s.wg (s.wave k).wg).alloc → ((s.wave k).lane (2 * j)).halted = true → ((s.wave k).lane (2 * j + 1)).halted = true →
            After (.debugViewWrite ten (0x10000 + 256 * v + 8 * j) val) s fun t =>
              ((t.wave k).reg v (2 * j + 1) ++ (t.wave k).reg v (2 * j) : BitVec 64) = val))
    ∧ (s.dbgBusy ten = false → (s.Quiet → Tab.wf ({} : Wave) s.waves = true → s.selects ten x.lsel = true → x.lsel.level ≤ 4 →
      (∀ f, After (.haltLanes ten f) s fun t => t.dbgBusy ten = true ∧ (t.tenant ten).haltSel = some x.lsel)
      ∧ (∀ f k l, k ∈ s.tenantWaves ten → s.covers x.lsel k l = true → l < 64 → l < (s.wave k).lanes.length → l < (s.wave k).run.start.length →
          (s.wg (s.wave k).wg).saved = false → (s.wg (s.wave k).wg).saving = false → (s.wave k).handler = false →
          After (.haltLanes ten f) s fun t => ((t.wave k).lane l).halted = true)
      ∧ (x.revTarget = none → After (.resumeLanes ten) s fun t => result t 0 ∧ (t.tenant ten).frozen = false
          ∧ ∀ k ∈ s.tenantWaves ten, ∀ l, l < 64 → s.covers x.lsel k l = true → ((t.wave k).lane l).halted = false))
    ∧ (∀ k, s.selWave ten = some k → (s.wg (s.wave k).wg).saved = false → (s.wave k).lanes.all (fun l => l.exited || l.halted) = true →
        (s.wave k).lanes.all (fun l => l.exited && !l.halted) = false → 1 ≤ bits x.dbgArg 12 0 → bits x.dbgArg 12 0 ≤ 4096 →
        After (.stepWave ten) s fun t => result t 0 ∧ (t.wave k).run.step = some (bits x.dbgArg 12 0)
          ∧ ∀ l, l < 64 → ((t.wave k).lane l).halted = false)
    ∧ (x.logging = true → s.allHalted ten = true → x.frozen = true → s.packets = [] → x.revExtra = none → s.newestSeal ten = none →
        let at_ := fun (t : State) (i : Nat) => (t.tenant ten).revTarget = some i ∧ t.dbgBusy ten = false ∧ ((t.tenant ten).dbgStat.extractLsb' 0 16) = 0
        (∀ i w e, x.markers = [(i, w)] → x.past = [] → bits x.dbgArg 31 0 = w → x.present = i + 2 + s.snapLen ten i →
          s.logEntry ten (i + 1 + s.snapLen ten i) = e → entryKind e = 4 → bits (e.getD 0 0) 54 53 = 0 →
          After (.revwin ten) s fun t => at_ t (i + 1 + s.snapLen ten i) ∧ bits (t.tenant ten).dbgStat 47 16 = w
            ∧ Placed s t (bits (e.getD 0 0) 51 0) (leBytes (2 ^ bits (e.getD 0 0) 57 55) ((e.getD 1 0).toNat + 2 ^ 64 * (e.getD 2 0).toNat)))
        ∧ (∀ p rest, x.pasts = p :: rest → s.coresKept ten p = true → p.packets = [] →
            let back := fun (t : State) => at_ t p.at_ ∧ (t.tenant ten).progcnt = p.progcnt ∧ (t.tenant ten).lastLaunch = p.lastLaunch
            (p.isWave x.lsel = true → x.lsel.level = 3 → After (.revchunk ten) s back)
            ∧ (s.matchIn ten p = some 0 → After (.revcont ten) s back))
        ∧ (x.pasts = [] → After (.revcont ten) s fun t => result t 7))
    ∧ (x.logging = false → After (.revchunk ten) s (fun t => result t 3) ∧ After (.revwin ten) s (fun t => result t 3)
        ∧ After (.revcont ten) s fun t => result t 3)
    ∧ (bits x.trialCtl 7 0 ≠ 0 → bits x.trialCtl 63 32 ≠ 0 → s.trialOn ten = false → After (.trialgo ten) s fun t =>
        result t 0 ∧ t.trialOn ten = true ∧ (t.tenant ten).progcnt = List.replicate 16 0
        ∧ (t.tenant ten).trialEnd = s.cycle + 1024 * bits x.trialCtl 63 32)
    ∧ (s.trialOn ten = true → After (.trialstop ten) s fun t => result t 0 ∧ t.trialOn ten = false)
    ∧ (bits x.dbgArg 3 0 ≤ 5 → s.clkPermit.getLsbD ten = true → (∀ h, s.clockLock = some h → h.1 = ten) →
        After (.clklock ten) s fun t => result t 0 ∧ t.clockLock = some (ten, bits x.dbgArg 3 0) ∧ t.softPoint = bits x.dbgArg 3 0)
    ∧ (∀ p, s.clockLock = some (ten, p) → After (.clkfree ten) s fun t => result t 0 ∧ t.clockLock = none)
    ∧ (∀ off n, s.aperturePlaces ten off n .read = none → After (.apertureRead ten off n) s fun t =>
        result t 1 ∧ Out.aperture (List.replicate n 0xFF) ∈ t.outbox)
    ∧ (∀ off a n, 0 < n → s.Quiet → s.Open → s.hostQueue = [] → (∀ i, (s.dirAt i).owner = none) → (∀ i, (s.tenant i).reverse = none) →
        let run := (List.range n).map fun i => Loc.mem (a + i)
        (s.aperturePlaces ten off n .read = some run → After (.apertureRead ten off n) s fun t =>
          t.mem = s.mem ∧ Out.aperture (s.peekN (.mem a) n) ∈ t.outbox)
        ∧ (∀ data, data.length = n → s.aperturePlaces ten off n .write = some run → (∀ i, i < n → s.poisoned (a + i) = false) →
            After (.apertureWrite ten off data) s fun t => Placed s t a data)))
end

