-- ==== Sys2Proof/Laws/Tab.lean ====
section
/-!
SUPPORT. What the operations on sparse tables do: reading after writing, and the canonical form that every write keeps.
-/

namespace Sys2Proof

section
variable {α : Type} (d : α)

@[simp] theorem Tab.get_nil (k : Nat) : Tab.get d [] k = d := rfl
theorem Tab.get_cons (j : Nat) (x : α) (t : Tab α) (k : Nat) :
    Tab.get d ((j, x) :: t) k = if j = k then x else Tab.get d t k := rfl

theorem Tab.get_drop (t : Tab α) (k j : Nat) : Tab.get d (Tab.drop t k) j = if j = k then d else Tab.get d t j := by
  induction t with
  | nil => simp [Tab.drop]
  | cons p t ih =>
    obtain ⟨i, x⟩ := p
    simp only [Tab.drop] at ih ⊢
    by_cases h : i = k
    · subst h
      simp only [List.filter, bne_self_eq_false, ih, Tab.get_cons]
      by_cases e : j = i
      · simp [e]
      · simp [e, Ne.symm e]
    · simp only [List.filter, bne_iff_ne.mpr h, Tab.get_cons, ih]
      by_cases e : i = j
      · subst e; simp [h]
      · simp [e]

variable [DecidableEq α]

/-- Reading after one write: the value at its key, every other key as before. -/
theorem Tab.get_put (t : Tab α) (k j : Nat) (v : α) : Tab.get d (Tab.put d t k v) j = if j = k then v else Tab.get d t j := by
  induction t with
  | nil =>
    simp only [Tab.put]
    split
    · rename_i h; subst h; simp
    · simp only [Tab.get_cons, Tab.get_nil]; simp [eq_comm]
  | cons p t ih =>
    obtain ⟨i, x⟩ := p
    simp only [Tab.put]
    by_cases h : k < i
    · rw [if_pos h]
      by_cases hv : v = d
      · rw [if_pos hv, Tab.get_cons, Tab.get_drop, Tab.get_cons]
        by_cases e : j = k
        · subst e; simp [hv, Nat.ne_of_gt h]
        · simp [e]
      · rw [if_neg hv, Tab.get_cons]; simp [eq_comm]
    · rw [if_neg h]
      by_cases e : k = i
      · subst e
        rw [if_pos rfl]
        by_cases hv : v = d
        · rw [if_pos hv, Tab.get_drop, Tab.get_cons, hv]
          by_cases e : j = k
          · simp [e]
          · simp [e, Ne.symm e]
        · rw [if_neg hv, Tab.get_cons, Tab.get_cons]
          by_cases e : j = k
          · simp [e]
          · simp [e, Ne.symm e]
      · rw [if_neg e, Tab.get_cons, Tab.get_cons, ih]
        by_cases f : i = j
        · subst f; simp [Ne.symm e]
        · simp [f]

@[simp] theorem Tab.get_put_same (t : Tab α) (k : Nat) (v : α) : Tab.get d (Tab.put d t k v) k = v := by simp [Tab.get_put]
theorem Tab.get_put_ne (t : Tab α) {k j : Nat} (h : j ≠ k) (v : α) : Tab.get d (Tab.put d t k v) j = Tab.get d t j := by
  simp [Tab.get_put, h]

/-! ### The canonical form -/

theorem Tab.wfFrom_mono {t : Tab α} {a b : Option Nat} (h : Tab.wfFrom d b t = true) (le : ∀ k, b.all (· < k) = true → a.all (· < k) = true) :
    Tab.wfFrom d a t = true := by
  cases t with
  | nil => simp [Tab.wfFrom]
  | cons p t =>
    simp only [Tab.wfFrom, Bool.and_eq_true] at h ⊢
    exact ⟨⟨le _ h.1.1, h.1.2⟩, h.2⟩

theorem Tab.wfFrom_drop {t : Tab α} {a : Option Nat} (k : Nat) (h : Tab.wfFrom d a t = true) : Tab.wfFrom d a (Tab.drop t k) = true := by
  induction t generalizing a with
  | nil => simp [Tab.drop, Tab.wfFrom]
  | cons p t ih =>
    obtain ⟨i, x⟩ := p
    simp only [Tab.wfFrom, Bool.and_eq_true] at h
    simp only [Tab.drop, List.filter] at ih ⊢
    split
    · simp only [Tab.wfFrom, Bool.and_eq_true]; exact ⟨h.1, ih h.2⟩
    · refine ih (Tab.wfFrom_mono d h.2 fun k hk => ?_)
      cases a with
      | none => simp
      | some a => simp at hk h ⊢; omega

theorem Tab.wfFrom_put {t : Tab α} {a : Option Nat} {k : Nat} (v : α) (h : Tab.wfFrom d a t = true) (ha : a.all (· < k) = true) :
    Tab.wfFrom d a (Tab.put d t k v) = true := by
  induction t generalizing a with
  | nil =>
    simp only [Tab.put]
    split <;> simp_all [Tab.wfFrom]
  | cons p t ih =>
    obtain ⟨i, x⟩ := p
    simp only [Tab.wfFrom, Bool.and_eq_true] at h
    simp only [Tab.put]
    split
    · rename_i lt
      split
      · simp only [Tab.wfFrom, Bool.and_eq_true]; exact ⟨h.1, Tab.wfFrom_drop d k h.2⟩
      · rename_i hv; simp only [Tab.wfFrom, Bool.and_eq_true]; exact ⟨⟨ha, by simpa using hv⟩, ⟨by simpa using lt, h.1.2⟩, h.2⟩
    · rename_i nlt
      split
      · rename_i e; subst e
        split
        · refine Tab.wfFrom_drop d k (Tab.wfFrom_mono d h.2 fun j hj => ?_)
          cases a with
          | none => simp
          | some a => simp at hj ha ⊢; omega
        · rename_i hv; simp only [Tab.wfFrom, Bool.and_eq_true]; exact ⟨⟨ha, by simpa using hv⟩, h.2⟩
      · rename_i ne
        simp only [Tab.wfFrom, Bool.and_eq_true]
        exact ⟨h.1, ih h.2 (by simp; omega)⟩

/-- Every write keeps the canonical form. -/
theorem Tab.wf_put {t : Tab α} (k : Nat) (v : α) (h : Tab.wf d t = true) : Tab.wf d (Tab.put d t k v) = true :=
  Tab.wfFrom_put d v h rfl

theorem Tab.get_below {t : Tab α} {a k : Nat} (h : Tab.wfFrom d (some a) t = true) (le : k ≤ a) : Tab.get d t k = d := by
  induction t generalizing a with
  | nil => rfl
  | cons p t ih =>
    obtain ⟨i, x⟩ := p
    simp only [Tab.wfFrom, Bool.and_eq_true] at h
    have : a < i := by simpa using h.1.1
    rw [Tab.get_cons, if_neg (by omega)]
    exact ih h.2 (by omega)

theorem Tab.ext_from {t u : Tab α} {a b : Option Nat} (ht : Tab.wfFrom d a t = true) (hu : Tab.wfFrom d b u = true)
    (e : ∀ k, Tab.get d t k = Tab.get d u k) : t = u := by
  induction t generalizing a b u with
  | nil =>
    cases u with
    | nil => rfl
    | cons p u =>
      obtain ⟨i, x⟩ := p
      simp only [Tab.wfFrom, Bool.and_eq_true] at hu
      have := e i
      simp only [Tab.get_cons, if_true, Tab.get_nil] at this
      exact absurd this.symm (by simpa using hu.1.2)
  | cons p t ih =>
    obtain ⟨i, x⟩ := p
    simp only [Tab.wfFrom, Bool.and_eq_true] at ht
    cases u with
    | nil =>
      have := e i
      simp only [Tab.get_cons, if_true, Tab.get_nil] at this
      exact absurd this (by simpa using ht.1.2)
    | cons q u =>
      obtain ⟨j, y⟩ := q
      simp only [Tab.wfFrom, Bool.and_eq_true] at hu
      have hi := e i
      have hj := e j
      simp only [Tab.get_cons, if_true] at hi hj
      have ij : i = j := by
        rcases Nat.lt_trichotomy i j with h | h | h
        · rw [if_neg (Nat.ne_of_gt h), Tab.get_below d hu.2 (Nat.le_of_lt h)] at hi
          exact absurd hi (by simpa using ht.1.2)
        · exact h
        · rw [if_neg (Nat.ne_of_gt h), Tab.get_below d ht.2 (Nat.le_of_lt h)] at hj
          exact absurd hj.symm (by simpa using hu.1.2)
      subst ij
      rw [if_pos rfl] at hi
      subst hi
      congr 1
      refine ih ht.2 hu.2 fun k => ?_
      have ek := e k
      simp only [Tab.get_cons] at ek
      by_cases h : i = k
      · subst h; rw [Tab.get_below d ht.2 (Nat.le_refl _), Tab.get_below d hu.2 (Nat.le_refl _)]
      · simpa [h] using ek

/-- Equal contents in canonical form are equal tables. -/
theorem Tab.ext {t u : Tab α} (ht : Tab.wf d t = true) (hu : Tab.wf d u = true) (e : ∀ k, Tab.get d t k = Tab.get d u k) : t = u :=
  Tab.ext_from d ht hu e

end

theorem Tab.wf_store {t : Tab Byte} (a : Nat) (bs : List Byte) (h : Tab.wf 0 t = true) : Tab.wf 0 (Tab.store t a bs) = true := by
  induction bs generalizing t a with
  | nil => exact h
  | cons b bs ih => exact ih _ (Tab.wf_put 0 a b h)

/-- Reading after a run of bytes has been stored. -/
theorem Tab.get_store (t : Tab Byte) (a : Nat) (bs : List Byte) (k : Nat) :
    Tab.get 0 (Tab.store t a bs) k = if a ≤ k ∧ k < a + bs.length then bs.getD (k - a) 0 else Tab.get 0 t k := by
  induction bs generalizing t a with
  | nil => simp [Tab.store]
  | cons b bs ih =>
    rw [Tab.store, ih, Tab.get_put]
    by_cases h : k = a
    · subst h; simp
    · by_cases l : a ≤ k ∧ k < a + (b :: bs).length
      · simp only [List.length_cons] at l
        rw [if_pos (by omega), if_pos (by simp only [List.length_cons]; omega)]
        obtain ⟨n, hn⟩ : ∃ n, k - a = n + 1 := ⟨k - a - 1, by omega⟩
        rw [hn, show k - (a + 1) = n by omega]; simp
      · simp only [List.length_cons] at l
        rw [if_neg (by omega), if_neg h, if_neg (by simp only [List.length_cons]; omega)]

end Sys2Proof
end

