-- ==== Sys2Proof/Laws/State.lean ====
section
/-!
SUPPORT. What each update of the state leaves of each field, and what the indexed reads find after it.
-/

namespace Sys2Proof.Machine

variable (s : State)

/-! ### `setWave` -/

@[simp] theorem State.setWave_mem (k : Nat) (w : Wave) : (s.setWave k w).mem = s.mem := rfl
@[simp] theorem State.setWave_wgs (k : Nat) (w : Wave) : (s.setWave k w).wgs = s.wgs := rfl
@[simp] theorem State.setWave_cores (k : Nat) (w : Wave) : (s.setWave k w).cores = s.cores := rfl
@[simp] theorem State.setWave_launches (k : Nat) (w : Wave) : (s.setWave k w).launches = s.launches := rfl
@[simp] theorem State.setWave_tenants (k : Nat) (w : Wave) : (s.setWave k w).tenants = s.tenants := rfl
@[simp] theorem State.setWave_cmds (k : Nat) (w : Wave) : (s.setWave k w).cmds = s.cmds := rfl
@[simp] theorem State.setWave_lastTs (k : Nat) (w : Wave) : (s.setWave k w).lastTs = s.lastTs := rfl
@[simp] theorem State.setWave_packets (k : Nat) (w : Wave) : (s.setWave k w).packets = s.packets := rfl
@[simp] theorem State.setWave_resHolder (k : Nat) (w : Wave) : (s.setWave k w).resHolder = s.resHolder := rfl
@[simp] theorem State.setWave_resQueue (k : Nat) (w : Wave) : (s.setWave k w).resQueue = s.resQueue := rfl
@[simp] theorem State.setWave_tlb (k : Nat) (w : Wave) : (s.setWave k w).tlb = s.tlb := rfl
@[simp] theorem State.setWave_walkCache (k : Nat) (w : Wave) : (s.setWave k w).walkCache = s.walkCache := rfl
@[simp] theorem State.setWave_counts (k : Nat) (w : Wave) : (s.setWave k w).counts = s.counts := rfl
@[simp] theorem State.setWave_dir (k : Nat) (w : Wave) : (s.setWave k w).dir = s.dir := rfl
@[simp] theorem State.setWave_copies (k : Nat) (w : Wave) : (s.setWave k w).copies = s.copies := rfl
@[simp] theorem State.setWave_links (k : Nat) (w : Wave) : (s.setWave k w).links = s.links := rfl
@[simp] theorem State.setWave_hostLines (k : Nat) (w : Wave) : (s.setWave k w).hostLines = s.hostLines := rfl
@[simp] theorem State.setWave_snoop (k : Nat) (w : Wave) : (s.setWave k w).snoop = s.snoop := rfl
@[simp] theorem State.setWave_invWaits (k : Nat) (w : Wave) : (s.setWave k w).invWaits = s.invWaits := rfl
@[simp] theorem State.setWave_invDone (k : Nat) (w : Wave) : (s.setWave k w).invDone = s.invDone := rfl
@[simp] theorem State.setWave_hostQueue (k : Nat) (w : Wave) : (s.setWave k w).hostQueue = s.hostQueue := rfl
@[simp] theorem State.setWave_flips (k : Nat) (w : Wave) : (s.setWave k w).flips = s.flips := rfl
@[simp] theorem State.setWave_hdmBase (k : Nat) (w : Wave) : (s.setWave k w).hdmBase = s.hdmBase := rfl
@[simp] theorem State.setWave_pbr (k : Nat) (w : Wave) : (s.setWave k w).pbr = s.pbr := rfl
@[simp] theorem State.setWave_homeSteps (k : Nat) (w : Wave) : (s.setWave k w).homeSteps = s.homeSteps := rfl
@[simp] theorem State.setWave_arrivals (k : Nat) (w : Wave) : (s.setWave k w).arrivals = s.arrivals := rfl
@[simp] theorem State.setWave_renewed (k : Nat) (w : Wave) : (s.setWave k w).renewed = s.renewed := rfl
@[simp] theorem State.setWave_recalls (k : Nat) (w : Wave) : (s.setWave k w).recalls = s.recalls := rfl
@[simp] theorem State.setWave_time (k : Nat) (w : Wave) : (s.setWave k w).time = s.time := rfl
@[simp] theorem State.setWave_cycle (k : Nat) (w : Wave) : (s.setWave k w).cycle = s.cycle := rfl
@[simp] theorem State.setWave_point (k : Nat) (w : Wave) : (s.setWave k w).point = s.point := rfl
@[simp] theorem State.setWave_softPoint (k : Nat) (w : Wave) : (s.setWave k w).softPoint = s.softPoint := rfl
@[simp] theorem State.setWave_clockLock (k : Nat) (w : Wave) : (s.setWave k w).clockLock = s.clockLock := rfl
@[simp] theorem State.setWave_calmWindows (k : Nat) (w : Wave) : (s.setWave k w).calmWindows = s.calmWindows := rfl
@[simp] theorem State.setWave_errBase (k : Nat) (w : Wave) : (s.setWave k w).errBase = s.errBase := rfl
@[simp] theorem State.setWave_errN (k : Nat) (w : Wave) : (s.setWave k w).errN = s.errN := rfl
@[simp] theorem State.setWave_errHead (k : Nat) (w : Wave) : (s.setWave k w).errHead = s.errHead := rfl
@[simp] theorem State.setWave_errTail (k : Nat) (w : Wave) : (s.setWave k w).errTail = s.errTail := rfl
@[simp] theorem State.setWave_errDropped (k : Nat) (w : Wave) : (s.setWave k w).errDropped = s.errDropped := rfl
@[simp] theorem State.setWave_errWaiting (k : Nat) (w : Wave) : (s.setWave k w).errWaiting = s.errWaiting := rfl
@[simp] theorem State.setWave_clears (k : Nat) (w : Wave) : (s.setWave k w).clears = s.clears := rfl
@[simp] theorem State.setWave_powerCap (k : Nat) (w : Wave) : (s.setWave k w).powerCap = s.powerCap := rfl
@[simp] theorem State.setWave_pcap (k : Nat) (w : Wave) : (s.setWave k w).pcap = s.pcap := rfl
@[simp] theorem State.setWave_poisonBase (k : Nat) (w : Wave) : (s.setWave k w).poisonBase = s.poisonBase := rfl
@[simp] theorem State.setWave_biasBase (k : Nat) (w : Wave) : (s.setWave k w).biasBase = s.biasBase := rfl
@[simp] theorem State.setWave_accessBase (k : Nat) (w : Wave) : (s.setWave k w).accessBase = s.accessBase := rfl
@[simp] theorem State.setWave_clkPermit (k : Nat) (w : Wave) : (s.setWave k w).clkPermit = s.clkPermit := rfl
@[simp] theorem State.setWave_identities (k : Nat) (w : Wave) : (s.setWave k w).identities = s.identities := rfl
@[simp] theorem State.setWave_quarantine (k : Nat) (w : Wave) : (s.setWave k w).quarantine = s.quarantine := rfl
@[simp] theorem State.setWave_mappedOut (k : Nat) (w : Wave) : (s.setWave k w).mappedOut = s.mappedOut := rfl
@[simp] theorem State.setWave_spareCores (k : Nat) (w : Wave) : (s.setWave k w).spareCores = s.spareCores := rfl
@[simp] theorem State.setWave_scopeCfg (k : Nat) (w : Wave) : (s.setWave k w).scopeCfg = s.scopeCfg := rfl
@[simp] theorem State.setWave_resv (k : Nat) (w : Wave) : (s.setWave k w).resv = s.resv := rfl
@[simp] theorem State.setWave_accel (k : Nat) (w : Wave) : (s.setWave k w).accel = s.accel := rfl
@[simp] theorem State.setWave_cxl (k : Nat) (w : Wave) : (s.setWave k w).cxl = s.cxl := rfl
@[simp] theorem State.setWave_recovery (k : Nat) (w : Wave) : (s.setWave k w).recovery = s.recovery := rfl
@[simp] theorem State.setWave_issue (k : Nat) (w : Wave) : (s.setWave k w).issue = s.issue := rfl
@[simp] theorem State.setWave_ports (k : Nat) (w : Wave) : (s.setWave k w).ports = s.ports := rfl
@[simp] theorem State.setWave_offered (k : Nat) (w : Wave) : (s.setWave k w).offered = s.offered := rfl
@[simp] theorem State.setWave_issuedBy (k : Nat) (w : Wave) : (s.setWave k w).issuedBy = s.issuedBy := rfl
@[simp] theorem State.setWave_cycleOf (k : Nat) (w : Wave) : (s.setWave k w).cycleOf = s.cycleOf := rfl
@[simp] theorem State.setWave_switched (k : Nat) (w : Wave) : (s.setWave k w).switched = s.switched := rfl
@[simp] theorem State.setWave_cycleCut (k : Nat) (w : Wave) : (s.setWave k w).cycleCut = s.cycleCut := rfl
@[simp] theorem State.setWave_halves (k : Nat) (w : Wave) : (s.setWave k w).halves = s.halves := rfl
@[simp] theorem State.setWave_agenda (k : Nat) (w : Wave) : (s.setWave k w).agenda = s.agenda := rfl
@[simp] theorem State.setWave_outbox (k : Nat) (w : Wave) : (s.setWave k w).outbox = s.outbox := rfl
@[simp] theorem State.setWave_packed (k : Nat) (w : Wave) : (s.setWave k w).packed = s.packed := rfl
@[simp] theorem State.setWave_pick (k : Nat) (w : Wave) : (s.setWave k w).pick = s.pick := rfl
@[simp] theorem State.setWave_cur (k : Nat) (w : Wave) : (s.setWave k w).cur = s.cur := rfl
@[simp] theorem State.setWave_fresh (k : Nat) (w : Wave) : (s.setWave k w).fresh = s.fresh := rfl
@[simp] theorem State.setWave_nextId (k : Nat) (w : Wave) : (s.setWave k w).nextId = s.nextId := rfl
@[simp] theorem State.setWave_launchTags (k : Nat) (w : Wave) : (s.setWave k w).launchTags = s.launchTags := rfl

/-! ### `setWg` -/

@[simp] theorem State.setWg_mem (g : Nat) (x : Wg) : (s.setWg g x).mem = s.mem := rfl
@[simp] theorem State.setWg_waves (g : Nat) (x : Wg) : (s.setWg g x).waves = s.waves := rfl
@[simp] theorem State.setWg_cores (g : Nat) (x : Wg) : (s.setWg g x).cores = s.cores := rfl
@[simp] theorem State.setWg_launches (g : Nat) (x : Wg) : (s.setWg g x).launches = s.launches := rfl
@[simp] theorem State.setWg_tenants (g : Nat) (x : Wg) : (s.setWg g x).tenants = s.tenants := rfl
@[simp] theorem State.setWg_cmds (g : Nat) (x : Wg) : (s.setWg g x).cmds = s.cmds := rfl
@[simp] theorem State.setWg_lastTs (g : Nat) (x : Wg) : (s.setWg g x).lastTs = s.lastTs := rfl
@[simp] theorem State.setWg_packets (g : Nat) (x : Wg) : (s.setWg g x).packets = s.packets := rfl
@[simp] theorem State.setWg_resHolder (g : Nat) (x : Wg) : (s.setWg g x).resHolder = s.resHolder := rfl
@[simp] theorem State.setWg_resQueue (g : Nat) (x : Wg) : (s.setWg g x).resQueue = s.resQueue := rfl
@[simp] theorem State.setWg_tlb (g : Nat) (x : Wg) : (s.setWg g x).tlb = s.tlb := rfl
@[simp] theorem State.setWg_walkCache (g : Nat) (x : Wg) : (s.setWg g x).walkCache = s.walkCache := rfl
@[simp] theorem State.setWg_counts (g : Nat) (x : Wg) : (s.setWg g x).counts = s.counts := rfl
@[simp] theorem State.setWg_dir (g : Nat) (x : Wg) : (s.setWg g x).dir = s.dir := rfl
@[simp] theorem State.setWg_copies (g : Nat) (x : Wg) : (s.setWg g x).copies = s.copies := rfl
@[simp] theorem State.setWg_links (g : Nat) (x : Wg) : (s.setWg g x).links = s.links := rfl
@[simp] theorem State.setWg_hostLines (g : Nat) (x : Wg) : (s.setWg g x).hostLines = s.hostLines := rfl
@[simp] theorem State.setWg_snoop (g : Nat) (x : Wg) : (s.setWg g x).snoop = s.snoop := rfl
@[simp] theorem State.setWg_invWaits (g : Nat) (x : Wg) : (s.setWg g x).invWaits = s.invWaits := rfl
@[simp] theorem State.setWg_invDone (g : Nat) (x : Wg) : (s.setWg g x).invDone = s.invDone := rfl
@[simp] theorem State.setWg_hostQueue (g : Nat) (x : Wg) : (s.setWg g x).hostQueue = s.hostQueue := rfl
@[simp] theorem State.setWg_flips (g : Nat) (x : Wg) : (s.setWg g x).flips = s.flips := rfl
@[simp] theorem State.setWg_hdmBase (g : Nat) (x : Wg) : (s.setWg g x).hdmBase = s.hdmBase := rfl
@[simp] theorem State.setWg_pbr (g : Nat) (x : Wg) : (s.setWg g x).pbr = s.pbr := rfl
@[simp] theorem State.setWg_homeSteps (g : Nat) (x : Wg) : (s.setWg g x).homeSteps = s.homeSteps := rfl
@[simp] theorem State.setWg_arrivals (g : Nat) (x : Wg) : (s.setWg g x).arrivals = s.arrivals := rfl
@[simp] theorem State.setWg_renewed (g : Nat) (x : Wg) : (s.setWg g x).renewed = s.renewed := rfl
@[simp] theorem State.setWg_recalls (g : Nat) (x : Wg) : (s.setWg g x).recalls = s.recalls := rfl
@[simp] theorem State.setWg_time (g : Nat) (x : Wg) : (s.setWg g x).time = s.time := rfl
@[simp] theorem State.setWg_cycle (g : Nat) (x : Wg) : (s.setWg g x).cycle = s.cycle := rfl
@[simp] theorem State.setWg_point (g : Nat) (x : Wg) : (s.setWg g x).point = s.point := rfl
@[simp] theorem State.setWg_softPoint (g : Nat) (x : Wg) : (s.setWg g x).softPoint = s.softPoint := rfl
@[simp] theorem State.setWg_clockLock (g : Nat) (x : Wg) : (s.setWg g x).clockLock = s.clockLock := rfl
@[simp] theorem State.setWg_calmWindows (g : Nat) (x : Wg) : (s.setWg g x).calmWindows = s.calmWindows := rfl
@[simp] theorem State.setWg_errBase (g : Nat) (x : Wg) : (s.setWg g x).errBase = s.errBase := rfl
@[simp] theorem State.setWg_errN (g : Nat) (x : Wg) : (s.setWg g x).errN = s.errN := rfl
@[simp] theorem State.setWg_errHead (g : Nat) (x : Wg) : (s.setWg g x).errHead = s.errHead := rfl
@[simp] theorem State.setWg_errTail (g : Nat) (x : Wg) : (s.setWg g x).errTail = s.errTail := rfl
@[simp] theorem State.setWg_errDropped (g : Nat) (x : Wg) : (s.setWg g x).errDropped = s.errDropped := rfl
@[simp] theorem State.setWg_errWaiting (g : Nat) (x : Wg) : (s.setWg g x).errWaiting = s.errWaiting := rfl
@[simp] theorem State.setWg_clears (g : Nat) (x : Wg) : (s.setWg g x).clears = s.clears := rfl
@[simp] theorem State.setWg_powerCap (g : Nat) (x : Wg) : (s.setWg g x).powerCap = s.powerCap := rfl
@[simp] theorem State.setWg_pcap (g : Nat) (x : Wg) : (s.setWg g x).pcap = s.pcap := rfl
@[simp] theorem State.setWg_poisonBase (g : Nat) (x : Wg) : (s.setWg g x).poisonBase = s.poisonBase := rfl
@[simp] theorem State.setWg_biasBase (g : Nat) (x : Wg) : (s.setWg g x).biasBase = s.biasBase := rfl
@[simp] theorem State.setWg_accessBase (g : Nat) (x : Wg) : (s.setWg g x).accessBase = s.accessBase := rfl
@[simp] theorem State.setWg_clkPermit (g : Nat) (x : Wg) : (s.setWg g x).clkPermit = s.clkPermit := rfl
@[simp] theorem State.setWg_identities (g : Nat) (x : Wg) : (s.setWg g x).identities = s.identities := rfl
@[simp] theorem State.setWg_quarantine (g : Nat) (x : Wg) : (s.setWg g x).quarantine = s.quarantine := rfl
@[simp] theorem State.setWg_mappedOut (g : Nat) (x : Wg) : (s.setWg g x).mappedOut = s.mappedOut := rfl
@[simp] theorem State.setWg_spareCores (g : Nat) (x : Wg) : (s.setWg g x).spareCores = s.spareCores := rfl
@[simp] theorem State.setWg_scopeCfg (g : Nat) (x : Wg) : (s.setWg g x).scopeCfg = s.scopeCfg := rfl
@[simp] theorem State.setWg_resv (g : Nat) (x : Wg) : (s.setWg g x).resv = s.resv := rfl
@[simp] theorem State.setWg_accel (g : Nat) (x : Wg) : (s.setWg g x).accel = s.accel := rfl
@[simp] theorem State.setWg_cxl (g : Nat) (x : Wg) : (s.setWg g x).cxl = s.cxl := rfl
@[simp] theorem State.setWg_recovery (g : Nat) (x : Wg) : (s.setWg g x).recovery = s.recovery := rfl
@[simp] theorem State.setWg_issue (g : Nat) (x : Wg) : (s.setWg g x).issue = s.issue := rfl
@[simp] theorem State.setWg_ports (g : Nat) (x : Wg) : (s.setWg g x).ports = s.ports := rfl
@[simp] theorem State.setWg_offered (g : Nat) (x : Wg) : (s.setWg g x).offered = s.offered := rfl
@[simp] theorem State.setWg_issuedBy (g : Nat) (x : Wg) : (s.setWg g x).issuedBy = s.issuedBy := rfl
@[simp] theorem State.setWg_cycleOf (g : Nat) (x : Wg) : (s.setWg g x).cycleOf = s.cycleOf := rfl
@[simp] theorem State.setWg_switched (g : Nat) (x : Wg) : (s.setWg g x).switched = s.switched := rfl
@[simp] theorem State.setWg_cycleCut (g : Nat) (x : Wg) : (s.setWg g x).cycleCut = s.cycleCut := rfl
@[simp] theorem State.setWg_halves (g : Nat) (x : Wg) : (s.setWg g x).halves = s.halves := rfl
@[simp] theorem State.setWg_agenda (g : Nat) (x : Wg) : (s.setWg g x).agenda = s.agenda := rfl
@[simp] theorem State.setWg_outbox (g : Nat) (x : Wg) : (s.setWg g x).outbox = s.outbox := rfl
@[simp] theorem State.setWg_packed (g : Nat) (x : Wg) : (s.setWg g x).packed = s.packed := rfl
@[simp] theorem State.setWg_pick (g : Nat) (x : Wg) : (s.setWg g x).pick = s.pick := rfl
@[simp] theorem State.setWg_cur (g : Nat) (x : Wg) : (s.setWg g x).cur = s.cur := rfl
@[simp] theorem State.setWg_fresh (g : Nat) (x : Wg) : (s.setWg g x).fresh = s.fresh := rfl
@[simp] theorem State.setWg_nextId (g : Nat) (x : Wg) : (s.setWg g x).nextId = s.nextId := rfl
@[simp] theorem State.setWg_launchTags (g : Nat) (x : Wg) : (s.setWg g x).launchTags = s.launchTags := rfl

/-! ### `setCore` -/

@[simp] theorem State.setCore_mem (c : Nat) (x : Core) : (s.setCore c x).mem = s.mem := rfl
@[simp] theorem State.setCore_waves (c : Nat) (x : Core) : (s.setCore c x).waves = s.waves := rfl
@[simp] theorem State.setCore_wgs (c : Nat) (x : Core) : (s.setCore c x).wgs = s.wgs := rfl
@[simp] theorem State.setCore_launches (c : Nat) (x : Core) : (s.setCore c x).launches = s.launches := rfl
@[simp] theorem State.setCore_tenants (c : Nat) (x : Core) : (s.setCore c x).tenants = s.tenants := rfl
@[simp] theorem State.setCore_cmds (c : Nat) (x : Core) : (s.setCore c x).cmds = s.cmds := rfl
@[simp] theorem State.setCore_lastTs (c : Nat) (x : Core) : (s.setCore c x).lastTs = s.lastTs := rfl
@[simp] theorem State.setCore_packets (c : Nat) (x : Core) : (s.setCore c x).packets = s.packets := rfl
@[simp] theorem State.setCore_resHolder (c : Nat) (x : Core) : (s.setCore c x).resHolder = s.resHolder := rfl
@[simp] theorem State.setCore_resQueue (c : Nat) (x : Core) : (s.setCore c x).resQueue = s.resQueue := rfl
@[simp] theorem State.setCore_tlb (c : Nat) (x : Core) : (s.setCore c x).tlb = s.tlb := rfl
@[simp] theorem State.setCore_walkCache (c : Nat) (x : Core) : (s.setCore c x).walkCache = s.walkCache := rfl
@[simp] theorem State.setCore_counts (c : Nat) (x : Core) : (s.setCore c x).counts = s.counts := rfl
@[simp] theorem State.setCore_dir (c : Nat) (x : Core) : (s.setCore c x).dir = s.dir := rfl
@[simp] theorem State.setCore_copies (c : Nat) (x : Core) : (s.setCore c x).copies = s.copies := rfl
@[simp] theorem State.setCore_links (c : Nat) (x : Core) : (s.setCore c x).links = s.links := rfl
@[simp] theorem State.setCore_hostLines (c : Nat) (x : Core) : (s.setCore c x).hostLines = s.hostLines := rfl
@[simp] theorem State.setCore_snoop (c : Nat) (x : Core) : (s.setCore c x).snoop = s.snoop := rfl
@[simp] theorem State.setCore_invWaits (c : Nat) (x : Core) : (s.setCore c x).invWaits = s.invWaits := rfl
@[simp] theorem State.setCore_invDone (c : Nat) (x : Core) : (s.setCore c x).invDone = s.invDone := rfl
@[simp] theorem State.setCore_hostQueue (c : Nat) (x : Core) : (s.setCore c x).hostQueue = s.hostQueue := rfl
@[simp] theorem State.setCore_flips (c : Nat) (x : Core) : (s.setCore c x).flips = s.flips := rfl
@[simp] theorem State.setCore_hdmBase (c : Nat) (x : Core) : (s.setCore c x).hdmBase = s.hdmBase := rfl
@[simp] theorem State.setCore_pbr (c : Nat) (x : Core) : (s.setCore c x).pbr = s.pbr := rfl
@[simp] theorem State.setCore_homeSteps (c : Nat) (x : Core) : (s.setCore c x).homeSteps = s.homeSteps := rfl
@[simp] theorem State.setCore_arrivals (c : Nat) (x : Core) : (s.setCore c x).arrivals = s.arrivals := rfl
@[simp] theorem State.setCore_renewed (c : Nat) (x : Core) : (s.setCore c x).renewed = s.renewed := rfl
@[simp] theorem State.setCore_recalls (c : Nat) (x : Core) : (s.setCore c x).recalls = s.recalls := rfl
@[simp] theorem State.setCore_time (c : Nat) (x : Core) : (s.setCore c x).time = s.time := rfl
@[simp] theorem State.setCore_cycle (c : Nat) (x : Core) : (s.setCore c x).cycle = s.cycle := rfl
@[simp] theorem State.setCore_point (c : Nat) (x : Core) : (s.setCore c x).point = s.point := rfl
@[simp] theorem State.setCore_softPoint (c : Nat) (x : Core) : (s.setCore c x).softPoint = s.softPoint := rfl
@[simp] theorem State.setCore_clockLock (c : Nat) (x : Core) : (s.setCore c x).clockLock = s.clockLock := rfl
@[simp] theorem State.setCore_calmWindows (c : Nat) (x : Core) : (s.setCore c x).calmWindows = s.calmWindows := rfl
@[simp] theorem State.setCore_errBase (c : Nat) (x : Core) : (s.setCore c x).errBase = s.errBase := rfl
@[simp] theorem State.setCore_errN (c : Nat) (x : Core) : (s.setCore c x).errN = s.errN := rfl
@[simp] theorem State.setCore_errHead (c : Nat) (x : Core) : (s.setCore c x).errHead = s.errHead := rfl
@[simp] theorem State.setCore_errTail (c : Nat) (x : Core) : (s.setCore c x).errTail = s.errTail := rfl
@[simp] theorem State.setCore_errDropped (c : Nat) (x : Core) : (s.setCore c x).errDropped = s.errDropped := rfl
@[simp] theorem State.setCore_errWaiting (c : Nat) (x : Core) : (s.setCore c x).errWaiting = s.errWaiting := rfl
@[simp] theorem State.setCore_clears (c : Nat) (x : Core) : (s.setCore c x).clears = s.clears := rfl
@[simp] theorem State.setCore_powerCap (c : Nat) (x : Core) : (s.setCore c x).powerCap = s.powerCap := rfl
@[simp] theorem State.setCore_pcap (c : Nat) (x : Core) : (s.setCore c x).pcap = s.pcap := rfl
@[simp] theorem State.setCore_poisonBase (c : Nat) (x : Core) : (s.setCore c x).poisonBase = s.poisonBase := rfl
@[simp] theorem State.setCore_biasBase (c : Nat) (x : Core) : (s.setCore c x).biasBase = s.biasBase := rfl
@[simp] theorem State.setCore_accessBase (c : Nat) (x : Core) : (s.setCore c x).accessBase = s.accessBase := rfl
@[simp] theorem State.setCore_clkPermit (c : Nat) (x : Core) : (s.setCore c x).clkPermit = s.clkPermit := rfl
@[simp] theorem State.setCore_identities (c : Nat) (x : Core) : (s.setCore c x).identities = s.identities := rfl
@[simp] theorem State.setCore_quarantine (c : Nat) (x : Core) : (s.setCore c x).quarantine = s.quarantine := rfl
@[simp] theorem State.setCore_mappedOut (c : Nat) (x : Core) : (s.setCore c x).mappedOut = s.mappedOut := rfl
@[simp] theorem State.setCore_spareCores (c : Nat) (x : Core) : (s.setCore c x).spareCores = s.spareCores := rfl
@[simp] theorem State.setCore_scopeCfg (c : Nat) (x : Core) : (s.setCore c x).scopeCfg = s.scopeCfg := rfl
@[simp] theorem State.setCore_resv (c : Nat) (x : Core) : (s.setCore c x).resv = s.resv := rfl
@[simp] theorem State.setCore_accel (c : Nat) (x : Core) : (s.setCore c x).accel = s.accel := rfl
@[simp] theorem State.setCore_cxl (c : Nat) (x : Core) : (s.setCore c x).cxl = s.cxl := rfl
@[simp] theorem State.setCore_recovery (c : Nat) (x : Core) : (s.setCore c x).recovery = s.recovery := rfl
@[simp] theorem State.setCore_issue (c : Nat) (x : Core) : (s.setCore c x).issue = s.issue := rfl
@[simp] theorem State.setCore_ports (c : Nat) (x : Core) : (s.setCore c x).ports = s.ports := rfl
@[simp] theorem State.setCore_offered (c : Nat) (x : Core) : (s.setCore c x).offered = s.offered := rfl
@[simp] theorem State.setCore_issuedBy (c : Nat) (x : Core) : (s.setCore c x).issuedBy = s.issuedBy := rfl
@[simp] theorem State.setCore_cycleOf (c : Nat) (x : Core) : (s.setCore c x).cycleOf = s.cycleOf := rfl
@[simp] theorem State.setCore_switched (c : Nat) (x : Core) : (s.setCore c x).switched = s.switched := rfl
@[simp] theorem State.setCore_cycleCut (c : Nat) (x : Core) : (s.setCore c x).cycleCut = s.cycleCut := rfl
@[simp] theorem State.setCore_halves (c : Nat) (x : Core) : (s.setCore c x).halves = s.halves := rfl
@[simp] theorem State.setCore_agenda (c : Nat) (x : Core) : (s.setCore c x).agenda = s.agenda := rfl
@[simp] theorem State.setCore_outbox (c : Nat) (x : Core) : (s.setCore c x).outbox = s.outbox := rfl
@[simp] theorem State.setCore_packed (c : Nat) (x : Core) : (s.setCore c x).packed = s.packed := rfl
@[simp] theorem State.setCore_pick (c : Nat) (x : Core) : (s.setCore c x).pick = s.pick := rfl
@[simp] theorem State.setCore_cur (c : Nat) (x : Core) : (s.setCore c x).cur = s.cur := rfl
@[simp] theorem State.setCore_fresh (c : Nat) (x : Core) : (s.setCore c x).fresh = s.fresh := rfl
@[simp] theorem State.setCore_nextId (c : Nat) (x : Core) : (s.setCore c x).nextId = s.nextId := rfl
@[simp] theorem State.setCore_launchTags (c : Nat) (x : Core) : (s.setCore c x).launchTags = s.launchTags := rfl

/-! ### `setLaunch` -/

@[simp] theorem State.setLaunch_mem (n : Nat) (x : Launch) : (s.setLaunch n x).mem = s.mem := rfl
@[simp] theorem State.setLaunch_waves (n : Nat) (x : Launch) : (s.setLaunch n x).waves = s.waves := rfl
@[simp] theorem State.setLaunch_wgs (n : Nat) (x : Launch) : (s.setLaunch n x).wgs = s.wgs := rfl
@[simp] theorem State.setLaunch_cores (n : Nat) (x : Launch) : (s.setLaunch n x).cores = s.cores := rfl
@[simp] theorem State.setLaunch_tenants (n : Nat) (x : Launch) : (s.setLaunch n x).tenants = s.tenants := rfl
@[simp] theorem State.setLaunch_cmds (n : Nat) (x : Launch) : (s.setLaunch n x).cmds = s.cmds := rfl
@[simp] theorem State.setLaunch_lastTs (n : Nat) (x : Launch) : (s.setLaunch n x).lastTs = s.lastTs := rfl
@[simp] theorem State.setLaunch_packets (n : Nat) (x : Launch) : (s.setLaunch n x).packets = s.packets := rfl
@[simp] theorem State.setLaunch_resHolder (n : Nat) (x : Launch) : (s.setLaunch n x).resHolder = s.resHolder := rfl
@[simp] theorem State.setLaunch_resQueue (n : Nat) (x : Launch) : (s.setLaunch n x).resQueue = s.resQueue := rfl
@[simp] theorem State.setLaunch_tlb (n : Nat) (x : Launch) : (s.setLaunch n x).tlb = s.tlb := rfl
@[simp] theorem State.setLaunch_walkCache (n : Nat) (x : Launch) : (s.setLaunch n x).walkCache = s.walkCache := rfl
@[simp] theorem State.setLaunch_counts (n : Nat) (x : Launch) : (s.setLaunch n x).counts = s.counts := rfl
@[simp] theorem State.setLaunch_dir (n : Nat) (x : Launch) : (s.setLaunch n x).dir = s.dir := rfl
@[simp] theorem State.setLaunch_copies (n : Nat) (x : Launch) : (s.setLaunch n x).copies = s.copies := rfl
@[simp] theorem State.setLaunch_links (n : Nat) (x : Launch) : (s.setLaunch n x).links = s.links := rfl
@[simp] theorem State.setLaunch_hostLines (n : Nat) (x : Launch) : (s.setLaunch n x).hostLines = s.hostLines := rfl
@[simp] theorem State.setLaunch_snoop (n : Nat) (x : Launch) : (s.setLaunch n x).snoop = s.snoop := rfl
@[simp] theorem State.setLaunch_invWaits (n : Nat) (x : Launch) : (s.setLaunch n x).invWaits = s.invWaits := rfl
@[simp] theorem State.setLaunch_invDone (n : Nat) (x : Launch) : (s.setLaunch n x).invDone = s.invDone := rfl
@[simp] theorem State.setLaunch_hostQueue (n : Nat) (x : Launch) : (s.setLaunch n x).hostQueue = s.hostQueue := rfl
@[simp] theorem State.setLaunch_flips (n : Nat) (x : Launch) : (s.setLaunch n x).flips = s.flips := rfl
@[simp] theorem State.setLaunch_hdmBase (n : Nat) (x : Launch) : (s.setLaunch n x).hdmBase = s.hdmBase := rfl
@[simp] theorem State.setLaunch_pbr (n : Nat) (x : Launch) : (s.setLaunch n x).pbr = s.pbr := rfl
@[simp] theorem State.setLaunch_homeSteps (n : Nat) (x : Launch) : (s.setLaunch n x).homeSteps = s.homeSteps := rfl
@[simp] theorem State.setLaunch_arrivals (n : Nat) (x : Launch) : (s.setLaunch n x).arrivals = s.arrivals := rfl
@[simp] theorem State.setLaunch_renewed (n : Nat) (x : Launch) : (s.setLaunch n x).renewed = s.renewed := rfl
@[simp] theorem State.setLaunch_recalls (n : Nat) (x : Launch) : (s.setLaunch n x).recalls = s.recalls := rfl
@[simp] theorem State.setLaunch_time (n : Nat) (x : Launch) : (s.setLaunch n x).time = s.time := rfl
@[simp] theorem State.setLaunch_cycle (n : Nat) (x : Launch) : (s.setLaunch n x).cycle = s.cycle := rfl
@[simp] theorem State.setLaunch_point (n : Nat) (x : Launch) : (s.setLaunch n x).point = s.point := rfl
@[simp] theorem State.setLaunch_softPoint (n : Nat) (x : Launch) : (s.setLaunch n x).softPoint = s.softPoint := rfl
@[simp] theorem State.setLaunch_clockLock (n : Nat) (x : Launch) : (s.setLaunch n x).clockLock = s.clockLock := rfl
@[simp] theorem State.setLaunch_calmWindows (n : Nat) (x : Launch) : (s.setLaunch n x).calmWindows = s.calmWindows := rfl
@[simp] theorem State.setLaunch_errBase (n : Nat) (x : Launch) : (s.setLaunch n x).errBase = s.errBase := rfl
@[simp] theorem State.setLaunch_errN (n : Nat) (x : Launch) : (s.setLaunch n x).errN = s.errN := rfl
@[simp] theorem State.setLaunch_errHead (n : Nat) (x : Launch) : (s.setLaunch n x).errHead = s.errHead := rfl
@[simp] theorem State.setLaunch_errTail (n : Nat) (x : Launch) : (s.setLaunch n x).errTail = s.errTail := rfl
@[simp] theorem State.setLaunch_errDropped (n : Nat) (x : Launch) : (s.setLaunch n x).errDropped = s.errDropped := rfl
@[simp] theorem State.setLaunch_errWaiting (n : Nat) (x : Launch) : (s.setLaunch n x).errWaiting = s.errWaiting := rfl
@[simp] theorem State.setLaunch_clears (n : Nat) (x : Launch) : (s.setLaunch n x).clears = s.clears := rfl
@[simp] theorem State.setLaunch_powerCap (n : Nat) (x : Launch) : (s.setLaunch n x).powerCap = s.powerCap := rfl
@[simp] theorem State.setLaunch_pcap (n : Nat) (x : Launch) : (s.setLaunch n x).pcap = s.pcap := rfl
@[simp] theorem State.setLaunch_poisonBase (n : Nat) (x : Launch) : (s.setLaunch n x).poisonBase = s.poisonBase := rfl
@[simp] theorem State.setLaunch_biasBase (n : Nat) (x : Launch) : (s.setLaunch n x).biasBase = s.biasBase := rfl
@[simp] theorem State.setLaunch_accessBase (n : Nat) (x : Launch) : (s.setLaunch n x).accessBase = s.accessBase := rfl
@[simp] theorem State.setLaunch_clkPermit (n : Nat) (x : Launch) : (s.setLaunch n x).clkPermit = s.clkPermit := rfl
@[simp] theorem State.setLaunch_identities (n : Nat) (x : Launch) : (s.setLaunch n x).identities = s.identities := rfl
@[simp] theorem State.setLaunch_quarantine (n : Nat) (x : Launch) : (s.setLaunch n x).quarantine = s.quarantine := rfl
@[simp] theorem State.setLaunch_mappedOut (n : Nat) (x : Launch) : (s.setLaunch n x).mappedOut = s.mappedOut := rfl
@[simp] theorem State.setLaunch_spareCores (n : Nat) (x : Launch) : (s.setLaunch n x).spareCores = s.spareCores := rfl
@[simp] theorem State.setLaunch_scopeCfg (n : Nat) (x : Launch) : (s.setLaunch n x).scopeCfg = s.scopeCfg := rfl
@[simp] theorem State.setLaunch_resv (n : Nat) (x : Launch) : (s.setLaunch n x).resv = s.resv := rfl
@[simp] theorem State.setLaunch_accel (n : Nat) (x : Launch) : (s.setLaunch n x).accel = s.accel := rfl
@[simp] theorem State.setLaunch_cxl (n : Nat) (x : Launch) : (s.setLaunch n x).cxl = s.cxl := rfl
@[simp] theorem State.setLaunch_recovery (n : Nat) (x : Launch) : (s.setLaunch n x).recovery = s.recovery := rfl
@[simp] theorem State.setLaunch_issue (n : Nat) (x : Launch) : (s.setLaunch n x).issue = s.issue := rfl
@[simp] theorem State.setLaunch_ports (n : Nat) (x : Launch) : (s.setLaunch n x).ports = s.ports := rfl
@[simp] theorem State.setLaunch_offered (n : Nat) (x : Launch) : (s.setLaunch n x).offered = s.offered := rfl
@[simp] theorem State.setLaunch_issuedBy (n : Nat) (x : Launch) : (s.setLaunch n x).issuedBy = s.issuedBy := rfl
@[simp] theorem State.setLaunch_cycleOf (n : Nat) (x : Launch) : (s.setLaunch n x).cycleOf = s.cycleOf := rfl
@[simp] theorem State.setLaunch_switched (n : Nat) (x : Launch) : (s.setLaunch n x).switched = s.switched := rfl
@[simp] theorem State.setLaunch_cycleCut (n : Nat) (x : Launch) : (s.setLaunch n x).cycleCut = s.cycleCut := rfl
@[simp] theorem State.setLaunch_halves (n : Nat) (x : Launch) : (s.setLaunch n x).halves = s.halves := rfl
@[simp] theorem State.setLaunch_agenda (n : Nat) (x : Launch) : (s.setLaunch n x).agenda = s.agenda := rfl
@[simp] theorem State.setLaunch_outbox (n : Nat) (x : Launch) : (s.setLaunch n x).outbox = s.outbox := rfl
@[simp] theorem State.setLaunch_packed (n : Nat) (x : Launch) : (s.setLaunch n x).packed = s.packed := rfl
@[simp] theorem State.setLaunch_pick (n : Nat) (x : Launch) : (s.setLaunch n x).pick = s.pick := rfl
@[simp] theorem State.setLaunch_cur (n : Nat) (x : Launch) : (s.setLaunch n x).cur = s.cur := rfl
@[simp] theorem State.setLaunch_fresh (n : Nat) (x : Launch) : (s.setLaunch n x).fresh = s.fresh := rfl
@[simp] theorem State.setLaunch_nextId (n : Nat) (x : Launch) : (s.setLaunch n x).nextId = s.nextId := rfl
@[simp] theorem State.setLaunch_launchTags (n : Nat) (x : Launch) : (s.setLaunch n x).launchTags = s.launchTags := rfl

/-! ### `setTenant` -/

@[simp] theorem State.setTenant_mem (t : Nat) (x : Tenant) : (s.setTenant t x).mem = s.mem := rfl
@[simp] theorem State.setTenant_waves (t : Nat) (x : Tenant) : (s.setTenant t x).waves = s.waves := rfl
@[simp] theorem State.setTenant_wgs (t : Nat) (x : Tenant) : (s.setTenant t x).wgs = s.wgs := rfl
@[simp] theorem State.setTenant_cores (t : Nat) (x : Tenant) : (s.setTenant t x).cores = s.cores := rfl
@[simp] theorem State.setTenant_launches (t : Nat) (x : Tenant) : (s.setTenant t x).launches = s.launches := rfl
@[simp] theorem State.setTenant_cmds (t : Nat) (x : Tenant) : (s.setTenant t x).cmds = s.cmds := rfl
@[simp] theorem State.setTenant_lastTs (t : Nat) (x : Tenant) : (s.setTenant t x).lastTs = s.lastTs := rfl
@[simp] theorem State.setTenant_packets (t : Nat) (x : Tenant) : (s.setTenant t x).packets = s.packets := rfl
@[simp] theorem State.setTenant_resHolder (t : Nat) (x : Tenant) : (s.setTenant t x).resHolder = s.resHolder := rfl
@[simp] theorem State.setTenant_resQueue (t : Nat) (x : Tenant) : (s.setTenant t x).resQueue = s.resQueue := rfl
@[simp] theorem State.setTenant_tlb (t : Nat) (x : Tenant) : (s.setTenant t x).tlb = s.tlb := rfl
@[simp] theorem State.setTenant_walkCache (t : Nat) (x : Tenant) : (s.setTenant t x).walkCache = s.walkCache := rfl
@[simp] theorem State.setTenant_counts (t : Nat) (x : Tenant) : (s.setTenant t x).counts = s.counts := rfl
@[simp] theorem State.setTenant_dir (t : Nat) (x : Tenant) : (s.setTenant t x).dir = s.dir := rfl
@[simp] theorem State.setTenant_copies (t : Nat) (x : Tenant) : (s.setTenant t x).copies = s.copies := rfl
@[simp] theorem State.setTenant_links (t : Nat) (x : Tenant) : (s.setTenant t x).links = s.links := rfl
@[simp] theorem State.setTenant_hostLines (t : Nat) (x : Tenant) : (s.setTenant t x).hostLines = s.hostLines := rfl
@[simp] theorem State.setTenant_snoop (t : Nat) (x : Tenant) : (s.setTenant t x).snoop = s.snoop := rfl
@[simp] theorem State.setTenant_invWaits (t : Nat) (x : Tenant) : (s.setTenant t x).invWaits = s.invWaits := rfl
@[simp] theorem State.setTenant_invDone (t : Nat) (x : Tenant) : (s.setTenant t x).invDone = s.invDone := rfl
@[simp] theorem State.setTenant_hostQueue (t : Nat) (x : Tenant) : (s.setTenant t x).hostQueue = s.hostQueue := rfl
@[simp] theorem State.setTenant_flips (t : Nat) (x : Tenant) : (s.setTenant t x).flips = s.flips := rfl
@[simp] theorem State.setTenant_hdmBase (t : Nat) (x : Tenant) : (s.setTenant t x).hdmBase = s.hdmBase := rfl
@[simp] theorem State.setTenant_pbr (t : Nat) (x : Tenant) : (s.setTenant t x).pbr = s.pbr := rfl
@[simp] theorem State.setTenant_homeSteps (t : Nat) (x : Tenant) : (s.setTenant t x).homeSteps = s.homeSteps := rfl
@[simp] theorem State.setTenant_arrivals (t : Nat) (x : Tenant) : (s.setTenant t x).arrivals = s.arrivals := rfl
@[simp] theorem State.setTenant_renewed (t : Nat) (x : Tenant) : (s.setTenant t x).renewed = s.renewed := rfl
@[simp] theorem State.setTenant_recalls (t : Nat) (x : Tenant) : (s.setTenant t x).recalls = s.recalls := rfl
@[simp] theorem State.setTenant_time (t : Nat) (x : Tenant) : (s.setTenant t x).time = s.time := rfl
@[simp] theorem State.setTenant_cycle (t : Nat) (x : Tenant) : (s.setTenant t x).cycle = s.cycle := rfl
@[simp] theorem State.setTenant_point (t : Nat) (x : Tenant) : (s.setTenant t x).point = s.point := rfl
@[simp] theorem State.setTenant_softPoint (t : Nat) (x : Tenant) : (s.setTenant t x).softPoint = s.softPoint := rfl
@[simp] theorem State.setTenant_clockLock (t : Nat) (x : Tenant) : (s.setTenant t x).clockLock = s.clockLock := rfl
@[simp] theorem State.setTenant_calmWindows (t : Nat) (x : Tenant) : (s.setTenant t x).calmWindows = s.calmWindows := rfl
@[simp] theorem State.setTenant_errBase (t : Nat) (x : Tenant) : (s.setTenant t x).errBase = s.errBase := rfl
@[simp] theorem State.setTenant_errN (t : Nat) (x : Tenant) : (s.setTenant t x).errN = s.errN := rfl
@[simp] theorem State.setTenant_errHead (t : Nat) (x : Tenant) : (s.setTenant t x).errHead = s.errHead := rfl
@[simp] theorem State.setTenant_errTail (t : Nat) (x : Tenant) : (s.setTenant t x).errTail = s.errTail := rfl
@[simp] theorem State.setTenant_errDropped (t : Nat) (x : Tenant) : (s.setTenant t x).errDropped = s.errDropped := rfl
@[simp] theorem State.setTenant_errWaiting (t : Nat) (x : Tenant) : (s.setTenant t x).errWaiting = s.errWaiting := rfl
@[simp] theorem State.setTenant_clears (t : Nat) (x : Tenant) : (s.setTenant t x).clears = s.clears := rfl
@[simp] theorem State.setTenant_powerCap (t : Nat) (x : Tenant) : (s.setTenant t x).powerCap = s.powerCap := rfl
@[simp] theorem State.setTenant_pcap (t : Nat) (x : Tenant) : (s.setTenant t x).pcap = s.pcap := rfl
@[simp] theorem State.setTenant_poisonBase (t : Nat) (x : Tenant) : (s.setTenant t x).poisonBase = s.poisonBase := rfl
@[simp] theorem State.setTenant_biasBase (t : Nat) (x : Tenant) : (s.setTenant t x).biasBase = s.biasBase := rfl
@[simp] theorem State.setTenant_accessBase (t : Nat) (x : Tenant) : (s.setTenant t x).accessBase = s.accessBase := rfl
@[simp] theorem State.setTenant_clkPermit (t : Nat) (x : Tenant) : (s.setTenant t x).clkPermit = s.clkPermit := rfl
@[simp] theorem State.setTenant_identities (t : Nat) (x : Tenant) : (s.setTenant t x).identities = s.identities := rfl
@[simp] theorem State.setTenant_quarantine (t : Nat) (x : Tenant) : (s.setTenant t x).quarantine = s.quarantine := rfl
@[simp] theorem State.setTenant_mappedOut (t : Nat) (x : Tenant) : (s.setTenant t x).mappedOut = s.mappedOut := rfl
@[simp] theorem State.setTenant_spareCores (t : Nat) (x : Tenant) : (s.setTenant t x).spareCores = s.spareCores := rfl
@[simp] theorem State.setTenant_scopeCfg (t : Nat) (x : Tenant) : (s.setTenant t x).scopeCfg = s.scopeCfg := rfl
@[simp] theorem State.setTenant_resv (t : Nat) (x : Tenant) : (s.setTenant t x).resv = s.resv := rfl
@[simp] theorem State.setTenant_accel (t : Nat) (x : Tenant) : (s.setTenant t x).accel = s.accel := rfl
@[simp] theorem State.setTenant_cxl (t : Nat) (x : Tenant) : (s.setTenant t x).cxl = s.cxl := rfl
@[simp] theorem State.setTenant_recovery (t : Nat) (x : Tenant) : (s.setTenant t x).recovery = s.recovery := rfl
@[simp] theorem State.setTenant_issue (t : Nat) (x : Tenant) : (s.setTenant t x).issue = s.issue := rfl
@[simp] theorem State.setTenant_ports (t : Nat) (x : Tenant) : (s.setTenant t x).ports = s.ports := rfl
@[simp] theorem State.setTenant_offered (t : Nat) (x : Tenant) : (s.setTenant t x).offered = s.offered := rfl
@[simp] theorem State.setTenant_issuedBy (t : Nat) (x : Tenant) : (s.setTenant t x).issuedBy = s.issuedBy := rfl
@[simp] theorem State.setTenant_cycleOf (t : Nat) (x : Tenant) : (s.setTenant t x).cycleOf = s.cycleOf := rfl
@[simp] theorem State.setTenant_switched (t : Nat) (x : Tenant) : (s.setTenant t x).switched = s.switched := rfl
@[simp] theorem State.setTenant_cycleCut (t : Nat) (x : Tenant) : (s.setTenant t x).cycleCut = s.cycleCut := rfl
@[simp] theorem State.setTenant_halves (t : Nat) (x : Tenant) : (s.setTenant t x).halves = s.halves := rfl
@[simp] theorem State.setTenant_agenda (t : Nat) (x : Tenant) : (s.setTenant t x).agenda = s.agenda := rfl
@[simp] theorem State.setTenant_outbox (t : Nat) (x : Tenant) : (s.setTenant t x).outbox = s.outbox := rfl
@[simp] theorem State.setTenant_packed (t : Nat) (x : Tenant) : (s.setTenant t x).packed = s.packed := rfl
@[simp] theorem State.setTenant_pick (t : Nat) (x : Tenant) : (s.setTenant t x).pick = s.pick := rfl
@[simp] theorem State.setTenant_cur (t : Nat) (x : Tenant) : (s.setTenant t x).cur = s.cur := rfl
@[simp] theorem State.setTenant_fresh (t : Nat) (x : Tenant) : (s.setTenant t x).fresh = s.fresh := rfl
@[simp] theorem State.setTenant_nextId (t : Nat) (x : Tenant) : (s.setTenant t x).nextId = s.nextId := rfl
@[simp] theorem State.setTenant_launchTags (t : Nat) (x : Tenant) : (s.setTenant t x).launchTags = s.launchTags := rfl

/-! ### `push` -/

@[simp] theorem State.push_mem (es : List Instr) : (s.push es).mem = s.mem := rfl
@[simp] theorem State.push_waves (es : List Instr) : (s.push es).waves = s.waves := rfl
@[simp] theorem State.push_wgs (es : List Instr) : (s.push es).wgs = s.wgs := rfl
@[simp] theorem State.push_cores (es : List Instr) : (s.push es).cores = s.cores := rfl
@[simp] theorem State.push_launches (es : List Instr) : (s.push es).launches = s.launches := rfl
@[simp] theorem State.push_tenants (es : List Instr) : (s.push es).tenants = s.tenants := rfl
@[simp] theorem State.push_cmds (es : List Instr) : (s.push es).cmds = s.cmds := rfl
@[simp] theorem State.push_lastTs (es : List Instr) : (s.push es).lastTs = s.lastTs := rfl
@[simp] theorem State.push_packets (es : List Instr) : (s.push es).packets = s.packets := rfl
@[simp] theorem State.push_resHolder (es : List Instr) : (s.push es).resHolder = s.resHolder := rfl
@[simp] theorem State.push_resQueue (es : List Instr) : (s.push es).resQueue = s.resQueue := rfl
@[simp] theorem State.push_tlb (es : List Instr) : (s.push es).tlb = s.tlb := rfl
@[simp] theorem State.push_walkCache (es : List Instr) : (s.push es).walkCache = s.walkCache := rfl
@[simp] theorem State.push_counts (es : List Instr) : (s.push es).counts = s.counts := rfl
@[simp] theorem State.push_dir (es : List Instr) : (s.push es).dir = s.dir := rfl
@[simp] theorem State.push_copies (es : List Instr) : (s.push es).copies = s.copies := rfl
@[simp] theorem State.push_links (es : List Instr) : (s.push es).links = s.links := rfl
@[simp] theorem State.push_hostLines (es : List Instr) : (s.push es).hostLines = s.hostLines := rfl
@[simp] theorem State.push_snoop (es : List Instr) : (s.push es).snoop = s.snoop := rfl
@[simp] theorem State.push_invWaits (es : List Instr) : (s.push es).invWaits = s.invWaits := rfl
@[simp] theorem State.push_invDone (es : List Instr) : (s.push es).invDone = s.invDone := rfl
@[simp] theorem State.push_hostQueue (es : List Instr) : (s.push es).hostQueue = s.hostQueue := rfl
@[simp] theorem State.push_flips (es : List Instr) : (s.push es).flips = s.flips := rfl
@[simp] theorem State.push_hdmBase (es : List Instr) : (s.push es).hdmBase = s.hdmBase := rfl
@[simp] theorem State.push_pbr (es : List Instr) : (s.push es).pbr = s.pbr := rfl
@[simp] theorem State.push_homeSteps (es : List Instr) : (s.push es).homeSteps = s.homeSteps := rfl
@[simp] theorem State.push_arrivals (es : List Instr) : (s.push es).arrivals = s.arrivals := rfl
@[simp] theorem State.push_renewed (es : List Instr) : (s.push es).renewed = s.renewed := rfl
@[simp] theorem State.push_recalls (es : List Instr) : (s.push es).recalls = s.recalls := rfl
@[simp] theorem State.push_time (es : List Instr) : (s.push es).time = s.time := rfl
@[simp] theorem State.push_cycle (es : List Instr) : (s.push es).cycle = s.cycle := rfl
@[simp] theorem State.push_point (es : List Instr) : (s.push es).point = s.point := rfl
@[simp] theorem State.push_softPoint (es : List Instr) : (s.push es).softPoint = s.softPoint := rfl
@[simp] theorem State.push_clockLock (es : List Instr) : (s.push es).clockLock = s.clockLock := rfl
@[simp] theorem State.push_calmWindows (es : List Instr) : (s.push es).calmWindows = s.calmWindows := rfl
@[simp] theorem State.push_errBase (es : List Instr) : (s.push es).errBase = s.errBase := rfl
@[simp] theorem State.push_errN (es : List Instr) : (s.push es).errN = s.errN := rfl
@[simp] theorem State.push_errHead (es : List Instr) : (s.push es).errHead = s.errHead := rfl
@[simp] theorem State.push_errTail (es : List Instr) : (s.push es).errTail = s.errTail := rfl
@[simp] theorem State.push_errDropped (es : List Instr) : (s.push es).errDropped = s.errDropped := rfl
@[simp] theorem State.push_errWaiting (es : List Instr) : (s.push es).errWaiting = s.errWaiting := rfl
@[simp] theorem State.push_clears (es : List Instr) : (s.push es).clears = s.clears := rfl
@[simp] theorem State.push_powerCap (es : List Instr) : (s.push es).powerCap = s.powerCap := rfl
@[simp] theorem State.push_pcap (es : List Instr) : (s.push es).pcap = s.pcap := rfl
@[simp] theorem State.push_poisonBase (es : List Instr) : (s.push es).poisonBase = s.poisonBase := rfl
@[simp] theorem State.push_biasBase (es : List Instr) : (s.push es).biasBase = s.biasBase := rfl
@[simp] theorem State.push_accessBase (es : List Instr) : (s.push es).accessBase = s.accessBase := rfl
@[simp] theorem State.push_clkPermit (es : List Instr) : (s.push es).clkPermit = s.clkPermit := rfl
@[simp] theorem State.push_identities (es : List Instr) : (s.push es).identities = s.identities := rfl
@[simp] theorem State.push_quarantine (es : List Instr) : (s.push es).quarantine = s.quarantine := rfl
@[simp] theorem State.push_mappedOut (es : List Instr) : (s.push es).mappedOut = s.mappedOut := rfl
@[simp] theorem State.push_spareCores (es : List Instr) : (s.push es).spareCores = s.spareCores := rfl
@[simp] theorem State.push_scopeCfg (es : List Instr) : (s.push es).scopeCfg = s.scopeCfg := rfl
@[simp] theorem State.push_resv (es : List Instr) : (s.push es).resv = s.resv := rfl
@[simp] theorem State.push_accel (es : List Instr) : (s.push es).accel = s.accel := rfl
@[simp] theorem State.push_cxl (es : List Instr) : (s.push es).cxl = s.cxl := rfl
@[simp] theorem State.push_recovery (es : List Instr) : (s.push es).recovery = s.recovery := rfl
@[simp] theorem State.push_issue (es : List Instr) : (s.push es).issue = s.issue := rfl
@[simp] theorem State.push_ports (es : List Instr) : (s.push es).ports = s.ports := rfl
@[simp] theorem State.push_offered (es : List Instr) : (s.push es).offered = s.offered := rfl
@[simp] theorem State.push_issuedBy (es : List Instr) : (s.push es).issuedBy = s.issuedBy := rfl
@[simp] theorem State.push_cycleOf (es : List Instr) : (s.push es).cycleOf = s.cycleOf := rfl
@[simp] theorem State.push_switched (es : List Instr) : (s.push es).switched = s.switched := rfl
@[simp] theorem State.push_cycleCut (es : List Instr) : (s.push es).cycleCut = s.cycleCut := rfl
@[simp] theorem State.push_halves (es : List Instr) : (s.push es).halves = s.halves := rfl
@[simp] theorem State.push_outbox (es : List Instr) : (s.push es).outbox = s.outbox := rfl
@[simp] theorem State.push_packed (es : List Instr) : (s.push es).packed = s.packed := rfl
@[simp] theorem State.push_pick (es : List Instr) : (s.push es).pick = s.pick := rfl
@[simp] theorem State.push_cur (es : List Instr) : (s.push es).cur = s.cur := rfl
@[simp] theorem State.push_fresh (es : List Instr) : (s.push es).fresh = s.fresh := rfl
@[simp] theorem State.push_nextId (es : List Instr) : (s.push es).nextId = s.nextId := rfl
@[simp] theorem State.push_launchTags (es : List Instr) : (s.push es).launchTags = s.launchTags := rfl

/-! ### `send` -/

@[simp] theorem State.send_mem (o : Out) : (s.send o).mem = s.mem := rfl
@[simp] theorem State.send_waves (o : Out) : (s.send o).waves = s.waves := rfl
@[simp] theorem State.send_wgs (o : Out) : (s.send o).wgs = s.wgs := rfl
@[simp] theorem State.send_cores (o : Out) : (s.send o).cores = s.cores := rfl
@[simp] theorem State.send_launches (o : Out) : (s.send o).launches = s.launches := rfl
@[simp] theorem State.send_tenants (o : Out) : (s.send o).tenants = s.tenants := rfl
@[simp] theorem State.send_cmds (o : Out) : (s.send o).cmds = s.cmds := rfl
@[simp] theorem State.send_lastTs (o : Out) : (s.send o).lastTs = s.lastTs := rfl
@[simp] theorem State.send_packets (o : Out) : (s.send o).packets = s.packets := rfl
@[simp] theorem State.send_resHolder (o : Out) : (s.send o).resHolder = s.resHolder := rfl
@[simp] theorem State.send_resQueue (o : Out) : (s.send o).resQueue = s.resQueue := rfl
@[simp] theorem State.send_tlb (o : Out) : (s.send o).tlb = s.tlb := rfl
@[simp] theorem State.send_walkCache (o : Out) : (s.send o).walkCache = s.walkCache := rfl
@[simp] theorem State.send_counts (o : Out) : (s.send o).counts = s.counts := rfl
@[simp] theorem State.send_dir (o : Out) : (s.send o).dir = s.dir := rfl
@[simp] theorem State.send_copies (o : Out) : (s.send o).copies = s.copies := rfl
@[simp] theorem State.send_links (o : Out) : (s.send o).links = s.links := rfl
@[simp] theorem State.send_hostLines (o : Out) : (s.send o).hostLines = s.hostLines := rfl
@[simp] theorem State.send_snoop (o : Out) : (s.send o).snoop = s.snoop := rfl
@[simp] theorem State.send_invWaits (o : Out) : (s.send o).invWaits = s.invWaits := rfl
@[simp] theorem State.send_invDone (o : Out) : (s.send o).invDone = s.invDone := rfl
@[simp] theorem State.send_hostQueue (o : Out) : (s.send o).hostQueue = s.hostQueue := rfl
@[simp] theorem State.send_flips (o : Out) : (s.send o).flips = s.flips := rfl
@[simp] theorem State.send_hdmBase (o : Out) : (s.send o).hdmBase = s.hdmBase := rfl
@[simp] theorem State.send_pbr (o : Out) : (s.send o).pbr = s.pbr := rfl
@[simp] theorem State.send_homeSteps (o : Out) : (s.send o).homeSteps = s.homeSteps := rfl
@[simp] theorem State.send_arrivals (o : Out) : (s.send o).arrivals = s.arrivals := rfl
@[simp] theorem State.send_renewed (o : Out) : (s.send o).renewed = s.renewed := rfl
@[simp] theorem State.send_recalls (o : Out) : (s.send o).recalls = s.recalls := rfl
@[simp] theorem State.send_time (o : Out) : (s.send o).time = s.time := rfl
@[simp] theorem State.send_cycle (o : Out) : (s.send o).cycle = s.cycle := rfl
@[simp] theorem State.send_point (o : Out) : (s.send o).point = s.point := rfl
@[simp] theorem State.send_softPoint (o : Out) : (s.send o).softPoint = s.softPoint := rfl
@[simp] theorem State.send_clockLock (o : Out) : (s.send o).clockLock = s.clockLock := rfl
@[simp] theorem State.send_calmWindows (o : Out) : (s.send o).calmWindows = s.calmWindows := rfl
@[simp] theorem State.send_errBase (o : Out) : (s.send o).errBase = s.errBase := rfl
@[simp] theorem State.send_errN (o : Out) : (s.send o).errN = s.errN := rfl
@[simp] theorem State.send_errHead (o : Out) : (s.send o).errHead = s.errHead := rfl
@[simp] theorem State.send_errTail (o : Out) : (s.send o).errTail = s.errTail := rfl
@[simp] theorem State.send_errDropped (o : Out) : (s.send o).errDropped = s.errDropped := rfl
@[simp] theorem State.send_errWaiting (o : Out) : (s.send o).errWaiting = s.errWaiting := rfl
@[simp] theorem State.send_clears (o : Out) : (s.send o).clears = s.clears := rfl
@[simp] theorem State.send_powerCap (o : Out) : (s.send o).powerCap = s.powerCap := rfl
@[simp] theorem State.send_pcap (o : Out) : (s.send o).pcap = s.pcap := rfl
@[simp] theorem State.send_poisonBase (o : Out) : (s.send o).poisonBase = s.poisonBase := rfl
@[simp] theorem State.send_biasBase (o : Out) : (s.send o).biasBase = s.biasBase := rfl
@[simp] theorem State.send_accessBase (o : Out) : (s.send o).accessBase = s.accessBase := rfl
@[simp] theorem State.send_clkPermit (o : Out) : (s.send o).clkPermit = s.clkPermit := rfl
@[simp] theorem State.send_identities (o : Out) : (s.send o).identities = s.identities := rfl
@[simp] theorem State.send_quarantine (o : Out) : (s.send o).quarantine = s.quarantine := rfl
@[simp] theorem State.send_mappedOut (o : Out) : (s.send o).mappedOut = s.mappedOut := rfl
@[simp] theorem State.send_spareCores (o : Out) : (s.send o).spareCores = s.spareCores := rfl
@[simp] theorem State.send_scopeCfg (o : Out) : (s.send o).scopeCfg = s.scopeCfg := rfl
@[simp] theorem State.send_resv (o : Out) : (s.send o).resv = s.resv := rfl
@[simp] theorem State.send_accel (o : Out) : (s.send o).accel = s.accel := rfl
@[simp] theorem State.send_cxl (o : Out) : (s.send o).cxl = s.cxl := rfl
@[simp] theorem State.send_recovery (o : Out) : (s.send o).recovery = s.recovery := rfl
@[simp] theorem State.send_issue (o : Out) : (s.send o).issue = s.issue := rfl
@[simp] theorem State.send_ports (o : Out) : (s.send o).ports = s.ports := rfl
@[simp] theorem State.send_offered (o : Out) : (s.send o).offered = s.offered := rfl
@[simp] theorem State.send_issuedBy (o : Out) : (s.send o).issuedBy = s.issuedBy := rfl
@[simp] theorem State.send_cycleOf (o : Out) : (s.send o).cycleOf = s.cycleOf := rfl
@[simp] theorem State.send_switched (o : Out) : (s.send o).switched = s.switched := rfl
@[simp] theorem State.send_cycleCut (o : Out) : (s.send o).cycleCut = s.cycleCut := rfl
@[simp] theorem State.send_halves (o : Out) : (s.send o).halves = s.halves := rfl
@[simp] theorem State.send_agenda (o : Out) : (s.send o).agenda = s.agenda := rfl
@[simp] theorem State.send_packed (o : Out) : (s.send o).packed = s.packed := rfl
@[simp] theorem State.send_pick (o : Out) : (s.send o).pick = s.pick := rfl
@[simp] theorem State.send_cur (o : Out) : (s.send o).cur = s.cur := rfl
@[simp] theorem State.send_fresh (o : Out) : (s.send o).fresh = s.fresh := rfl
@[simp] theorem State.send_nextId (o : Out) : (s.send o).nextId = s.nextId := rfl
@[simp] theorem State.send_launchTags (o : Out) : (s.send o).launchTags = s.launchTags := rfl

@[simp] theorem State.push_agenda (es : List Instr) : (s.push es).agenda = s.agenda ++ es := rfl
@[simp] theorem State.send_outbox (o : Out) : (s.send o).outbox = s.outbox ++ [o] := rfl

/-! ### Reads by key after an update -/

@[simp] theorem State.modWave_eq (k : Nat) (f : Wave → Wave) : s.modWave k f = s.setWave k (f (s.wave k)) := rfl
@[simp] theorem State.modWg_eq (g : Nat) (f : Wg → Wg) : s.modWg g f = s.setWg g (f (s.wg g)) := rfl
@[simp] theorem State.modCore_eq (c : Nat) (f : Core → Core) : s.modCore c f = s.setCore c (f (s.core c)) := rfl
@[simp] theorem State.modLaunch_eq (n : Nat) (f : Launch → Launch) : s.modLaunch n f = s.setLaunch n (f (s.launch n)) := rfl
@[simp] theorem State.modTenant_eq (t : Nat) (f : Tenant → Tenant) : s.modTenant t f = s.setTenant t (f (s.tenant t)) := rfl
theorem State.wave_setWave (k j : Nat) (x : Wave) : (s.setWave k x).wave j = if j = k then x else s.wave j := by
  simp [State.wave, State.setWave, Tab.get_put]
@[simp] theorem State.wave_setWave_same (k : Nat) (x : Wave) : (s.setWave k x).wave k = x := by simp [State.wave_setWave]
@[simp] theorem State.wg_setWave (k j : Nat) (x : Wave) : (s.setWave k x).wg j = s.wg j := rfl
@[simp] theorem State.core_setWave (k j : Nat) (x : Wave) : (s.setWave k x).core j = s.core j := rfl
@[simp] theorem State.launch_setWave (k j : Nat) (x : Wave) : (s.setWave k x).launch j = s.launch j := rfl
@[simp] theorem State.tenant_setWave (k j : Nat) (x : Wave) : (s.setWave k x).tenant j = s.tenant j := rfl
@[simp] theorem State.wave_push (j : Nat) (es : List Instr) : (s.push es).wave j = s.wave j := rfl
@[simp] theorem State.wave_send (j : Nat) (o : Out) : (s.send o).wave j = s.wave j := rfl
theorem State.wg_setWg (k j : Nat) (x : Wg) : (s.setWg k x).wg j = if j = k then x else s.wg j := by
  simp [State.wg, State.setWg, Tab.get_put]
@[simp] theorem State.wg_setWg_same (k : Nat) (x : Wg) : (s.setWg k x).wg k = x := by simp [State.wg_setWg]
@[simp] theorem State.wave_setWg (k j : Nat) (x : Wg) : (s.setWg k x).wave j = s.wave j := rfl
@[simp] theorem State.core_setWg (k j : Nat) (x : Wg) : (s.setWg k x).core j = s.core j := rfl
@[simp] theorem State.launch_setWg (k j : Nat) (x : Wg) : (s.setWg k x).launch j = s.launch j := rfl
@[simp] theorem State.tenant_setWg (k j : Nat) (x : Wg) : (s.setWg k x).tenant j = s.tenant j := rfl
@[simp] theorem State.wg_push (j : Nat) (es : List Instr) : (s.push es).wg j = s.wg j := rfl
@[simp] theorem State.wg_send (j : Nat) (o : Out) : (s.send o).wg j = s.wg j := rfl
theorem State.core_setCore (k j : Nat) (x : Core) : (s.setCore k x).core j = if j = k then x else s.core j := by
  simp [State.core, State.setCore, Tab.get_put]
@[simp] theorem State.core_setCore_same (k : Nat) (x : Core) : (s.setCore k x).core k = x := by simp [State.core_setCore]
@[simp] theorem State.wave_setCore (k j : Nat) (x : Core) : (s.setCore k x).wave j = s.wave j := rfl
@[simp] theorem State.wg_setCore (k j : Nat) (x : Core) : (s.setCore k x).wg j = s.wg j := rfl
@[simp] theorem State.launch_setCore (k j : Nat) (x : Core) : (s.setCore k x).launch j = s.launch j := rfl
@[simp] theorem State.tenant_setCore (k j : Nat) (x : Core) : (s.setCore k x).tenant j = s.tenant j := rfl
@[simp] theorem State.core_push (j : Nat) (es : List Instr) : (s.push es).core j = s.core j := rfl
@[simp] theorem State.core_send (j : Nat) (o : Out) : (s.send o).core j = s.core j := rfl
theorem State.launch_setLaunch (k j : Nat) (x : Launch) : (s.setLaunch k x).launch j = if j = k then x else s.launch j := by
  simp [State.launch, State.setLaunch, Tab.get_put]
@[simp] theorem State.launch_setLaunch_same (k : Nat) (x : Launch) : (s.setLaunch k x).launch k = x := by simp [State.launch_setLaunch]
@[simp] theorem State.wave_setLaunch (k j : Nat) (x : Launch) : (s.setLaunch k x).wave j = s.wave j := rfl
@[simp] theorem State.wg_setLaunch (k j : Nat) (x : Launch) : (s.setLaunch k x).wg j = s.wg j := rfl
@[simp] theorem State.core_setLaunch (k j : Nat) (x : Launch) : (s.setLaunch k x).core j = s.core j := rfl
@[simp] theorem State.tenant_setLaunch (k j : Nat) (x : Launch) : (s.setLaunch k x).tenant j = s.tenant j := rfl
@[simp] theorem State.launch_push (j : Nat) (es : List Instr) : (s.push es).launch j = s.launch j := rfl
@[simp] theorem State.launch_send (j : Nat) (o : Out) : (s.send o).launch j = s.launch j := rfl
theorem State.tenant_setTenant (k j : Nat) (x : Tenant) : (s.setTenant k x).tenant j = if j = k then x else s.tenant j := by
  simp [State.tenant, State.setTenant, Tab.get_put]
@[simp] theorem State.tenant_setTenant_same (k : Nat) (x : Tenant) : (s.setTenant k x).tenant k = x := by simp [State.tenant_setTenant]
@[simp] theorem State.wave_setTenant (k j : Nat) (x : Tenant) : (s.setTenant k x).wave j = s.wave j := rfl
@[simp] theorem State.wg_setTenant (k j : Nat) (x : Tenant) : (s.setTenant k x).wg j = s.wg j := rfl
@[simp] theorem State.core_setTenant (k j : Nat) (x : Tenant) : (s.setTenant k x).core j = s.core j := rfl
@[simp] theorem State.launch_setTenant (k j : Nat) (x : Tenant) : (s.setTenant k x).launch j = s.launch j := rfl
@[simp] theorem State.tenant_push (j : Nat) (es : List Instr) : (s.push es).tenant j = s.tenant j := rfl
@[simp] theorem State.tenant_send (j : Nat) (o : Out) : (s.send o).tenant j = s.tenant j := rfl

end Sys2Proof.Machine
end

