-- ==== Sys2Proof/Laws/Lanes.lean ====
section
/-!
SUPPORT. Lanes, registers and results of a wave: what each of their operations leaves, and what it makes.
-/

namespace Sys2Proof.Machine

/-! ### The lanes of a mask -/

theorem lanesOf_nodup (m : LaneMask) : (lanesOf m).Nodup := List.Nodup.filter _ List.nodup_range
theorem mem_lanesOf {m : LaneMask} {l : Nat} : l ∈ lanesOf m ↔ l < 64 ∧ m.getLsbD l = true := by simp [lanesOf]

/-! ### One lane -/

theorem Wave.lane_modLane (w : Wave) (l j : Nat) (f : Lane → Lane) :
    (w.modLane l f).lane j = if j = l ∧ l < w.lanes.length then f (w.lane j) else w.lane j := by
  simp only [Wave.lane, Wave.modLane, List.getD_eq_getElem?_getD, List.getElem?_modify]
  by_cases e : l = j
  · subst e
    by_cases h : l < w.lanes.length
    · simp [h]
    · simp [h]
  · simp [e, Ne.symm e]
@[simp] theorem Wave.modLane_length (w : Wave) (l : Nat) (f : Lane → Lane) : (w.modLane l f).lanes.length = w.lanes.length := by
  simp [Wave.modLane]
@[simp] theorem Wave.modLane_regs (w : Wave) (l : Nat) (f : Lane → Lane) : (w.modLane l f).regs = w.regs := rfl
@[simp] theorem Wave.modLane_run (w : Wave) (l : Nat) (f : Lane → Lane) : (w.modLane l f).run = w.run := rfl
@[simp] theorem Wave.modLane_still (w : Wave) (l : Nat) (f : Lane → Lane) : (w.modLane l f).still = w.still := rfl

theorem Wave.modLanes_length (w : Wave) (ls : List Nat) (f : Lane → Lane) : (w.modLanes ls f).lanes.length = w.lanes.length := by
  induction ls generalizing w with
  | nil => rfl
  | cons l ls ih => simp only [Wave.modLanes, List.foldl_cons] at ih ⊢; rw [ih]; simp
theorem Wave.lane_modLanes (w : Wave) {ls : List Nat} (nd : ls.Nodup) (f : Lane → Lane) (j : Nat) :
    (w.modLanes ls f).lane j = if j ∈ ls ∧ j < w.lanes.length then f (w.lane j) else w.lane j := by
  induction ls generalizing w with
  | nil => simp [Wave.modLanes]
  | cons l ls ih =>
    have hn := List.nodup_cons.mp nd
    have := ih (w.modLane l f) hn.2
    simp only [Wave.modLanes, List.foldl_cons] at this ⊢
    rw [this, Wave.lane_modLane, Wave.modLane_length]
    by_cases e : j = l
    · subst e
      by_cases h : j < w.lanes.length <;> simp [hn.1, h]
    · simp [e]
theorem Wave.modLanes_keep (w : Wave) (ls : List Nat) (f : Lane → Lane) :
    (w.modLanes ls f).regs = w.regs ∧ (w.modLanes ls f).run = w.run ∧ (w.modLanes ls f).com = w.com
      ∧ (w.modLanes ls f).still = w.still ∧ (w.modLanes ls f).bad = w.bad ∧ (w.modLanes ls f).handler = w.handler := by
  induction ls generalizing w with
  | nil => simp [Wave.modLanes]
  | cons l ls ih => simp only [Wave.modLanes, List.foldl_cons] at ih ⊢; exact ih (w.modLane l f)
@[simp] theorem Wave.modLanes_regs (w : Wave) (ls : List Nat) (f : Lane → Lane) : (w.modLanes ls f).regs = w.regs := (w.modLanes_keep ls f).1
@[simp] theorem Wave.modLanes_run (w : Wave) (ls : List Nat) (f : Lane → Lane) : (w.modLanes ls f).run = w.run := (w.modLanes_keep ls f).2.1
@[simp] theorem Wave.modLanes_com (w : Wave) (ls : List Nat) (f : Lane → Lane) : (w.modLanes ls f).com = w.com := (w.modLanes_keep ls f).2.2.1
@[simp] theorem Wave.modLanes_still (w : Wave) (ls : List Nat) (f : Lane → Lane) : (w.modLanes ls f).still = w.still := (w.modLanes_keep ls f).2.2.2.1
@[simp] theorem Wave.modLanes_reg (w : Wave) (ls : List Nat) (f : Lane → Lane) (v l : Nat) : (w.modLanes ls f).reg v l = w.reg v l := by
  simp [Wave.reg]

/-! ### Registers -/

theorem Wave.reg_setReg (w : Wave) (v l u k : Nat) (x : W32) (hl : l < 64) (hk : k < 64) :
    (w.setReg v l x).reg u k = if u = v ∧ k = l then x else w.reg u k := by
  simp only [Wave.reg, Wave.setReg, Tab.get_put]
  by_cases e : u = v ∧ k = l
  · simp [e.1, e.2]
  · rw [if_neg e, if_neg (by rintro h; exact e (by omega))]
@[simp] theorem Wave.setReg_lanes (w : Wave) (v l : Nat) (x : W32) : (w.setReg v l x).lanes = w.lanes := rfl
@[simp] theorem Wave.setReg_run (w : Wave) (v l : Nat) (x : W32) : (w.setReg v l x).run = w.run := rfl
@[simp] theorem Wave.setReg_still (w : Wave) (v l : Nat) (x : W32) : (w.setReg v l x).still = w.still := rfl

/-- The registers of a destination, written in turn. -/
theorem Wave.reg_putMany (w : Wave) (b l n : Nat) (g : Nat → W32) (u k : Nat) (hl : l < 64) (hk : k < 64) :
    ((List.range n).foldl (fun w i => w.setReg (b + i) l (g i)) w).reg u k =
      if k = l ∧ b ≤ u ∧ u < b + n then g (u - b) else w.reg u k := by
  induction n with
  | zero => rw [List.range_zero, List.foldl_nil, if_neg (by omega)]
  | succ n ih =>
    rw [List.range_succ, List.foldl_append, List.foldl_cons, List.foldl_nil, Wave.reg_setReg _ _ _ _ _ _ hl hk, ih]
    by_cases e : u = b + n ∧ k = l
    · rw [if_pos e, if_pos (by omega), show u - b = n by omega]
    · rw [if_neg e]
      by_cases f : k = l ∧ b ≤ u ∧ u < b + n
      · rw [if_pos f, if_pos (by omega)]
      · rw [if_neg f, if_neg (by omega)]
theorem Wave.putMany_keep (w : Wave) (b l n : Nat) (g : Nat → W32) :
    ((List.range n).foldl (fun w i => w.setReg (b + i) l (g i)) w).lanes = w.lanes
      ∧ ((List.range n).foldl (fun w i => w.setReg (b + i) l (g i)) w).run = w.run
      ∧ ((List.range n).foldl (fun w i => w.setReg (b + i) l (g i)) w).com = w.com
      ∧ ((List.range n).foldl (fun w i => w.setReg (b + i) l (g i)) w).still = w.still := by
  induction n with
  | zero => simp
  | succ n ih => rw [List.range_succ, List.foldl_append, List.foldl_cons, List.foldl_nil]; exact ih

theorem Wave.reg_putRegs (w : Wave) (l : Nat) (d : Operand) (n : Nat) (x : BitVec 128) (u k : Nat) (hl : l < 64) (hk : k < 64) :
    (w.putRegs l d n x).reg u k =
      if k = l ∧ u ∈ destRegs d n then x.extractLsb' (32 * (u - (match d with
        | .v b => b.val
        | _ => 0))) 32 else w.reg u k := by
  cases d <;> simp only [Wave.putRegs, destRegs, List.not_mem_nil, and_false, if_false]
  rw [Wave.reg_putMany _ _ _ _ _ _ _ hl hk]
  simp [List.mem_range'_1]
theorem Wave.putRegs_keep (w : Wave) (l : Nat) (d : Operand) (n : Nat) (x : BitVec 128) :
    (w.putRegs l d n x).lanes = w.lanes ∧ (w.putRegs l d n x).run = w.run ∧ (w.putRegs l d n x).com = w.com
      ∧ (w.putRegs l d n x).still = w.still := by
  cases d <;> simp only [Wave.putRegs, and_self]
  exact Wave.putMany_keep ..

/-! ### Results -/

theorem Wave.saveRows_keep (w : Wave) (vs : List Nat) :
    (w.saveRows vs).regs = w.regs ∧ (w.saveRows vs).lanes = w.lanes ∧ (w.saveRows vs).com = w.com
      ∧ (w.saveRows vs).still = w.still ∧ (w.saveRows vs).run = { w.run with saved := (w.saveRows vs).run.saved } := by
  induction vs generalizing w with
  | nil => simp [Wave.saveRows]
  | cons v vs ih =>
    simp only [Wave.saveRows, List.foldl_cons] at ih ⊢
    split
    · exact ih w
    · have := ih { w with run := { w.run with saved := (v, w.row v) :: w.run.saved } }
      refine ⟨this.1, this.2.1, this.2.2.1, this.2.2.2.1, ?_⟩
      rw [this.2.2.2.2]

theorem Wave.writeResult_keep (w : Wave) (wb : Bool) (d : Operand) (n l : Nat) (v : BitVec 128) :
    (w.writeResult wb d n l v).run = w.run ∧ (w.writeResult wb d n l v).com = w.com ∧ (w.writeResult wb d n l v).still = w.still
      ∧ (w.writeResult wb d n l v).lanes.length = w.lanes.length := by
  simp only [Wave.writeResult]
  split
  · have := w.putRegs_keep l d n v
    exact ⟨this.2.1, this.2.2.1, this.2.2.2, by rw [Wave.modLane_length, this.1]⟩
  · exact ⟨rfl, rfl, rfl, by simp⟩
theorem Wave.lane_writeResult (w : Wave) (wb : Bool) (d : Operand) (n l j : Nat) (v : BitVec 128) :
    (w.writeResult wb d n l v).lane j =
      if j = l ∧ l < w.lanes.length then (w.lane j).shift n (v.setWidth 64) else w.lane j := by
  simp only [Wave.writeResult]
  split
  · have := w.putRegs_keep l d n v
    rw [Wave.lane_modLane]; simp only [Wave.lane, this.1]
  · rw [Wave.lane_modLane]
theorem Wave.reg_writeResult (w : Wave) (wb : Bool) (d : Operand) (n l : Nat) (v : BitVec 128) (u k : Nat) (hl : l < 64) (hk : k < 64) :
    (w.writeResult wb d n l v).reg u k =
      if wb = true ∧ k = l ∧ u ∈ destRegs d n then v.extractLsb' (32 * (u - (match d with
        | .v b => b.val
        | _ => 0))) 32 else w.reg u k := by
  simp only [Wave.writeResult]
  cases wb
  · simp only [Bool.false_eq_true, if_false, false_and]; rfl
  · simp only [if_true, true_and]; rw [← Wave.reg_putRegs w l d n v u k hl hk]; rfl

/-- The first register of a destination. -/
def destBase : Operand → Nat
  | .v b => b.val
  | _ => 0

theorem Wave.foldResults (wb : Bool) (d : Operand) (n : Nat) (r : Nat → BitVec 128) (ls : List Nat) (nd : ls.Nodup)
    (h64 : ∀ l ∈ ls, l < 64) (w : Wave) (hlen : ∀ l ∈ ls, l < w.lanes.length) :
    let t := (ls.map fun l => (l, r l)).foldl (fun w (l, v) => w.writeResult wb d n l v) w
    (∀ u k, k < 64 → t.reg u k = if wb = true ∧ k ∈ ls ∧ u ∈ destRegs d n then (r k).extractLsb' (32 * (u - destBase d)) 32 else w.reg u k)
    ∧ (∀ j, t.lane j = if j ∈ ls then (w.lane j).shift n ((r j).setWidth 64) else w.lane j)
    ∧ t.run = w.run ∧ t.com = w.com ∧ t.still = w.still ∧ t.lanes.length = w.lanes.length := by
  induction ls generalizing w with
  | nil => simp
  | cons l ls ih =>
    have hn := List.nodup_cons.mp nd
    have keep := w.writeResult_keep wb d n l (r l)
    have := ih hn.2 (fun x hx => h64 x (List.mem_cons_of_mem _ hx)) (w.writeResult wb d n l (r l))
      (fun x hx => by rw [keep.2.2.2]; exact hlen x (List.mem_cons_of_mem _ hx))
    simp only [List.map_cons, List.foldl_cons]
    obtain ⟨hr, hl, hrun, hcom, hst, hle⟩ := this
    refine ⟨fun u k hk => ?_, fun j => ?_, hrun.trans keep.1, hcom.trans keep.2.1, hst.trans keep.2.2.1, hle.trans keep.2.2.2⟩
    · rw [hr u k hk, Wave.reg_writeResult _ _ _ _ _ _ _ _ (h64 l (List.mem_cons_self ..)) hk]
      by_cases e : k = l
      · subst e
        simp only [hn.1, false_and, and_false, if_false, List.mem_cons, true_or, true_and]
        cases d <;> rfl
      · simp only [List.mem_cons, e, false_or, false_and, and_false, if_false]
    · rw [hl j, Wave.lane_writeResult]
      have : l < w.lanes.length := hlen l (List.mem_cons_self ..)
      by_cases e : j = l
      · subst e; simp [hn.1, this]
      · simp [e]

/-- What the results of a set leave in its wave. -/
theorem Wave.writeAll_spec (w : Wave) (wb : Bool) (d : Operand) (n : Nat) (r : Nat → BitVec 128) (m : LaneMask)
    (hlen : ∀ l ∈ lanesOf m, l < w.lanes.length) :
    let t := w.writeAll wb d n ((lanesOf m).map fun l => (l, r l))
    (∀ u k, k < 64 → t.reg u k = if wb = true ∧ k ∈ lanesOf m ∧ u ∈ destRegs d n then (r k).extractLsb' (32 * (u - destBase d)) 32 else w.reg u k)
    ∧ (∀ j, t.lane j = if j ∈ lanesOf m then (w.lane j).shift n ((r j).setWidth 64) else w.lane j)
    ∧ t.com = w.com ∧ t.still = w.still ∧ t.lanes.length = w.lanes.length ∧ t.run = { w.run with saved := t.run.saved } := by
  simp only [Wave.writeAll]
  have keep := w.saveRows_keep (destRegs d n)
  have h := Wave.foldResults wb d n r (lanesOf m) (lanesOf_nodup m) (fun l hl => (mem_lanesOf.mp hl).1)
    (if wb = true then w.saveRows (destRegs d n) else w) (by split <;> simpa [keep.2.1] using hlen)
  obtain ⟨a, b, c, e, f, g⟩ := h
  split at a <;> rename_i hw
  · simp only [hw, if_true] at b c e f g ⊢
    simp only [Wave.reg, Wave.lane, keep.1, keep.2.1] at a b ⊢
    exact ⟨by simpa [hw] using a, b, e.trans keep.2.2.1, f.trans keep.2.2.2.1, by rw [g, keep.2.1], by rw [c, keep.2.2.2.2]⟩
  · simp only [hw, Bool.false_eq_true, if_false] at b c e f g ⊢
    exact ⟨by simpa [hw] using a, b, e, f, g, by rw [c]⟩

end Sys2Proof.Machine
end

