-- ==== Sys2Proof/Laws/Issue.lean ====
section
/-!
SUPPORT. What the gate of an issue and what follows an instruction's own effect do, once for every instruction.
-/

namespace Sys2Proof.Machine

/-! ### The gate -/

theorem State.gate_ready {s : State} {i : Instr} (h : s.ready i = true) : s.gate i = .ok (s.entered i) := by
  simp only [State.ready, Bool.and_eq_true, Bool.or_eq_true, Bool.not_eq_true', bne_iff_ne, ne_eq, decide_eq_true_eq,
    Option.isNone_iff_eq_none, List.isEmpty_iff, List.any_eq_false, Bool.and_eq_false_iff] at h
  obtain ⟨⟨⟨⟨⟨⟨⟨⟨⟨⟨⟨⟨⟨h1, h2⟩, h3⟩, h4⟩, h5⟩, h6⟩, h7⟩, h8⟩, h9⟩, h10⟩, h11⟩, h12⟩, h14⟩, h13⟩ := h
  have f8 : i.readRegs.find? (fun v => s.me.badLanes v &&& s.cur.mask != 0) = none := by
    rw [List.find?_eq_none]; simpa using h8
  have f4 : (i.place == .own && !s.alone) = false := by rcases h4 with h | h <;> simp [h]
  have f5 : (i.issuesAlone && s.issuedBy.contains s.cur.wave) = false := by
    rcases h5 with h | h <;> simp only [h, Bool.false_and, Bool.and_false]
  have f12 : (i.place == .own && !s.logRoom s.cur.wave 1) = false := by rcases h12 with h | h <;> simp [h]
  have f11 : (s.me.handler && i.notInHandler) = false := by rcases h11 with h | h <;> simp [h]
  simp only [State.gate, h1, h2, h3, h6, h7, f4, f5, f8, h9, f11, f12, h14, List.isEmpty_nil, Bool.not_true, Bool.false_eq_true, if_false,
    Nat.not_lt.mpr h10, State.entered]
  split <;> simp_all

theorem State.ready_stands {s : State} {i : Instr} (h : s.ready i = true) : s.setStands = true := by
  simp only [State.ready, Bool.and_eq_true] at h; exact h.1.1.1.1.1.1.1.1.1.1.1.1.1
theorem State.ready_live {s : State} {i : Instr} (h : s.ready i = true) : (s.tenant (s.waveTenant s.cur.wave)).reverse = none := by
  simp only [State.ready, Bool.and_eq_true, Option.isNone_iff_eq_none] at h; exact h.2
/-- The lanes of a set that stands vote at its counter. -/
theorem State.stands_pc {s : State} (h : s.setStands = true) : ∀ l ∈ s.myLanes, (s.me.lane l).pc = s.cur.pc ∧ l < s.me.lanes.length := by
  simp only [State.setStands, Bool.and_eq_true, List.all_eq_true, beq_iff_eq, Bool.not_eq_true'] at h
  intro l hl
  have := h.1.1.2 l hl
  refine ⟨this.1.1.1, ?_⟩
  by_contra hc
  have e : s.me.lane l = {} := by simp [Wave.lane, List.getD_eq_getElem?_getD, List.getElem?_eq_none (Nat.le_of_not_lt hc)]
  rw [e] at this; simp at this

theorem State.perform_ready {s u : State} {i : Instr} {m : Bool} {body : State → Except State State} (h : s.ready i = true)
    (hb : body (s.entered i) = .ok u) : s.perform i m body = .next (u.finish i m) := by
  simp only [State.perform, State.gate_ready h, hb]
theorem State.simple_ready {s : State} {i : Instr} {body : State → State} (h : s.ready i = true) :
    s.simple i body = .next ((body (s.entered i)).finish i false) := State.perform_ready h rfl

/-! ### A frame that composes -/

/-- The part of `Frame` that holds of each operation between issue and end. -/
structure Near (k : Nat) (s t : State) : Prop where
  rest : t = { s with waves := t.waves, cores := t.cores, issue := t.issue, ports := t.ports, offered := t.offered,
                      issuedBy := t.issuedBy, agenda := t.agenda }
  others : ∀ j, j ≠ k → t.wave j = s.wave j
  cores : ∀ c, t.core c = { s.core c with port0 := (t.core c).port0, charges := (t.core c).charges, banks := (t.core c).banks,
                                          storeUsed := (t.core c).storeUsed }
  own : (t.wave k).still = (s.wave k).still

theorem Near.refl (k : Nat) (s : State) : Near k s s := ⟨rfl, fun _ _ => rfl, fun _ => rfl, rfl⟩
theorem Near.trans {k : Nat} {s t u : State} (a : Near k s t) (b : Near k t u) : Near k s u := by
  refine ⟨?_, fun j h => (b.others j h).trans (a.others j h), fun c => ?_, b.own.trans a.own⟩
  · have h1 := a.rest
    have h2 := b.rest
    rw [h2, h1]
  · have h1 := a.cores c
    have h2 := b.cores c
    rw [h2, h1]

theorem Near.frame {k : Nat} {s t : State} (a : Near k s t) : Frame k s t := by
  refine ⟨a.rest, a.others, a.cores, a.own, fun b => ?_, fun g o => ?_, fun c o => ?_⟩
  · simp only [State.peek]; rw [a.rest]
  · simp only [State.peek, State.wg]; rw [a.rest]
  · simp only [State.peek]; rw [a.cores c]

theorem Near.setWave {k : Nat} {s : State} {w : Wave} (h : w.still = (s.wave k).still) : Near k s (s.setWave k w) :=
  ⟨rfl, fun j hj => by simp [State.wave_setWave, hj], fun _ => rfl, by simpa [State.wave_setWave] using h⟩
theorem Near.push {k : Nat} (s : State) (es : List Instr) : Near k s (s.push es) := ⟨rfl, fun _ _ => rfl, fun _ => rfl, rfl⟩

@[simp] theorem State.wave_cores (s : State) (x : Tab Core) (k : Nat) : ({ s with cores := x } : State).wave k = s.wave k := rfl

theorem Near.chargeCore {k : Nat} (s : State) (c t : Nat) (x : Cause) (pc : W64) (cut : Nat) : Near k s (s.chargeCore c t x pc cut) := by
  simp only [State.chargeCore]
  split
  · refine ⟨rfl, fun _ _ => rfl, fun d => ?_, rfl⟩
    simp only [State.modCore_eq, State.core_setCore]
    split
    · rename_i e; rw [e]
    · rfl
  · exact Near.refl _ _

/-- The state in which a set has taken its port. -/
def State.portTaken (s : State) (c : Cause) : State :=
  { s with ports := s.ports - 1, offered := s.offered.filter fun x => !x.same s.cur && !s.replaced x, issuedBy := s.cur.wave :: s.issuedBy,
           cores := if s.ports = 2 then
               Tab.put {} s.cores s.myCore { s.core s.myCore with
                 port0 := (some (s.cur.wave, leading s.cur.mask), if s.me.handler then .trap else c, s.cur.pc) }
             else s.cores }
theorem State.usePort_eq (s : State) (c : Cause) :
    s.usePort c = (s.portTaken c).setWave s.cur.wave { s.wave s.cur.wave with
      trials := (s.wave s.cur.wave).trials.filter (·.1 != s.cur.pc), woke := (s.wave s.cur.wave).woke.erase s.cur.pc,
      storing := (s.wave s.cur.wave).storing.filter (·.1 != s.cur.pc) } := rfl
theorem Near.portTaken (k : Nat) (s : State) (c : Cause) : Near k s (s.portTaken c) := by
  refine ⟨rfl, fun _ _ => rfl, fun d => ?_, rfl⟩
  show Tab.get {} (if s.ports = 2 then _ else s.cores) d = _
  split
  · rw [Tab.get_put]; split
    · rename_i h e; subst e; simp only [State.core, State.portTaken, h, if_true, Tab.get_put_same]
    · rename_i h e; simp only [State.core, State.portTaken, h, if_true, Tab.get_put, e, if_false]
  · rename_i h; simp only [State.core, State.portTaken, h, if_false]
theorem Near.usePort {s : State} (c : Cause) : Near s.cur.wave s (s.usePort c) := by
  rw [State.usePort_eq]
  exact (Near.portTaken _ s c).trans (Near.setWave rfl)

theorem State.chargeCore_wave (s : State) (c t : Nat) (x : Cause) (pc : W64) (cut k : Nat) : (s.chargeCore c t x pc cut).wave k = s.wave k := by
  simp only [State.chargeCore]; split <;> simp
/-- What a chunk holds for its commit is the same, its counts and notes aside. -/
def Chunk.alike (a b : Chunk) : Prop := a.writes = b.writes ∧ a.wsig = b.wsig ∧ a.closing = b.closing ∧ a.flags = b.flags ∧ a.wpriv = b.wpriv
theorem State.issued_run (s : State) (k : Nat) (pc : W64) : ((s.issued k pc).wave k).run.alike (s.wave k).run
    ∧ ((s.issued k pc).wave k).run.issued = (s.wave k).run.issued := by
  simp only [State.issued, State.charge]
  split
  · rw [State.chargeCore_wave]; exact ⟨⟨rfl, rfl, rfl, rfl, rfl⟩, rfl⟩
  · split
    · rw [State.chargeCore_wave]; exact ⟨⟨rfl, rfl, rfl, rfl, rfl⟩, rfl⟩
    · simp only [State.modWave_eq, State.wave_setWave_same]; exact ⟨⟨rfl, rfl, rfl, rfl, rfl⟩, trivial⟩

theorem Near.issued {s : State} (pc : W64) (h : (s.tenant (s.wg (s.wave s.cur.wave).wg).tenant).reverse = none) :
    Near s.cur.wave s (s.issued s.cur.wave pc) := by
  simp only [State.issued, h]
  split
  · exact Near.chargeCore ..
  · simp only [Option.isSome_none, Bool.false_eq_true, if_false, State.modWave_eq]
    exact Near.setWave rfl

/-- Near, with the wave's registers and lanes as they were. -/
structure Calm (k : Nat) (s t : State) : Prop where
  near : Near k s t
  regs : (t.wave k).regs = (s.wave k).regs
  lanes : (t.wave k).lanes = (s.wave k).lanes
  com : (t.wave k).com = (s.wave k).com

theorem Calm.refl (k : Nat) (s : State) : Calm k s s := ⟨.refl .., rfl, rfl, rfl⟩
theorem Calm.trans {k : Nat} {s t u : State} (a : Calm k s t) (b : Calm k t u) : Calm k s u :=
  ⟨a.near.trans b.near, b.regs.trans a.regs, b.lanes.trans a.lanes, b.com.trans a.com⟩
theorem Calm.setWave {k : Nat} {s : State} {w : Wave} (h : w.still = (s.wave k).still) (r : w.regs = (s.wave k).regs)
    (l : w.lanes = (s.wave k).lanes) (c : w.com = (s.wave k).com) : Calm k s (s.setWave k w) :=
  ⟨.setWave h, by simpa using r, by simpa using l, by simpa using c⟩
theorem Calm.chargeCore {k : Nat} (s : State) (c t : Nat) (x : Cause) (pc : W64) (cut : Nat) : Calm k s (s.chargeCore c t x pc cut) := by
  refine ⟨.chargeCore .., ?_, ?_, ?_⟩ <;> (simp only [State.chargeCore]; split <;> simp)
theorem Calm.usePort {s : State} (c : Cause) : Calm s.cur.wave s (s.usePort c) := by
  refine ⟨.usePort c, ?_, ?_, ?_⟩ <;> (rw [State.usePort_eq]; simp)
theorem Calm.issued {s : State} (pc : W64) (h : (s.tenant (s.wg (s.wave s.cur.wave).wg).tenant).reverse = none) :
    Calm s.cur.wave s (s.issued s.cur.wave pc) := by
  simp only [State.issued, h]
  split
  · exact Calm.chargeCore ..
  · simp only [Option.isSome_none, Bool.false_eq_true, if_false, State.modWave_eq]
    exact Calm.setWave rfl rfl rfl rfl

theorem Near.wg {k : Nat} {s t : State} (h : Near k s t) : t.wgs = s.wgs ∧ t.tenants = s.tenants ∧ t.cur = s.cur := by
  rw [h.rest]; exact ⟨rfl, rfl, rfl⟩
/-- The tenant of the wave is the same after a frame. -/
theorem Near.waveTenant {k : Nat} {s t : State} (h : Near k s t) : t.waveTenant k = s.waveTenant k := by
  have hk : (t.wave k).wg = (s.wave k).wg := by
    have := congrArg Wave.wg h.own; exact this
  simp only [State.waveTenant, State.wg, hk, h.wg.1]

/-- The wave with one more issue in its chunk. -/
def Wave.counted (w : Wave) : Wave :=
  { w with run := { w.run with issued := w.run.issued + 1, issues := w.run.issues ++ w.run.cand.toList, cand := none }, held := none }
theorem State.count_eq {s : State} (pc : W64) (h : (s.tenant (s.waveTenant s.cur.wave)).reverse = none) :
    s.count s.cur.wave pc =
      ((s.setWave s.cur.wave (s.wave s.cur.wave).counted).usePort .issue).issued s.cur.wave pc := by
  have e : (s.setWave s.cur.wave (s.wave s.cur.wave).counted).waveTenant s.cur.wave = s.waveTenant s.cur.wave := by
    simp only [State.waveTenant, State.wave_setWave_same, State.wg_setWave]; rfl
  have e2 : ((s.setWave s.cur.wave (s.wave s.cur.wave).counted).tenant
      ((s.setWave s.cur.wave (s.wave s.cur.wave).counted).waveTenant s.cur.wave)).reverse = none := by rw [e]; exact h
  have key : ∀ x : State, x = s.setWave s.cur.wave (s.wave s.cur.wave).counted → s.count s.cur.wave pc =
      ((match (x.tenant (x.waveTenant s.cur.wave)).reverse with
        | some r => x.modTenant (x.waveTenant s.cur.wave) fun y => { y with reverse := some { r with plan := r.plan.drop 1 } }
        | none => x).usePort .issue).issued s.cur.wave pc := by rintro x rfl; rfl
  rw [key _ rfl, e2]

theorem Calm.count {s : State} (pc : W64) (h : (s.tenant (s.waveTenant s.cur.wave)).reverse = none) :
    Calm s.cur.wave s (s.count s.cur.wave pc) := by
  rw [State.count_eq pc h]
  have a : Calm s.cur.wave s (s.setWave s.cur.wave (s.wave s.cur.wave).counted) := Calm.setWave rfl rfl rfl rfl
  have ab := a.trans (Calm.usePort (s := s.setWave s.cur.wave (s.wave s.cur.wave).counted) .issue)
  have e := ab.near.waveTenant
  have e2 := ab.near.wg
  refine ab.trans ?_
  have := Calm.issued (s := (s.setWave s.cur.wave (s.wave s.cur.wave).counted).usePort .issue) pc (by
    rw [e2.2.2]
    show (State.tenant _ (State.waveTenant _ s.cur.wave)).reverse = none
    rw [e]; simp only [State.tenant, e2.2.1]; exact h)
  rwa [e2.2.2] at this

theorem Chunk.alike_trans {a b c : Chunk} (h : a.alike b) (g : b.alike c) : a.alike c :=
  ⟨h.1.trans g.1, h.2.1.trans g.2.1, h.2.2.1.trans g.2.2.1, h.2.2.2.1.trans g.2.2.2.1, h.2.2.2.2.trans g.2.2.2.2⟩
theorem State.count_run {s : State} (pc : W64) (h : (s.tenant (s.waveTenant s.cur.wave)).reverse = none) :
    ((s.count s.cur.wave pc).wave s.cur.wave).run.alike (s.wave s.cur.wave).run ∧ ((s.count s.cur.wave pc).wave s.cur.wave).run.issued ≠ 0 := by
  rw [State.count_eq pc h]
  have a := State.issued_run ((s.setWave s.cur.wave (s.wave s.cur.wave).counted).usePort .issue) s.cur.wave pc
  have u : (((s.setWave s.cur.wave (s.wave s.cur.wave).counted).usePort .issue).wave s.cur.wave).run = (s.wave s.cur.wave).counted.run := by
    rw [State.usePort_eq, State.setWave_cur, State.wave_setWave_same, State.wave_setWave_same]
  rw [u] at a
  exact ⟨Chunk.alike_trans a.1 ⟨rfl, rfl, rfl, rfl, rfl⟩, by rw [a.2]; exact Nat.succ_ne_zero _⟩

theorem Calm.barOthers {k : Nat} (s : State) : Calm k s s.barOthers := ⟨⟨rfl, fun _ _ => rfl, fun _ => rfl, rfl⟩, rfl, rfl, rfl⟩
theorem Calm.touch {k : Nat} (bs : List (Nat × Nat)) : ∀ s : State, Calm k s (s.touch bs) := by
  induction bs with
  | nil => exact fun s => .refl _ _
  | cons b bs ih =>
    intro s
    have one : Calm k s (s.modCore b.1 fun x =>
        { x with banks := Tab.put 0 x.banks b.2 (s.cycle + 1), storeUsed := if b.2 < 48 then s.cycle else x.storeUsed }) := by
      refine ⟨⟨rfl, fun _ _ => rfl, fun d => ?_, rfl⟩, rfl, rfl, rfl⟩
      simp only [State.modCore_eq, State.core_setCore]
      split
      · rename_i e; rw [e]
      · rfl
    exact one.trans (ih _)
/-- Banks in use change nothing of any wave. -/
theorem State.touch_wave (bs : List (Nat × Nat)) : ∀ (s : State) (k : Nat), (s.touch bs).wave k = s.wave k := by
  induction bs with
  | nil => exact fun _ _ => rfl
  | cons b bs ih => exact fun s k => (ih _ k).trans rfl

/-- The end of a chunk: near, registers kept; the lanes as they were, or with invalid latches at the start of a new chunk. -/
theorem State.endChunk_spec (s : State) (k : Nat) :
    Near k s (s.endChunk k) ∧ ((s.endChunk k).wave k).regs = (s.wave k).regs
      ∧ (((s.endChunk k).wave k).lanes = (s.wave k).lanes ∨
        (((s.endChunk k).wave k).lanes = (s.wave k).lanes.map Lane.noLatch ∧ ((s.endChunk k).wave k).run.issued = 0)) := by
  simp only [State.endChunk, State.modWave_eq]
  generalize hw : ({ s.wave k with run := { (s.wave k).run with ended := true } } : Wave) = w
  have h1 : w.still = (s.wave k).still := by subst hw; rfl
  have h2 : w.regs = (s.wave k).regs := by subst hw; rfl
  have h3 : w.lanes = (s.wave k).lanes := by subst hw; rfl
  simp only [State.advance]
  split
  · refine ⟨?_, ?_, Or.inr ?_⟩
    · refine Near.trans (Near.setWave (w := w) h1) (Near.trans (Near.setWave ?_) (Near.push _ _))
      simp only [State.wave_setWave_same]; rfl
    · simp only [State.wave_push, State.wave_setWave_same]; exact h2
    · simp only [State.wave_push, State.wave_setWave_same]
      exact ⟨by show w.lanes.map Lane.noLatch = _; rw [h3], rfl⟩
  · exact ⟨Near.setWave h1, by simpa using h2, Or.inl (by simpa using h3)⟩

/-- A lane after its instruction's own effect. -/
def Lane.onward (i : Instr) (moved : Bool) (x : Lane) : Lane :=
  if moved then { x.after i with age := 0, skip := false } else (x.after i).step
/-- The wave with its reads noted and its lanes gone on. -/
def State.wentOn (u : State) (i : Instr) (moved : Bool) : Wave :=
  (((u.wave u.cur.wave).noteRegs i.readRegs).mend i.written u.cur.mask).modLanes u.myLanes (Lane.onward i moved)
/-- The same with the banks of its registers in use, and counted. -/
def State.noted (u : State) (i : Instr) (moved : Bool) : State :=
  ((u.setWave u.cur.wave (u.wentOn i moved)).useBanks (u.namedRows i)).count u.cur.wave u.cur.pc
/-- The mark of a chunk whose effect is performed. -/
def State.marked (s : State) (i : Instr) (k : Nat) : State :=
  if i.place == .own then s.modWave k fun w => { w with run := { w.run with performed := true } } else s
/-- The state before the end of the chunk is decided. -/
def State.passed (u : State) (i : Instr) (moved : Bool) : State :=
  let s := (u.noted i moved).marked i u.cur.wave
  if i.place != .inside || s.me.run.last then s.barOthers else s
theorem State.marked_run (s : State) (i : Instr) (k : Nat) : ((s.marked i k).wave k).run.alike (s.wave k).run
    ∧ ((s.marked i k).wave k).run.issued = (s.wave k).run.issued := by
  simp only [State.marked]
  split
  · simp only [State.modWave_eq, State.wave_setWave_same]; exact ⟨⟨rfl, rfl, rfl, rfl, rfl⟩, trivial⟩
  · exact ⟨⟨rfl, rfl, rfl, rfl, rfl⟩, rfl⟩
theorem State.passed_wave (u : State) (i : Instr) (moved : Bool) :
    (u.passed i moved).wave u.cur.wave = ((u.noted i moved).marked i u.cur.wave).wave u.cur.wave := by
  simp only [State.passed]
  generalize (u.noted i moved).marked i u.cur.wave = v
  split <;> rfl
theorem Calm.marked {s : State} (i : Instr) (k : Nat) : Calm k s (s.marked i k) := by
  simp only [State.marked]
  split
  · exact Calm.setWave rfl rfl rfl rfl
  · exact .refl _ _

theorem State.finish_eq (u : State) (i : Instr) (moved : Bool) : u.finish i moved =
    if i.place != .inside || (u.passed i moved).me.chunkFull || (u.passed i moved).pauseEnds i || (u.passed i moved).replayed u.cur.wave
    then (u.passed i moved).endChunk u.cur.wave else u.passed i moved := rfl

theorem Wave.modLanes_congr (ls : List Nat) (f : Lane → Lane) : ∀ a b : Wave, a.lanes = b.lanes → (a.modLanes ls f).lanes = (b.modLanes ls f).lanes := by
  induction ls with
  | nil => exact fun a b h => h
  | cons l ls ih => exact fun a b h => ih _ _ (by simp only [Wave.modLane, h])

theorem State.wentOn_spec (u : State) (i : Instr) (moved : Bool) :
    (u.wentOn i moved).still = u.me.still ∧ (u.wentOn i moved).regs = u.me.regs
      ∧ (u.wentOn i moved).lanes = (u.me.modLanes u.myLanes (Lane.onward i moved)).lanes := by
  have k1 : ∀ w : Wave, ((w.noteRegs i.readRegs).mend i.written u.cur.mask).still = w.still
      ∧ ((w.noteRegs i.readRegs).mend i.written u.cur.mask).regs = w.regs
      ∧ ((w.noteRegs i.readRegs).mend i.written u.cur.mask).lanes = w.lanes := by
    intro w; simp only [Wave.mend]; split <;> exact ⟨rfl, rfl, rfl⟩
  have := k1 (u.wave u.cur.wave)
  exact ⟨(Wave.modLanes_still ..).trans this.1, (Wave.modLanes_regs ..).trans this.2.1, Wave.modLanes_congr _ _ _ _ this.2.2⟩

theorem State.useBanks_cur (s : State) (ls : List Loc) (k : Nat) : (s.useBanks ls).wave k = s.wave k := State.touch_wave _ s k
/-- The state of the noted wave, from which its issue is counted. -/
theorem State.banked_spec (u : State) (i : Instr) (moved : Bool) (h : (u.tenant (u.waveTenant u.cur.wave)).reverse = none) :
    let v := (u.setWave u.cur.wave (u.wentOn i moved)).useBanks (u.namedRows i)
    Near u.cur.wave u v ∧ v.cur = u.cur ∧ v.wave u.cur.wave = u.wentOn i moved ∧ (v.tenant (v.waveTenant u.cur.wave)).reverse = none := by
  have n1 : Near u.cur.wave u (u.setWave u.cur.wave (u.wentOn i moved)) := Near.setWave (u.wentOn_spec i moved).1
  have n2 : Near u.cur.wave u ((u.setWave u.cur.wave (u.wentOn i moved)).useBanks (u.namedRows i)) := n1.trans (Calm.touch _ _).near
  refine ⟨n2, n2.wg.2.2, ?_, ?_⟩
  · rw [State.useBanks_cur, State.wave_setWave_same]
  · have e := n2.waveTenant
    rw [e]; simp only [State.tenant, n2.wg.2.1]; exact h

theorem State.passed_spec (u : State) (i : Instr) (moved : Bool) (h : (u.tenant (u.waveTenant u.cur.wave)).reverse = none) :
    Near u.cur.wave u (u.passed i moved) ∧ ((u.passed i moved).wave u.cur.wave).regs = u.me.regs
      ∧ ((u.passed i moved).wave u.cur.wave).lanes = (u.me.modLanes u.myLanes (Lane.onward i moved)).lanes := by
  have k := u.wentOn_spec i moved
  obtain ⟨n1, ec, ew, er⟩ := u.banked_spec i moved h
  generalize hv : (u.setWave u.cur.wave (u.wentOn i moved)).useBanks (u.namedRows i) = v at n1 ec ew er
  have c1 : Calm u.cur.wave v (u.noted i moved) := by
    have := Calm.count (s := v) u.cur.pc (by rw [ec]; exact er)
    rw [ec] at this; rw [State.noted, hv]; exact this
  have c2 : Calm u.cur.wave v (u.passed i moved) := by
    refine (c1.trans (Calm.marked i _)).trans ?_
    simp only [State.passed]
    split
    · exact Calm.barOthers _
    · exact .refl _ _
  refine ⟨n1.trans c2.near, c2.regs.trans ?_, c2.lanes.trans ?_⟩
  · rw [ew]; exact k.2.1
  · rw [ew]; exact k.2.2

/-- What follows an instruction's own effect (R280): its lanes go on or keep the counters it gave them; nothing else of the device. -/
theorem State.finish_spec (u : State) (i : Instr) (moved : Bool) (h : (u.tenant (u.waveTenant u.cur.wave)).reverse = none) :
    Near u.cur.wave u (u.finish i moved) ∧ ((u.finish i moved).wave u.cur.wave).regs = u.me.regs
      ∧ (((u.finish i moved).wave u.cur.wave).lanes = (u.me.modLanes u.myLanes (Lane.onward i moved)).lanes ∨
          (((u.finish i moved).wave u.cur.wave).lanes = (u.me.modLanes u.myLanes (Lane.onward i moved)).lanes.map Lane.noLatch
            ∧ ((u.finish i moved).wave u.cur.wave).run.issued = 0)) := by
  have p := u.passed_spec i moved h
  rw [State.finish_eq]
  split
  · have e := (u.passed i moved).endChunk_spec u.cur.wave
    rw [p.2.1, p.2.2] at e
    exact ⟨p.1.trans e.1, e.2⟩
  · exact ⟨p.1, p.2.1, Or.inl p.2.2⟩

/-- What the chunk of the issue holds for its commit is what its instruction's own effect has left there. -/
theorem State.finish_chunk (u : State) (i : Instr) (moved : Bool) (h : (u.tenant (u.waveTenant u.cur.wave)).reverse = none) :
    ((u.finish i moved).wave u.cur.wave).lastChunk.alike u.me.run := by
  have k : (u.wentOn i moved).run.alike u.me.run := by
    simp only [State.wentOn, Wave.modLanes_run, Wave.mend]; split <;> exact ⟨rfl, rfl, rfl, rfl, rfl⟩
  obtain ⟨_, ec, ew, er⟩ := u.banked_spec i moved h
  have c : ((u.noted i moved).wave u.cur.wave).run.alike (u.wentOn i moved).run ∧ ((u.noted i moved).wave u.cur.wave).run.issued ≠ 0 := by
    generalize hv : (u.setWave u.cur.wave (u.wentOn i moved)).useBanks (u.namedRows i) = v at ec ew er
    have := State.count_run (s := v) u.cur.pc (by rw [ec]; exact er)
    rw [ec, ew] at this; rw [State.noted, hv]; exact this
  have m := State.marked_run (u.noted i moved) i u.cur.wave
  have p : ((u.passed i moved).wave u.cur.wave).run.alike u.me.run ∧ ((u.passed i moved).wave u.cur.wave).run.issued ≠ 0 := by
    rw [State.passed_wave]; exact ⟨Chunk.alike_trans m.1 (Chunk.alike_trans c.1 k), by rw [m.2]; exact c.2⟩
  rw [State.finish_eq]
  split
  · simp only [State.endChunk, State.modWave_eq]
    generalize hw : ({ (u.passed i moved).wave u.cur.wave with run := { ((u.passed i moved).wave u.cur.wave).run with ended := true } } : Wave) = w
    have q : w.run.alike u.me.run ∧ w.run.issued ≠ 0 := by subst hw; exact p
    simp only [State.advance]
    split
    · simp only [State.wave_push, State.wave_setWave_same]; exact q.1
    · simp only [State.wave_setWave_same, Wave.lastChunk, q.2, if_false]; exact q.1
  · simp only [Wave.lastChunk, p.2, if_false]; exact p.1

/-- Each lane after the end of an instruction. -/
theorem State.finish_lane (u : State) (i : Instr) (moved : Bool) (h : (u.tenant (u.waveTenant u.cur.wave)).reverse = none) (l : Nat) :
    let x := if l ∈ u.myLanes ∧ l < u.me.lanes.length then Lane.onward i moved (u.me.lane l) else u.me.lane l
    ((u.finish i moved).wave u.cur.wave).lane l = x ∨
      (((u.finish i moved).wave u.cur.wave).lane l = x.noLatch ∧ ((u.finish i moved).wave u.cur.wave).run.issued = 0) := by
  have f := (u.finish_spec i moved h).2.2
  have m := Wave.lane_modLanes u.me (lanesOf_nodup u.cur.mask) (Lane.onward i moved) l
  simp only at m ⊢
  rcases f with f | f
  · left; rw [← State.myLanes] at m; rw [← m]; simp only [Wave.lane, f]
  · right
    refine ⟨?_, f.2⟩
    rw [← State.myLanes] at m; rw [← m]
    simp only [Wave.lane, f.1, List.getD_eq_getElem?_getD, List.getElem?_map]
    cases (u.me.modLanes u.myLanes (Lane.onward i moved)).lanes[l]? <;> rfl

end Sys2Proof.Machine
end

