-- ==== Sys2Proof/Laws/Results.lean ====
section
/-!
SUPPORT. What a register instruction and a control transfer leave: the frame and the results of `Wrote` and `Went`, once for every
instruction of that shape.
-/

namespace Sys2Proof.Machine

theorem Lane.after_keep (x : Lane) (i : Instr) : (x.after i).pc = x.pc ∧ (x.after i).latches = x.latches ∧ (x.after i).lvalid = x.lvalid
    ∧ (x.after i).exited = x.exited := by
  unfold Lane.after; split <;> exact ⟨rfl, rfl, rfl, rfl⟩
theorem Lane.onward_keep (x : Lane) (i : Instr) (m : Bool) : (x.onward i m).pc = (if m then x.pc else x.pc + 4)
    ∧ (x.onward i m).latches = x.latches ∧ (x.onward i m).lvalid = x.lvalid ∧ (x.onward i m).exited = x.exited := by
  have := x.after_keep i
  cases m <;> simp [Lane.onward, Lane.step, this]

/-- Noting an issue changes nothing but the note. -/
theorem State.entered_cases (s : State) (i : Instr) :
    s.entered i = s ∨ ∃ c, s.entered i = s.setWave s.cur.wave { s.me with run := { s.me.run with cand := c } } := by
  unfold State.entered
  split
  · exact Or.inr ⟨_, rfl⟩
  · exact Or.inl rfl
theorem State.entered_spec (s : State) (i : Instr) : Near s.cur.wave s (s.entered i) ∧ (s.entered i).me.regs = s.me.regs
    ∧ (s.entered i).me.lanes = s.me.lanes ∧ (s.entered i).me.idx = s.me.idx ∧ (s.entered i).cur = s.cur := by
  rcases s.entered_cases i with h | ⟨c, h⟩
  · rw [h]; exact ⟨.refl .., rfl, rfl, rfl, rfl⟩
  · rw [h]; refine ⟨.setWave rfl, ?_, ?_, ?_, rfl⟩ <;> simp [State.me]
theorem State.entered_myLanes (s : State) (i : Instr) : (s.entered i).myLanes = s.myLanes := by
  simp only [State.myLanes, (s.entered_spec i).2.2.2.2]
theorem State.entered_lane (s : State) (i : Instr) (l : Nat) : (s.entered i).me.lane l = s.me.lane l := by
  simp only [Wave.lane, (s.entered_spec i).2.2.1]
theorem State.entered_reg (s : State) (i : Instr) (v l : Nat) : (s.entered i).me.reg v l = s.me.reg v l := by
  simp only [Wave.reg, (s.entered_spec i).2.1]
theorem State.entered_reverse {s : State} {i : Instr} (h : (s.tenant (s.waveTenant s.cur.wave)).reverse = none) :
    ((s.entered i).tenant ((s.entered i).waveTenant s.cur.wave)).reverse = none := by
  have e := s.entered_spec i
  rw [e.1.waveTenant]; simp only [State.tenant, e.1.wg.2.1]; exact h

/-- Reads of a wave that differs only in its note. -/
theorem State.entered_read (s : State) (i : Instr) (l : Nat) (o : Operand) : (s.entered i).me.read32 l o = s.me.read32 l o
    ∧ (s.entered i).me.read64 l o = s.me.read64 l o ∧ (∀ n, (s.entered i).me.readN l n o = s.me.readN l n o) := by
  have e := s.entered_spec i
  have h32 : (s.entered i).me.read32 l o = s.me.read32 l o := by
    cases o <;> simp only [Wave.read32, Wave.reg, Wave.lane, e.2.1, e.2.2.1, e.2.2.2.1]
  have h64 : (s.entered i).me.read64 l o = s.me.read64 l o := by
    cases o <;> simp only [Wave.read64, Wave.reg, Wave.lane, e.2.1, e.2.2.1, e.2.2.2.1]
  refine ⟨h32, h64, fun n => ?_⟩
  simp only [Wave.readN, h32, h64]
  split
  · rfl
  · split
    · rfl
    · cases o <;> simp only [Wave.read128, Wave.reg, e.2.1]

/-- The state after results were written and the instruction has ended. -/
theorem State.results_wrote {s u : State} {i : Instr} {w : Bool} {d : Operand} {n : Nat} {r : Nat → BitVec 128} (h : s.ready i = true)
    (near : Near s.cur.wave (s.entered i) u) (hcur : u.cur = s.cur)
    (regs : ∀ v k, k < 64 → u.me.reg v k =
      if w = true ∧ k ∈ s.myLanes ∧ v ∈ destRegs d n then (r k).extractLsb' (32 * (v - destBase d)) 32 else s.me.reg v k)
    (lanes : ∀ l, u.me.lane l = if l ∈ s.myLanes then (s.me.lane l).shift n ((r l).setWidth 64) else s.me.lane l)
    (len : u.me.lanes.length = s.me.lanes.length) (held : u.me.run.alike { s.me.run with flags := u.me.run.flags }) :
    Wrote s (u.finish i false) w d n r ∧ ((u.finish i false).wave s.cur.wave).lastChunk.flags = u.me.run.flags := by
  have stands := State.stands_pc (State.ready_stands h)
  have hme : u.me = u.wave s.cur.wave := by rw [State.me, hcur]
  have ent := s.entered_spec i
  have rev : (u.tenant (u.waveTenant u.cur.wave)).reverse = none := by
    rw [hcur, near.waveTenant]; simp only [State.tenant, near.wg.2.1]
    exact State.entered_reverse (State.ready_live h)
  have f := u.finish_spec i false rev
  have fl := u.finish_lane i false rev
  have hl : u.myLanes = s.myLanes := by rw [State.myLanes, hcur, State.myLanes]
  rw [hcur] at f fl
  have hreg : ∀ v k, ((u.finish i false).wave s.cur.wave).reg v k = u.me.reg v k := fun v k => by
    simp only [Wave.reg, f.2.1]
  have lane_in : ∀ l ∈ s.myLanes, let y := Lane.onward i false ((s.me.lane l).shift n ((r l).setWidth 64))
      ((u.finish i false).wave s.cur.wave).lane l = y ∨
      (((u.finish i false).wave s.cur.wave).lane l = y.noLatch ∧ ((u.finish i false).wave s.cur.wave).run.issued = 0) := fun l hm => by
    have := fl l
    rw [hl, len, if_pos ⟨hm, (stands l hm).2⟩, lanes l, if_pos hm] at this
    exact this
  have fc := u.finish_chunk i false rev
  rw [hcur] at fc
  refine ⟨⟨((ent.1.trans near).trans f.1).frame, ⟨fc.1.trans held.1, fc.2.1.trans held.2.1, fc.2.2.2.2.trans held.2.2.2.2, fc.2.2.1.trans held.2.2.1⟩, ?_, ?_, ?_, ?_, ?_, ?_⟩, fc.2.2.2.1⟩
  · rintro v rfl hw l hm j hj
    rw [hreg, regs _ _ (mem_lanesOf.mp hm).1, if_pos ⟨hw, hm, by simp [destRegs, List.mem_range'_1]; omega⟩]
    simp [destBase]
  · intro v l hl64 hn
    rw [hreg, regs _ _ hl64, if_neg hn]
  · intro l hm
    have := fl l
    rw [hl, if_neg (fun hx => hm hx.1), lanes l, if_neg hm] at this
    rcases this with e | e
    · rw [e]
    · rw [e.1]; rfl
  · intro l hm
    have k := (((s.me.lane l).shift n ((r l).setWidth 64)).onward_keep i false).1
    rcases lane_in l hm with e | e
    · rw [e, k]; simp [Lane.shift, (stands l hm).1]
    · rw [e.1]; simp only [Lane.noLatch, k]; simp [Lane.shift, (stands l hm).1]
  · intro l hm
    have k := (((s.me.lane l).shift n ((r l).setWidth 64)).onward_keep i false).2.1
    rcases lane_in l hm with e | e
    · rw [e, k]; rfl
    · rw [e.1]; simp only [Lane.noLatch, k]; rfl
  · intro hi l hm
    have k := (((s.me.lane l).shift n ((r l).setWidth 64)).onward_keep i false).2.2.1
    rcases lane_in l hm with e | e
    · rw [e, k]; rfl
    · exact absurd e.2 hi

/-- One result of `n` registers in every active lane. -/
theorem State.simple_results {s : State} {i : Instr} {w : Bool} {d : Operand} {n : Nat} {r : State → Wave → Nat → BitVec 128}
    (h : s.ready i = true) :
    ∃ t, s.simple i (fun t => t.results w d n (r t)) = .next t
      ∧ (Wrote s t w d n fun l => r (s.entered i) (s.entered i).me l) ∧ (t.wave s.cur.wave).lastChunk.flags = s.me.run.flags := by
  refine ⟨_, State.simple_ready h, ?_⟩
  have ent := s.entered_spec i
  have stands := State.stands_pc (State.ready_stands h)
  have hk : (s.entered i).cur.wave = s.cur.wave := by rw [ent.2.2.2.2]
  have sp := (s.entered i).me.writeAll_spec w d n (r (s.entered i) (s.entered i).me) s.cur.mask fun l hm => by
    rw [ent.2.2.1]; exact (stands l hm).2
  have hw : ((s.entered i).results w d n (r (s.entered i))).me =
      (s.entered i).me.writeAll w d n ((lanesOf s.cur.mask).map fun l => (l, r (s.entered i) (s.entered i).me l)) := by
    simp only [State.results, State.me, State.modWave_eq, State.setWave_cur, State.wave_setWave_same, State.myLanes, ent.2.2.2.2]
  have er : (s.entered i).me.run.alike s.me.run := by
    rcases s.entered_cases i with e | ⟨c, e⟩
    · rw [e]; exact ⟨rfl, rfl, rfl, rfl, rfl⟩
    · rw [e]; simp only [State.me, State.setWave_cur, State.wave_setWave_same]; exact ⟨rfl, rfl, rfl, rfl, rfl⟩
  have run : ((s.entered i).results w d n (r (s.entered i))).me.run.alike s.me.run := by
    rw [hw, sp.2.2.2.2.2]; exact er
  have res : Wrote s _ w d n (fun l => r (s.entered i) (s.entered i).me l) ∧ _ :=
    State.results_wrote h ?_ ?_ ?_ ?_ ?_ ⟨run.1, run.2.1, run.2.2.1, rfl, run.2.2.2.2⟩
  exact ⟨res.1, res.2.trans run.2.2.2.1⟩
  · simp only [State.results, State.modWave_eq, hk]
    refine Near.setWave ?_
    have := sp.2.2.2.1
    simp only [State.myLanes, ent.2.2.2.2] at this ⊢
    rw [State.me, hk] at this; exact this
  · simp only [State.results, State.modWave_eq, State.setWave_cur, ent.2.2.2.2]
  · intro v k hk64; rw [hw, sp.1 v k hk64, State.entered_reg]; rfl
  · intro l; rw [hw, sp.2.1 l, State.entered_lane]; rfl
  · rw [hw, sp.2.2.2.2.1, ent.2.2.1]

/-- A register instruction whose result is a function of the lanes and registers alone. -/
theorem Gives.of_simple {i : Instr} {w : Bool} {d : Operand} {n : Nat} {r : State → Wave → Nat → BitVec 128}
    {p : State → Nat → BitVec 128 → Prop} (he : ∀ s, exec i s = s.simple i fun t => t.results w d n (r t))
    (hr : ∀ s l, s.ready i = true → l ∈ s.myLanes → p s l (r (s.entered i) (s.entered i).me l)) : Gives i w d n p := by
  intro s h
  obtain ⟨t, e, q⟩ := State.simple_results (r := r) (w := w) (d := d) (n := n) h
  exact ⟨t, _, (he s).trans e, q.1, q.2, fun l hl => hr s l h hl⟩

end Sys2Proof.Machine
end

