-- ==== Sys2Proof/Laws/Elem.lean ====
section
/-!
SUPPORT. Packed elements: what a packing holds at each place, and the value an exact result leaves in an element.
-/

namespace Sys2Proof.Machine

theorem elem_lt (v : BitVec 128) (n e : Nat) : elem v n e < 2 ^ n := Nat.mod_lt _ (Nat.two_pow_pos n)

theorem packNat_lt (n : Nat) (es : List Nat) : es.foldr (fun x acc => x % 2 ^ n + 2 ^ n * acc) 0 < 2 ^ (n * es.length) := by
  induction es with
  | nil => simp
  | cons x es ih =>
    simp only [List.foldr_cons, List.length_cons]
    have hx := Nat.mod_lt x (Nat.two_pow_pos n)
    rw [Nat.mul_add, Nat.mul_one, Nat.add_comm (n * es.length) n, Nat.pow_add]
    generalize es.foldr (fun x acc => x % 2 ^ n + 2 ^ n * acc) 0 = a at *
    calc x % 2 ^ n + 2 ^ n * a < 2 ^ n + 2 ^ n * a := by omega
      _ = 2 ^ n * (a + 1) := by ring
      _ ≤ 2 ^ n * 2 ^ (n * es.length) := Nat.mul_le_mul_left _ ih

theorem packNat_elem (n : Nat) (es : List Nat) (e : Nat) :
    es.foldr (fun x acc => x % 2 ^ n + 2 ^ n * acc) 0 / 2 ^ (n * e) % 2 ^ n = es.getD e 0 % 2 ^ n := by
  induction es generalizing e with
  | nil => simp
  | cons x es ih =>
    simp only [List.foldr_cons]
    have hx := Nat.mod_lt x (Nat.two_pow_pos n)
    cases e with
    | zero => simp
    | succ e =>
      rw [Nat.mul_add, Nat.mul_one, Nat.add_comm (n * e) n, Nat.pow_add, ← Nat.div_div_eq_div_mul]
      rw [Nat.add_mul_div_left _ _ (Nat.two_pow_pos n), Nat.div_eq_of_lt hx, Nat.zero_add, ih e]
      simp

theorem elem_pack {n : Nat} {es : List Nat} (h : n * es.length ≤ 128) (e : Nat) : elem (pack n es) n e = es.getD e 0 % 2 ^ n := by
  simp only [elem, pack, BitVec.toNat_ofNat]
  rw [Nat.mod_eq_of_lt (Nat.lt_of_lt_of_le (packNat_lt n es) (Nat.pow_le_pow_right (by norm_num) h)), packNat_elem]

theorem elem_mapElems (f : IForm) (sat : Bool) (op : IntOp) (x y z : BitVec 128) {e : Nat} (h : e < f.count) :
    elem (mapElems f sat op x y z) f.width e = op f.width sat (elem x f.width e) (elem y f.width e) (elem z f.width e) % 2 ^ f.width := by
  rw [mapElems, elem_pack (by cases f <;> simp [IForm.width, IForm.count])]
  simp [List.getD_eq_getElem?_getD, h]
theorem elem_immElems (f : IForm) (i : BitVec 7) {e : Nat} (h : e < f.count) : elem (immElems f i) f.width e = wrapTo f.width i.toInt := by
  rw [immElems, elem_pack (by cases f <;> simp [IForm.width, IForm.count]), List.getD_eq_getElem?_getD, List.getElem?_replicate, if_pos h]
  simp only [Option.getD_some, wrapTo]
  refine Nat.mod_eq_of_lt ?_
  have := Int.emod_lt_of_pos i.toInt (show (0 : Int) < 2 ^ f.width by positivity)
  have := Int.emod_nonneg i.toInt (show (2 : Int) ^ f.width ≠ 0 by positivity)
  zify; rw [Int.toNat_of_nonneg this]; exact_mod_cast ‹_›

theorem IForm.width_pos (f : IForm) : 0 < f.width := by cases f <;> simp [IForm.width]

theorem wrapTo_lt (n : Nat) (v : Int) : wrapTo n v < 2 ^ n := by
  have := Int.emod_lt_of_pos v (show (0 : Int) < 2 ^ n by positivity)
  have := Int.emod_nonneg v (show (2 : Int) ^ n ≠ 0 by positivity)
  zify; rw [wrapTo, Int.toNat_of_nonneg this]; exact_mod_cast ‹_›
theorem wrapTo_int (n : Nat) (v : Int) : (wrapTo n v : Int) = v % 2 ^ n := by
  rw [wrapTo, Int.toNat_of_nonneg (Int.emod_nonneg v (by positivity))]
/-- A value in the signed range is read back from its pattern. -/
theorem sgn_wrapTo {n : Nat} (hn : 0 < n) {v : Int} (lo : -2 ^ (n - 1) ≤ v) (hi : v < 2 ^ (n - 1)) : sgn n (wrapTo n v) = v := by
  have two : (2 : Int) ^ n = 2 * 2 ^ (n - 1) := by rw [← pow_succ']; congr 1; omega
  have h := wrapTo_int n v
  have pos : (0 : Int) < 2 ^ (n - 1) := by positivity
  have cast : ((2 ^ (n - 1) : Nat) : Int) = 2 ^ (n - 1) := by push_cast; rfl
  by_cases neg : v < 0
  · have e : (wrapTo n v : Int) = v + 2 ^ n := by
      rw [h, ← Int.add_mul_emod_self_left v (2 ^ n) 1, mul_one]; exact Int.emod_eq_of_lt (by omega) (by omega)
    rw [sgn, if_neg (by zify; rw [e]; omega), e]; ring
  · have e : (wrapTo n v : Int) = v := by rw [h]; exact Int.emod_eq_of_lt (by omega) (by omega)
    rw [sgn, if_pos (by zify; rw [e]; omega), e]

theorem sgn_range {n : Nat} (hn : 0 < n) {x : Nat} (hx : x < 2 ^ n) : -2 ^ (n - 1) ≤ sgn n x ∧ sgn n x < 2 ^ (n - 1) := by
  have two : (2 : Nat) ^ n = 2 * 2 ^ (n - 1) := by rw [← pow_succ']; congr 1; omega
  have twoI : (2 : Int) ^ n = 2 * 2 ^ (n - 1) := by rw [← pow_succ']; congr 1; omega
  have cast : ((2 ^ (n - 1) : Nat) : Int) = 2 ^ (n - 1) := by push_cast; rfl
  unfold sgn; split <;> omega

/-- What `fit` leaves in an element (R229). -/
theorem holds_fit {n : Nat} (hn : 0 < n) (sat : Bool) (v : Int) : Holds n sat v (fit n sat v % 2 ^ n) := by
  cases sat
  · simp only [fit, Holds, Bool.false_eq_true, if_false]
    rw [Nat.mod_eq_of_lt (wrapTo_lt n v)]
    exact ⟨wrapTo_lt n v, wrapTo_int n v⟩
  · simp only [fit, Holds, clampTo, if_true]
    rw [Nat.mod_eq_of_lt (wrapTo_lt ..)]
    have pos : (0 : Int) < 2 ^ (n - 1) := by positivity
    exact ⟨wrapTo_lt .., sgn_wrapTo hn (by omega) (by omega)⟩

end Sys2Proof.Machine
end

