-- ==== Sys2Proof/Laws/Memory.lean ====
section
/-!
SUPPORT. Every operation on device memory keeps its canonical form, and what a byte reads as after it.
-/

namespace Sys2Proof

theorem Tab.wfFrom_filter {α : Type} [DecidableEq α] (d : α) {t : Tab α} {a : Option Nat} (p : Nat × α → Bool)
    (h : Tab.wfFrom d a t = true) : Tab.wfFrom d a (t.filter p) = true := by
  induction t generalizing a with
  | nil => exact h
  | cons x t ih =>
    obtain ⟨i, x⟩ := x
    simp only [Tab.wfFrom, Bool.and_eq_true] at h
    simp only [List.filter]
    split
    · simp only [Tab.wfFrom, Bool.and_eq_true]; exact ⟨h.1, ih h.2⟩
    · refine ih (Tab.wfFrom_mono d h.2 fun k hk => ?_)
      cases a with
      | none => simp
      | some a => simp at hk h ⊢; omega

end Sys2Proof

namespace Sys2Proof.Machine

theorem reset_mem_wf : Memory.wf State.reset.mem = true := rfl

/-! ### The canonical form -/

variable {s : State}

theorem State.poke_wf (l : Loc) (b : Byte) (h : Memory.wf s.mem = true) : Memory.wf (s.poke l b).mem = true := by
  cases l with
  | mem a => exact Tab.wf_put 0 a b h
  | _ => exact h
theorem State.pokeN_wf (l : Loc) (bs : List Byte) (h : Memory.wf s.mem = true) : Memory.wf (s.pokeN l bs).mem = true := by
  simp only [State.pokeN]
  generalize bs.zipIdx = xs
  induction xs generalizing s with
  | nil => exact h
  | cons x xs ih => exact ih (State.poke_wf _ _ h)
theorem State.st64_wf (a : Nat) (v : W64) (h : Memory.wf s.mem = true) : Memory.wf (s.st64 a v).mem = true := Tab.wf_store a _ h
theorem State.stBytes_wf (a : Nat) (bs : List Byte) (h : Memory.wf s.mem = true) : Memory.wf (s.stBytes a bs).mem = true :=
  Tab.wf_store a bs h
theorem State.setBitmap_wf (base n : Nat) (v : Bool) (h : Memory.wf s.mem = true) : Memory.wf (s.setBitmap base n v).mem = true :=
  Tab.wf_put 0 _ _ h
theorem restoreSlot_wf (m : Memory) (q : Nat × Memory) (h : Memory.wf m = true) : Memory.wf (restoreSlot m q) = true := by
  have step : ∀ (xs : Memory) (m : Memory), Memory.wf m = true → Memory.wf (xs.foldl (fun m c => Tab.put 0 m c.1 c.2) m) = true := by
    intro xs
    induction xs with
    | nil => exact fun _ h => h
    | cons x xs ih => exact fun m h => ih _ (Tab.wf_put 0 _ _ h)
  exact step _ _ (Tab.wfFrom_filter 0 _ h)
theorem restoreSlots_wf (m : Memory) (qs : List (Nat × Memory)) (h : Memory.wf m = true) : Memory.wf (qs.foldl restoreSlot m) = true := by
  induction qs generalizing m with
  | nil => exact h
  | cons q qs ih => exact ih _ (restoreSlot_wf m q h)

theorem State.stampHome_mem (a : Nat) : (s.stampHome a).mem = s.mem := by
  simp only [State.stampHome]; split <;> rfl
theorem State.stampRun_mem (a n : Nat) : (s.stampRun a n).mem = s.mem := by
  simp only [State.stampRun]
  generalize List.range ((a + n + 127) / 128 - a / 128) = xs
  induction xs generalizing s with
  | nil => rfl
  | cons x xs ih => rw [List.foldl_cons, ih, State.stampHome_mem]
theorem State.useBanks_mem (ls : List Loc) : (s.useBanks ls).mem = s.mem := by
  simp only [State.useBanks, State.touch]
  generalize s.banksOf ls = xs
  induction xs generalizing s with
  | nil => rfl
  | cons x xs ih => rw [List.foldl_cons, ih]; rfl
/-- Bytes stored at their places (R339, R118). -/
theorem State.storeAt_wf (l : Loc) (bs : List Byte) (h : Memory.wf s.mem = true) : Memory.wf (s.storeAt l bs).mem = true := by
  have put : ∀ (xs : List (Byte × Nat)) (s : State), Memory.wf s.mem = true →
      Memory.wf (xs.foldl (fun (s : State) (x : Byte × Nat) => if s.protectedByte (l.add x.2) then s else s.poke (l.add x.2) x.1) s).mem = true := by
    intro xs
    induction xs with
    | nil => exact fun _ h => h
    | cons x xs ih =>
      intro s h
      refine ih _ ?_
      dsimp only
      split
      · exact h
      · exact State.poke_wf _ _ h
  simp only [State.storeAt]
  split
  · rw [State.stampRun_mem]; exact put _ _ h
  · rw [State.useBanks_mem]; exact put _ _ h

/-! ### Squashes leave memory as it stands -/

theorem State.chargeCore_mem (c t : Nat) (x : Cause) (pc : W64) (cut : Nat) : (s.chargeCore c t x pc cut).mem = s.mem := by
  simp only [State.chargeCore]; split <;> rfl
theorem State.chargeSlots_mem (k : Nat) (xs : List (W64 × Nat)) (x : Cause) : (s.chargeSlots k xs x).mem = s.mem := by
  simp only [State.chargeSlots]
  induction xs generalizing s with
  | nil => rfl
  | cons y ys ih => rw [List.foldl_cons, ih, State.chargeCore_mem]
theorem State.returnPlaces_mem (c : Closing) : (s.returnPlaces c).mem = s.mem := by
  cases c <;> rfl
theorem State.discardRun_mem (k : Nat) (x : Cause) : (s.discardRun k x).mem = s.mem := by
  simp only [State.discardRun, State.modWave, State.setWave_mem, State.returnPlaces_mem, State.chargeSlots_mem]
theorem State.discardBoth_mem (k : Nat) (x : Cause) : (s.discardBoth k x).mem = s.mem := by
  simp only [State.discardBoth]
  split
  · exact State.discardRun_mem k x
  · simp only [State.modWave, State.setWave_mem, State.returnPlaces_mem, State.chargeSlots_mem, State.discardRun_mem]
theorem State.squash_mem (k : Nat) (r : Bool) : (s.squash k r).mem = s.mem := by
  have ab : ∀ u : State, (u.endAborted k).mem = u.mem := by
    intro u; simp only [State.endAborted]; split <;> rfl
  simp only [State.squash, apply_ite State.mem, State.push_mem, State.modWave, State.setWave_mem, ab, State.discardRun_mem,
    State.discardBoth_mem, ite_self]
theorem State.squashMet_mem (sig : BitVec 1024) (ks : List Nat) : (s.squashMet sig ks).mem = s.mem := by
  simp only [State.squashMet]
  induction ks generalizing s with
  | nil => rfl
  | cons k ks ih =>
    rw [List.foldl_cons, ih]
    split
    · exact State.squash_mem _ _
    · rfl
theorem State.l1Drop_mem (keys : List W64) : (s.l1Drop keys).mem = s.mem := by
  simp only [State.l1Drop]
  generalize s.cores.filter (fun p => p.2.l1.any keys.contains) = xs
  induction xs generalizing s with
  | nil => rfl
  | cons x xs ih => rw [List.foldl_cons, ih]; rfl
/-- The test of a placed write squashes chunks and leaves memory (R106). -/
theorem State.testPlace_mem (l : Loc) : (s.testPlace l).mem = s.mem := by
  cases l <;> simp only [State.testPlace, State.broadcast, State.localTest, State.squashMet_mem, State.l1Drop_mem]
theorem State.placeAt_wf (l : Loc) (bs : List Byte) (h : Memory.wf s.mem = true) : Memory.wf (s.placeAt l bs).mem = true :=
  State.storeAt_wf l bs (by rw [State.testPlace_mem]; exact h)

/-! ### Reading after writing -/

theorem State.peek_poke_mem (a b : Nat) (v : Byte) : (s.poke (.mem a) v).peek (.mem b) = if b = a then v else s.peek (.mem b) :=
  Tab.get_put 0 s.mem a b v
theorem State.peek_stBytes (a : Nat) (bs : List Byte) (x : Nat) :
    (s.stBytes a bs).peek (.mem x) = if a ≤ x ∧ x < a + bs.length then bs.getD (x - a) 0 else s.peek (.mem x) :=
  Tab.get_store s.mem a bs x
theorem leBytes_length (n v : Nat) : (leBytes n v).length = n := by
  induction n generalizing v with
  | zero => rfl
  | succ n ih => simp [leBytes, ih]
theorem leNat_leBytes (n v : Nat) : leNat (leBytes n v) = v % 256 ^ n := by
  induction n generalizing v with
  | zero => simp [leBytes, leNat, Nat.mod_one]
  | succ n ih =>
    have b : (BitVec.ofNat 8 v).toNat = v % 256 := by rw [BitVec.toNat_ofNat]
    rw [leBytes, leNat, ih, b, Nat.pow_succ', Nat.mod_mul]
theorem State.st64_peek (a : Nat) (v : W64) (x : Nat) (h : x < a ∨ a + 8 ≤ x) : (s.st64 a v).peek (.mem x) = s.peek (.mem x) := by
  simp only [State.st64, State.peek, Tab.get_store, bytes64, leBytes_length]
  rw [if_neg (by omega)]
/-- A doubleword reads back. -/
theorem State.ld64_st64 (a : Nat) (v : W64) : (s.st64 a v).ld64 a = v := by
  have e : Tab.bytes (s.st64 a v).mem a 8 = leBytes 8 v.toNat := by
    refine List.ext_getElem (by simp [Tab.bytes, leBytes_length]) fun i h _ => ?_
    have hi : i < 8 := by simpa [Tab.bytes] using h
    simp only [Tab.bytes, State.st64, Tab.get_store, bytes64, leBytes_length, List.getElem_map, List.getElem_range]
    rw [if_pos (by omega), Nat.add_sub_cancel_left, List.getD_eq_getElem?_getD, List.getElem?_eq_getElem (by rw [leBytes_length]; exact hi)]
    rfl
  rw [State.ld64, e, le64, leNat_leBytes]
  apply BitVec.eq_of_toNat_eq
  rw [BitVec.toNat_ofNat]
  have := v.isLt
  omega
theorem State.ld64_st64_ne (a b : Nat) (v : W64) (h : b + 8 ≤ a ∨ a + 8 ≤ b) : (s.st64 a v).ld64 b = s.ld64 b := by
  have e : Tab.bytes (s.st64 a v).mem b 8 = Tab.bytes s.mem b 8 := by
    refine List.map_congr_left fun i hi => ?_
    have : i < 8 := List.mem_range.mp hi
    simp only [State.st64, Tab.get_store, bytes64, leBytes_length]
    rw [if_neg (by omega)]
  rw [State.ld64, State.ld64, e]

end Sys2Proof.Machine
end

