-- ==== Sys2Proof/Laws/Quiet.lean ====
section
/-!
SUPPORT. When a state meets the standing premises of statements about events, by a check of the entries it lists.
-/

namespace Sys2Proof

/-- What holds of every listed entry and of the default holds of every key. -/
theorem Tab.get_all {α : Type} {d : α} {t : Tab α} {P : α → Prop} (h : ∀ p ∈ t, P p.2) (hd : P d) (k : Nat) : P (Tab.get d t k) := by
  induction t with
  | nil => exact hd
  | cons p t ih =>
    rw [Tab.get]
    split
    · exact h p (List.mem_cons_self ..)
    · exact ih fun q hq => h q (List.mem_cons_of_mem _ hq)

namespace Machine

/-- The checks behind `State.Quiet`, of listed entries alone. -/
def State.quietB (s : State) : Bool :=
  s.waves.all (fun p => p.2.wait.kind == .none) && s.tenants.all (fun p => !p.2.logging) && s.launches.all fun p => p.2.stages.isEmpty

theorem State.quiet_of {s : State} (h : s.quietB = true) : s.Quiet := by
  simp only [State.quietB, Bool.and_eq_true, List.all_eq_true, beq_iff_eq, Bool.not_eq_true', List.isEmpty_iff] at h
  exact ⟨fun k => Tab.get_all (P := fun w : Wave => w.wait.kind = .none) h.1.1 rfl k, h.1.2, h.2⟩

theorem State.open_of {s : State} (h : s.packets = [] ∧ s.flips = [] ∧ s.cxl = false ∧ s.resHolder = none ∧ s.homeSteps = []) : s.Open :=
  ⟨h.1, h.2.1, fun a w => by simp [State.invNeed, h.2.2.1], h.2.2.2.1, h.2.2.2.2⟩

/-- Over a memory that lists nothing no page stands in host bias. -/
theorem State.open_of_empty {s : State} (h : s.packets = [] ∧ s.flips = [] ∧ s.mem = [] ∧ s.snoop = [] ∧ s.resHolder = none ∧ s.homeSteps = []) : s.Open :=
  ⟨h.1, h.2.1, fun a w => by simp [State.invNeed, State.hostBias, bitmapBit, h.2.2.1, h.2.2.2.1], h.2.2.2.2.1, h.2.2.2.2.2⟩

theorem State.dir_of {s : State} (h : s.dir = []) (i : Nat) : (s.dirAt i).owner = none := by
  simp only [State.dirAt, h]; rfl

theorem State.reverse_of {s : State} (h : (s.tenants.all fun p => p.2.reverse.isNone) = true) (i : Nat) : (s.tenant i).reverse = none := by
  simp only [List.all_eq_true, Option.isNone_iff_eq_none] at h
  exact Tab.get_all (P := fun t : Tenant => t.reverse = none) h rfl i

end Machine
end Sys2Proof
end

