-- ==== Sys2Proof/Tests/Slice0.lean ====
section
/-!
SUPPORT. The model's own tests: words written out from their encodings, the checks of well-formedness, effects of single
instructions and events on small states, and for each obligation with premises states that meet them.
-/

open Sys2Proof Sys2Proof.Machine

namespace Sys2Proof.Tests

set_option maxRecDepth 20000
set_option exponentiation.threshold 3000

/-! ### Small states -/

/-- One launch, one workgroup, one wave of one lane on core 0 of tenant 0, its lane issuing (log entry 7). -/
def base : State := { State.reset.placeWord 0 with issue := [], cur := { wave := 32, pc := slotPc, mask := 1 } }
/-- The same with changes of the wave, the workgroup, the tenant. -/
def State.with (s : State) (f : Wave → Wave) (g : Wg → Wg) (t : Tenant → Tenant) : State :=
  ((s.modWave 32 f).modWg 1 g).modTenant 0 t
/-- Registers of lane 0 set. -/
def State.regs (s : State) (xs : List (Nat × W32)) : State :=
  s.modWave 32 fun w => xs.foldl (fun w x => w.setReg x.1 0 x.2) w
/-- A page of 4 KiB at virtual address 0x20000, backed by stacked memory at 0x40000, held by core 0 and for accesses from outside; the
device in PCIe mode. -/
def page : Tlb :=
  { home := .l1 0, tenant := 0, va := 0x20000, size := 4096, tgt := 0, pa := 0x40000, r := true, w := true, x := true, coh := false,
    cnt := false, poison := false }
def paged : State := { State.regs base [(8, 0x20000), (9, 0)] with tlb := [page, { page with home := .inbound 0 }], cxl := false }
/-- The wave in handler mode, with logging on in tenant 0 (a ring of 2^16 entries), and both. -/
def handled : State := State.with base (fun w => { w with handler := true, savedLanes := w.lanes, tpc := List.replicate 64 slotPc }) id id
def logging (s : State) : State := State.with s id id fun t => { t with logCtl := 0x8000000000000010, logBase := 0x100000, markers := [(0, 1)] }

/-- A step ends in a next state that passes a check. -/
def after (e : Instr) (s : State) (p : State → Bool) : Bool :=
  match exec e s with
  | .next t => p t
  | _ => false
theorem after_iff {e : Instr} {s : State} {p : State → Bool} (h : after e s p = true) : ∃ t, exec e s = .next t ∧ p t = true := by
  simp only [after] at h
  split at h
  · exact ⟨_, by assumption, h⟩
  · cases h

/-! ### Decoding: one word for every row, its fields set from the formats and tables of R255 to R269 -/

/-- Words that decode to the instructions beside them. -/
def decodes (xs : List (W32 × Instr)) : Bool := xs.all fun x => decode x.1 == .ok x.2 && encode x.2 == some x.1

theorem test_decode_control : decodes [
    (0x01000000, .nop), (0x02008001, .br 0x8001), (0x02807FFD, .call 0x7ffd), (0x03187FFD, .bz (.v 24) 0x7ffd),
    (0x03987FFD, .bzl (.v 24) 0x7ffd), (0x04187FFD, .bnz (.v 24) 0x7ffd), (0x04987FFD, .bnzl (.v 24) 0x7ffd), (0x05003000, .jmp (.v 24)),
    (0x05903000, .jmpl (.v 16) (.v 24)), (0x06003000, .ret (.v 24)), (0x07007FFD, .pause 0x7ffd), (0x08000000, .exit),
    (0x09003FFD, .trap 0x3ffd), (0x0A000000, .tret), (0x0B900125, .csrr true (.v 16) .tinfo), (0x0C180122, .csrw (.v 24) .tpc),
    (0x0D180001, .cntopen (.v 24) true), (0x0E000000, .cntclose), (0x0F000005, .progpt 5)] = true := by decide
theorem test_decode_system : decodes [
    (0x10180000, .tlbinv (.v 24)), (0x10000001, .tlbinvAll), (0x11180000, .biasflipHost (.v 24)), (0x11180001, .biasflipDev (.v 24)),
    (0x12900000, .clkq true (.v 16))] = true := by decide
theorem test_decode_integer : decodes [
    (0x20903081, .iadd true (.v 16) (.v 24) (.v 32) .w64), (0x219030F5, .iaddI true (.v 16) (.v 24) 0x3d .w64),
    (0x22903081, .isub true (.v 16) (.v 24) (.v 32) .w64), (0x23903081, .imul true (.v 16) (.v 24) (.v 32) .w64),
    (0x249030F5, .imulI true (.v 16) (.v 24) 0x3d .w64), (0x25903081, .imulhS true (.v 16) (.v 24) (.v 32) .w64),
    (0x26903081, .imulhW true (.v 16) (.v 24) (.v 32) .w64), (0x27903081, .imad true (.v 16) (.v 24) (.v 32) .w64),
    (0x28903081, .and true (.v 16) (.v 24) (.v 32) .w64), (0x299030F5, .andI true (.v 16) (.v 24) 0x3d .w64),
    (0x2A903081, .or true (.v 16) (.v 24) (.v 32) .w64), (0x2B9030F5, .orI true (.v 16) (.v 24) 0x3d .w64),
    (0x2C903081, .xor true (.v 16) (.v 24) (.v 32) .w64), (0x2D9030F5, .xorI true (.v 16) (.v 24) 0x3d .w64),
    (0x2E903081, .andn true (.v 16) (.v 24) (.v 32) .w64), (0x2F903081, .shl true (.v 16) (.v 24) (.v 32) .w64)] = true := by decide
theorem test_decode_shifts : decodes [
    (0x309030F5, .shlI true (.v 16) (.v 24) 0x3d .w64), (0x31903081, .shr true (.v 16) (.v 24) (.v 32) .w64),
    (0x329030F5, .shrI true (.v 16) (.v 24) 0x3d .w64), (0x33903081, .sar true (.v 16) (.v 24) (.v 32) .w64),
    (0x349030F5, .sarI true (.v 16) (.v 24) 0x3d .w64), (0x35903081, .rotl true (.v 16) (.v 24) (.v 32) .w64),
    (0x369030F5, .rotlI true (.v 16) (.v 24) 0x3d .w64), (0x37903001, .popc true (.v 16) (.v 24) .w64),
    (0x38903001, .clz true (.v 16) (.v 24) .w64), (0x39903001, .brev true (.v 16) (.v 24) .w64),
    (0x3A903081, .bfeW true (.v 16) (.v 24) (.v 32) .w64), (0x3B903081, .bfeS true (.v 16) (.v 24) (.v 32) .w64),
    (0x3C903081, .bfi true (.v 16) (.v 24) (.v 32) .w64), (0x3D903080, .perm true (.v 16) (.v 24) (.v 32)),
    (0x3E903081, .icmpeq true (.v 16) (.v 24) (.v 32) .w64), (0x3F903081, .icmpne true (.v 16) (.v 24) (.v 32) .w64)] = true := by decide
theorem test_decode_compare : decodes [
    (0x40903081, .icmpltS true (.v 16) (.v 24) (.v 32) .w64), (0x41903081, .icmpltW true (.v 16) (.v 24) (.v 32) .w64),
    (0x42903081, .icmpleS true (.v 16) (.v 24) (.v 32) .w64), (0x43903081, .icmpleW true (.v 16) (.v 24) (.v 32) .w64),
    (0x44903081, .sel true (.v 16) (.v 24) (.v 32) .w64), (0x45903081, .iminS true (.v 16) (.v 24) (.v 32) .w64),
    (0x46903081, .iminW true (.v 16) (.v 24) (.v 32) .w64), (0x47903081, .imaxS true (.v 16) (.v 24) (.v 32) .w64),
    (0x48903081, .imaxW true (.v 16) (.v 24) (.v 32) .w64), (0x49903080, .gaddr true (.v 16) (.v 24) (.v 32))] = true := by decide
theorem test_decode_float : decodes [
    (0x50903083, .fadd true (.v 16) (.v 24) (.v 32) .bf16), (0x51903083, .fsub true (.v 16) (.v 24) (.v 32) .bf16),
    (0x52903083, .fmul true (.v 16) (.v 24) (.v 32) .bf16), (0x53903083, .ffma true (.v 16) (.v 24) (.v 32) .bf16),
    (0x54903083, .ffms true (.v 16) (.v 24) (.v 32) .bf16), (0x55903083, .fnma true (.v 16) (.v 24) (.v 32) .bf16),
    (0x56903083, .fmin true (.v 16) (.v 24) (.v 32) .bf16), (0x57903083, .fmax true (.v 16) (.v 24) (.v 32) .bf16),
    (0x58903083, .fcmpeq true (.v 16) (.v 24) (.v 32) .bf16), (0x59903083, .fcmpne true (.v 16) (.v 24) (.v 32) .bf16),
    (0x5A903083, .fcmplt true (.v 16) (.v 24) (.v 32) .bf16), (0x5B903083, .fcmple true (.v 16) (.v 24) (.v 32) .bf16),
    (0x5C903083, .fcmpun true (.v 16) (.v 24) (.v 32) .bf16), (0x5D903003, .fneg true (.v 16) (.v 24) .bf16),
    (0x5E903003, .fabs true (.v 16) (.v 24) .bf16), (0x5F903003, .frcp true (.v 16) (.v 24) .bf16)] = true := by decide
theorem test_decode_functions : decodes [
    (0x60903003, .frsq true (.v 16) (.v 24) .bf16), (0x61903003, .fsqrt true (.v 16) (.v 24) .bf16),
    (0x62903003, .fexp2 true (.v 16) (.v 24) .bf16), (0x63903003, .flog2 true (.v 16) (.v 24) .bf16),
    (0x64903003, .fsinpi true (.v 16) (.v 24) .bf16), (0x65903003, .fcospi true (.v 16) (.v 24) .bf16),
    (0x66903003, .frint true (.v 16) (.v 24) .bf16), (0x67903081, .fldexp true (.v 16) (.v 24) (.v 32) .f64),
    (0x68903001, .fclass true (.v 16) (.v 24) .f64), (0x699030A4, .cvtFf true (.v 16) (.v 24) .e4m3 .f16),
    (0x6A903024, .cvtFi true (.v 16) (.v 24) .s16 .f16), (0x6B9030A2, .cvtIf true (.v 16) (.v 24) .e4m3 .s16),
    (0x6C903082, .cvtSr true (.v 16) (.v 24) (.v 32) .e2m1), (0x6D903083, .dot2 true (.v 16) (.v 24) (.v 32) .bf16),
    (0x6E903082, .dot4 true (.v 16) (.v 24) (.v 32) .e3m2), (0x6F903080, .dot8 true (.v 16) (.v 24) (.v 32) .e2m1)] = true := by decide
theorem test_decode_dots : decodes [
    (0x70903081, .dot4x true (.v 16) (.v 24) (.v 32) .e5m2), (0x71903080, .dot8x true (.v 16) (.v 24) (.v 32) .e2m1),
    (0x72903081, .idot4 true (.v 16) (.v 24) (.v 32) false)] = true := by decide
theorem test_decode_lanes : decodes [
    (0x80903080, .shfl true (.v 16) (.v 24) (.v 32)), (0x819030F4, .shflup true (.v 16) (.v 24) 0x3d),
    (0x829030F4, .shfldn true (.v 16) (.v 24) 0x3d), (0x839030F4, .shflx true (.v 16) (.v 24) 0x3d),
    (0x849030F4, .bcast true (.v 16) (.v 24) 0x3d), (0x85903003, .wadd true (.v 16) (.v 24) .f64),
    (0x86903002, .wmin true (.v 16) (.v 24) .f32), (0x87903002, .wmax true (.v 16) (.v 24) .f32),
    (0x88903003, .wscan true (.v 16) (.v 24) .f64), (0x89903000, .matchEq true (.v 16) (.v 24)),
    (0x8A903002, .vote true (.v 16) (.v 24) .ballot)] = true := by decide
theorem test_decode_memory : decodes [
    (0x9090315D, .ld true (.v 16) (.v 24) .near .b8 5), (0x9190314D, .ldSigned true (.v 16) (.v 24) .near .b2 5),
    (0x9290315D, .ldAcq true (.v 16) (.v 24) .near .b8 5), (0x9310315D, .st (.v 16) (.v 24) .near .b8 5),
    (0x9410315D, .stRel (.v 16) (.v 24) .near .b8 5), (0x9500315D, .pref (.v 24) .near .b8 5), (0x96000140, .fence .near),
    (0x9890315B, .aadd (.v 16) (.v 24) .near .b8 .acqrel), (0x9990315B, .aaddF (.v 16) (.v 24) .near .b8 .acqrel),
    (0x9A90315B, .aminS (.v 16) (.v 24) .near .b8 .acqrel), (0x9B90315B, .aminW (.v 16) (.v 24) .near .b8 .acqrel),
    (0x9C90315B, .amaxS (.v 16) (.v 24) .near .b8 .acqrel), (0x9D90315B, .amaxW (.v 16) (.v 24) .near .b8 .acqrel),
    (0x9E90315B, .aand (.v 16) (.v 24) .near .b8 .acqrel), (0x9F90315B, .aor (.v 16) (.v 24) .near .b8 .acqrel)] = true := by decide
theorem test_decode_atomics : decodes [
    (0xA090315B, .axor (.v 16) (.v 24) .near .b8 .acqrel), (0xA190315B, .axchg (.v 16) (.v 24) .near .b8 .acqrel),
    (0xA290315B, .acas (.v 16) (.v 24) .near .b8 .acqrel), (0xA410315A, .redAdd (.v 16) (.v 24) .near .b8 true),
    (0xA510315A, .redAddF (.v 16) (.v 24) .near .b8 true), (0xA610315A, .redMinS (.v 16) (.v 24) .near .b8 true),
    (0xA710315A, .redMinW (.v 16) (.v 24) .near .b8 true), (0xA810315A, .redMaxS (.v 16) (.v 24) .near .b8 true),
    (0xA910315A, .redMaxW (.v 16) (.v 24) .near .b8 true), (0xAA10315A, .redAnd (.v 16) (.v 24) .near .b8 true),
    (0xAB10315A, .redOr (.v 16) (.v 24) .near .b8 true), (0xAC10315A, .redXor (.v 16) (.v 24) .near .b8 true)] = true := by decide
theorem test_decode_sync : decodes [
    (0xB0000000, .chunk), (0xB1900000, .logmark true (.v 16)), (0xB2003080, .binit (.v 24) (.v 32)), (0xB3003000, .barr (.v 24)),
    (0xB4003080, .bexp (.v 24) (.v 32)), (0xB5903080, .bwait true (.v 16) (.v 24) (.v 32)),
    (0xB6903080, .btest true (.v 16) (.v 24) (.v 32)), (0xB790007D, .gsync true (.v 16) 0x7d),
    (0xB8903080, .qpush true (.v 16) (.v 24) (.v 32)), (0xB9903080, .qpop true (.v 16) (.v 24) (.v 32))] = true := by decide
theorem test_decode_copies : decodes [
    (0xC0103082, .acopy 16 24 32 .ctr), (0xC1103082, .agath 16 24 32 .ctr), (0xC2103082, .ascat 16 24 32 .ctr),
    (0xC3103082, .afill 16 24 32 .ctr), (0xC4103082, .acopy2d 16 24 32 .ctr), (0xC5103082, .acopySys 16 24 32 .ctr),
    (0xC6103082, .acopyNear 16 24 32 .ctr), (0xC7103082, .acopyPod 16 24 32 .ctr)] = true := by decide
theorem test_decode_matrix : decodes [
    (0xD0000000, .macq), (0xD0000001, .macqPair), (0xD1000000, .mrel), (0xD2900080, .aballoc true (.v 16) 0x80),
    (0xD3100080, .abfree (.v 16) 0x80), (0xD4903080, .mgath true 16 24 32), (0xD5903081, .mmaF16 true 16 24 32 1),
    (0xD6903081, .mmaFp8 true 16 24 32 1), (0xD7903081, .mmaInt8 true 16 24 32 1), (0xD8903081, .mmaFp8Fp4 true 16 24 32 1),
    (0xD9903081, .mmaFp4 true 16 24 32 1), (0xDA903081, .mmaFp6 true 16 24 32 1), (0xDB900001, .mscale true 16 true),
    (0xDC900000, .mzero true 16), (0xDD903081, .mdrain true 16 24 32 .add), (0xDE903000, .msnap true 16 24)] = true := by decide
theorem test_decode_fabric : decodes [
    (0xE0103082, .putr 16 24 32 .ctr), (0xE1103082, .getr 16 24 32 .ctr), (0xE2103082, .atomr 16 24 32 .ctr),
    (0xE3003080, .ctrset (.v 24) (.v 32)), (0xE4003080, .ctrwait (.v 24) (.v 32)), (0xE5900001, .rankq true (.v 16) 1),
    (0xE6103080, .launch 16 24 32), (0xE6103081, .launchRank 16 24 32), (0xE7900000, .stagex true (.v 16))] = true := by decide
theorem test_decode_hints : decodes [
    (0xFE7FFFFD, .imm 0x7ffffd), (0xFF000005, .hintMod .ru true), (0xFF101000, .hintChunksz 0x1000), (0xFF207FFD, .hintIpref 0x7ffd),
    (0xFF300005, .hintStick 5)] = true := by decide
/-- Words of the spec's own examples, with other forms, latches and codes. -/
theorem test_decode_examples : decodes [(0x908A00D9, .ld true (.v 10) (.v 0) .chip .b8 1), (0x530305F8, .ffma false (.v 3) (.v 2) .imm .f32),
    (0x937810D0, .st (.x 0) (.v 8) .chip .b4 0), (0x6B881A2C, .cvtIf true (.v 8) (.v 13) .f64 .w32), (0x44870838, .sel true (.v 7) (.v 4) (.v 14) .w32),
    (0xB59829F0, .bwait true (.v 24) (.v 20) .zero), (0xA2882923, .acas (.v 8) (.v 20) .sys .b16 .acqrel), (0xD51B2049, .mmaF16 false 27 16 18 1),
    (0xDD191870, .mdrain false 25 12 28 .replace), (0x0BAC0125, .csrr true (.v 44) .tinfo), (0xFF000002, .hintMod .rz false),
    (0x0600EC00, .ret (.v 118)), (0x0403FFFB, .bnz (.v 3) 0xFFFB), (0x937F3450, .st .tid (.v 26) .wg .b4 0), (0x960001C0, .fence .fab)] = true := by decide
/-- A word for each of the checks 1 to 5 of R264, and for reserved bits of the codes 0x00 and 0xF0. -/
theorem test_decode_refuses : ([(0x00000000, .unassigned), (0xF0000000, .unassigned), (0xFD000000, .unassigned), (0x13000000, .unassigned), (0x01008000, .reserved), (0x01000001, .undefined),
    (0x28000002, .undefined), (0x30A13085, .misaligned), (0x20FC0000, .badCode), (0x69000000, .undefined)] : List (W32 × DecErr)).all
    (fun x => decode x.1 == .error x.2) = true := by decide
/-- An ill-formed instruction for each check of well-formedness: an enumerated value, a register code, an alignment. -/
theorem test_wf_refuses : ([.pause 0, .and true (.v 2) (.v 4) (.v 6) .h16, .shlI true (.v 2) (.v 4) 0x40 .w32, .cvtFf true (.v 2) (.v 4) .f32 .f32,
    .aadd (.v 2) (.v 4) .chip .b1 .none, .aballoc true (.v 2) 0, .mmaF16 false 16 24 32 2, .hintChunksz 15, .hintStick 0,
    .iadd true .zero (.v 4) (.v 6) .w32, .ld true .tid (.v 4) .chip .b4 0, .iadd true (.v 3) (.v 4) (.v 6) .w64, .ld true (.v 2) (.v 5) .chip .b4 0,
    .ld true (.v 6) (.v 4) .chip .b16 0, .acas (.v 6) (.v 8) .chip .b8 .none, .qpush true (.v 2) (.v 4) (.v 8),
    .acopy 17 24 32 .none] : List Instr).all (fun (i : Instr) => !i.wf && (encode i).all fun w => decode w != .ok i) = true := by decide

/-! ### Integer and address arithmetic -/

theorem witness_IntegerArithmetic : ([.iadd true (.v 2) (.v 4) (.v 6) .w32, .isub true (.v 2) (.v 4) (.v 6) .w64, .imul false (.v 2) (.v 4) (.v 6) .h16,
    .imad true (.v 2) (.v 4) (.v 6) .b8, .imulhS true (.v 2) (.v 4) (.v 6) .w32, .imulhW true (.v 2) (.v 4) (.v 6) .w64,
    .iaddI true (.v 2) (.v 4) 0x40 .w32, .imulI true (.v 2) (.v 4) 0x3F .w32] : List Instr).all base.ready = true := by decide
theorem witness_IntegerBitwiseAndShifts : ([.and true (.v 2) (.v 4) (.v 6) .w32, .or true (.v 2) (.v 4) (.v 6) .w64, .xor true (.v 2) (.v 4) (.v 6) .w32,
    .andn true (.v 2) (.v 4) (.v 6) .w32, .sel true (.v 2) (.v 4) (.v 6) .w32, .andI true (.v 2) (.v 4) 0x7F .w32, .orI true (.v 2) (.v 4) 1 .w32,
    .xorI true (.v 2) (.v 4) 1 .w32, .shl true (.v 2) (.v 4) (.v 6) .w32, .shr true (.v 2) (.v 4) (.v 6) .w32, .sar true (.v 2) (.v 4) (.v 6) .w32,
    .rotl true (.v 2) (.v 4) (.v 6) .w32, .shlI true (.v 2) (.v 4) 0x3F .w64, .shrI true (.v 2) (.v 4) 0 .w32, .sarI true (.v 2) (.v 4) 31 .w32,
    .rotlI true (.v 2) (.v 4) 1 .w32] : List Instr).all base.ready = true ∧ (0x3F : BitVec 7).msb = false := by decide
theorem witness_IntegerCompare : ([.icmpeq true (.v 2) (.v 4) (.v 6) .w32, .icmpne true (.v 2) (.v 4) (.v 6) .w32, .icmpltS true (.v 2) (.v 4) (.v 6) .w32,
    .icmpltW true (.v 2) (.v 4) (.v 6) .w32, .icmpleS true (.v 2) (.v 4) (.v 6) .w32, .icmpleW true (.v 2) (.v 4) (.v 6) .w32,
    .iminS true (.v 2) (.v 4) (.v 6) .b8, .iminW true (.v 2) (.v 4) (.v 6) .w32, .imaxS true (.v 2) (.v 4) (.v 6) .w32,
    .imaxW true (.v 2) (.v 4) (.v 6) .w32] : List Instr).all base.ready = true := by decide
theorem witness_IntegerFields : ([.popc true (.v 2) (.v 4) .w32, .clz true (.v 2) (.v 4) .w64, .brev true (.v 2) (.v 4) .h16, .bfeW true (.v 2) (.v 4) (.v 6) .w32,
    .bfeS true (.v 2) (.v 4) (.v 6) .w32, .bfi true (.v 2) (.v 4) (.v 6) .w32, .perm true (.v 2) (.v 4) (.v 6), .gaddr true (.v 2) (.v 4) (.v 6)] : List Instr).all
    base.ready = true := by decide

/-! ### Floating point -/

/-- A signalling NaN in v4, with the invalid-operation trap enabled. -/
def nanTrap : State := State.with (State.regs base [(4, 0x7F800001)]) (fun w => { w with fpctl := 0x1000 }) id id
theorem witness_FloatIssue : ([.fadd true (.v 2) (.v 4) (.v 6) .f32, .fsub true (.v 2) (.v 4) (.v 6) .f32, .fmul true (.v 2) (.v 4) (.v 6) .f32,
    .ffma true (.v 2) (.v 4) (.v 6) .f32, .ffms true (.v 2) (.v 4) (.v 6) .f64, .fnma true (.v 2) (.v 4) (.v 6) .f32, .fmin true (.v 2) (.v 4) (.v 6) .f32,
    .fmax true (.v 2) (.v 4) (.v 6) .f32, .fcmpeq true (.v 2) (.v 4) (.v 6) .f32, .fcmpne true (.v 2) (.v 4) (.v 6) .f32, .fcmplt true (.v 2) (.v 4) (.v 6) .f32,
    .fcmple true (.v 2) (.v 4) (.v 6) .f32, .fcmpun true (.v 2) (.v 4) (.v 6) .f32, .fldexp true (.v 2) (.v 4) (.v 6) .f32, .fneg true (.v 2) (.v 4) .f32,
    .fabs true (.v 2) (.v 4) .f32, .frcp true (.v 2) (.v 4) .f32, .frsq true (.v 2) (.v 4) .f32, .fsqrt true (.v 2) (.v 4) .f32, .fexp2 true (.v 2) (.v 4) .f32,
    .flog2 true (.v 2) (.v 4) .f32, .fsinpi true (.v 2) (.v 4) .f32, .fcospi true (.v 2) (.v 4) .f32, .frint true (.v 2) (.v 4) .f32,
    .fclass true (.v 2) (.v 4) .f32, .cvtFf true (.v 2) (.v 4) .f64 .f32, .cvtFi true (.v 2) (.v 4) .s8 .f32, .cvtIf true (.v 2) (.v 4) .f32 .w32,
    .cvtSr true (.v 2) (.v 4) (.v 6) .f16, .dot2 true (.v 2) (.v 4) (.v 6) .f16, .dot4 true (.v 2) (.v 4) (.v 6) .e4m3, .dot8 true (.v 2) (.v 4) (.v 6) .e2m1,
    .dot4x true (.v 2) (.v 4) (.v 6) .e4m3, .dot8x true (.v 2) (.v 4) (.v 6) .e2m1, .wadd true (.v 2) (.v 4) .f32, .wscan true (.v 2) (.v 4) .b32,
    .wmin true (.v 2) (.v 4) .s32, .wmax true (.v 2) (.v 4) .w32] : List Instr).all (fun i => base.ready i && nanTrap.ready i) = true
    ∧ base.trapping (FpR .f32 (.v 2) (.v 4) (.v 6) (fpAdd .f32)) = [] ∧ nanTrap.trapping (FpR .f32 (.v 2) (.v 4) (.v 6) (fpAdd .f32)) = [0] := by decide
/-- The operands of each case: quiet and signalling NaN, both infinities, both zeros, the least normal, the greatest subnormal. -/
theorem witness_FloatSelect : (FFmt.f32.value 0x7F800001 = .nan true ∧ FFmt.f32.value 0x7FC00000 = .nan false ∧ FFmt.f32.value 0xFF800000 = .inf true
      ∧ FFmt.f32.value 0x7F800000 = .inf false ∧ (0xFFFFFFFF : Nat) < 2 ^ FFmt.f32.width)
    ∧ ((FFmt.f32.value 0x80000000).isZero = true ∧ (FFmt.f32.value 0x80000000).neg = true ∧ (FFmt.f32.value 0).isZero = true
      ∧ (FFmt.f32.value 0).isNan = false)
    ∧ ([0x00800000, 0x007FFFFF] : List Nat).all (fun x => (FFmt.f32.value x).finite && !(FFmt.f32.value x).isZero) = true := by decide
theorem witness_FloatFunctions : ((FFmt.f32.value 0x7FC00000).isNan = true ∧ FFmt.f32.value 0x7F800000 = .inf false ∧ FFmt.f32.value 0xFF800000 = .inf true
      ∧ (FFmt.f32.value 0x80000000).isZero = true)
    ∧ ((FFmt.f32.value 0xBF800000).finite = true ∧ (FFmt.f32.value 0xBF800000).rat < 0 ∧ (FFmt.f32.value 0xBF800000).rat = ((-1 : Int) : ℚ))
    ∧ ((FFmt.f32.value 0x3F000000).finite = true ∧ (FFmt.f32.value 0x3F000000).rat = ((0 : Int) : ℚ) + 1 / 2)
    ∧ (FFmt.f32.value 0x40800000).finite = true ∧ (FFmt.f32.value 0x40800000).rat = 4 ^ (1 : Int) := by
  have a : FFmt.f32.value 0xBF800000 = .num true 0x800000 (-23) := by decide
  have b : FFmt.f32.value 0x3F000000 = .num false 0x800000 (-24) := by decide
  have c : FFmt.f32.value 0x40800000 = .num false 0x800000 (-21) := by decide
  refine ⟨by decide, ?_, ?_, ?_⟩
  · rw [a]; norm_num [FVal.finite, FVal.rat]
  · rw [b]; norm_num [FVal.finite, FVal.rat]
  · rw [c]; norm_num [FVal.finite, FVal.rat]
theorem witness_FloatConversions : ((FFmt.f32.value 0x7F800001).isNan = true ∧ FFmt.f32.value 0x7F800000 = .inf false ∧ (FFmt.f32.value 0).isZero = true)
    ∧ (FFmt.f32.value 0xBF800000).rat < 0 ∧ 0 < (FFmt.f32.value 0x3F000000).rat ∧ (FFmt.f32.value 0x3F000000).finite = true
    ∧ (FFmt.f32.value 0xBF800000).finite = true ∧ (FFmt.f32.value 0x3F000000).isZero = false ∧ FFmt.e4m3 ≠ .e8m0 ∧ FFmt.e4m3 ≠ .u5m3 := by
  have a : FFmt.f32.value 0xBF800000 = .num true 0x800000 (-23) := by decide
  have b : FFmt.f32.value 0x3F000000 = .num false 0x800000 (-24) := by decide
  refine ⟨by decide, ?_, ?_, by decide⟩
  · rw [a]; norm_num [FVal.rat]
  · rw [b]; norm_num [FVal.rat]
/-- The largest finite value and its double; one that rounds away, one that is tiny too. -/
theorem witness_FloatRounding : let most := (FFmt.f32.value FFmt.f32.maxCode).rat
    ((((0xFFFFFF : Nat) : ℚ) * 2 ^ (104 : Int) ≤ most) ∧ 2 * most ≤ ((0xFFFFFF : Nat) : ℚ) * 2 ^ (105 : Int))
    ∧ (FFmt.f32.roundNum .rne false false 0xFFFFFF 105).2 &&& flagOF ≠ 0 ∧ (FFmt.f32.roundNum .rne false false 0xFFFFFF 104).2 &&& flagOF = 0
    ∧ (FFmt.f32.roundNum .rne false false 0x1000001 0).2 &&& flagNX ≠ 0 ∧ (FFmt.f32.roundNum .rne false false 1 (-150)).2 &&& flagUF ≠ 0
    ∧ FFmt.f32 ≠ .e8m0 ∧ FFmt.f32 ≠ .u5m3 := by
  have a : FFmt.f32.value FFmt.f32.maxCode = .num false 0xFFFFFF 104 := by decide
  refine ⟨?_, by decide⟩
  rw [a]; norm_num [FVal.rat]
theorem witness_DotsAndSums : (FFmt.f32.value 0).finite = true
    ∧ ((List.range (dotPlaces .f16).2).all fun i => (FFmt.f16.value (0x3C003C00 / 2 ^ ((dotPlaces .f16).1 * i))).finite) = true
    ∧ (FFmt.f32.value 0).rat + 2 ^ (0 : Int) * ((List.range (dotPlaces .f16).2).map fun i =>
        (FFmt.f16.value (0x3C003C00 / 2 ^ ((dotPlaces .f16).1 * i))).rat * (FFmt.f16.value (0x3C003C00 / 2 ^ ((dotPlaces .f16).1 * i))).rat).sum ≠ 0
    ∧ base.ready (.idot4 true (.v 2) (.v 4) (.v 6) false) = true
    ∧ (∀ v ∈ [0x3F800000#128], (FFmt.f32.value v.toNat).finite = true) ∧ ([0x3F800000#128].map fun v => (FFmt.f32.value v.toNat).rat).sum ≠ 0
    ∧ ∀ v ∈ [0xFFFFFFFF, 0], v < 2 ^ 32 := by
  have z : FFmt.f32.value 0 = .num false 0 (-149) := by decide
  have h : (List.range (dotPlaces .f16).2).map (fun i => FFmt.f16.value (0x3C003C00 / 2 ^ ((dotPlaces .f16).1 * i))) =
      [.num false 1024 (-10), .num false 1024 (-10)] := by decide
  have o : FFmt.f32.value (0x3F800000#128).toNat = .num false 0x800000 (-23) := by decide
  refine ⟨by decide, by decide, ?_, by decide, fun v hv => by rw [List.mem_singleton.mp hv, o]; rfl, ?_, by decide⟩
  · rw [z, show ((List.range (dotPlaces .f16).2).map fun i =>
        (FFmt.f16.value (0x3C003C00 / 2 ^ ((dotPlaces .f16).1 * i))).rat * (FFmt.f16.value (0x3C003C00 / 2 ^ ((dotPlaces .f16).1 * i))).rat) =
        ((List.range (dotPlaces .f16).2).map fun i => FFmt.f16.value (0x3C003C00 / 2 ^ ((dotPlaces .f16).1 * i))).map fun v => v.rat * v.rat by simp, h]
    norm_num [FVal.rat]
  · simp only [List.map, o, List.sum_cons, List.sum_nil]; norm_num [FVal.rat]
theorem witness_LaneExchange : ([.shfl true (.v 2) (.v 4) (.v 6), .shflup true (.v 2) (.v 4) 1, .shfldn true (.v 2) (.v 4) 63, .shflx true (.v 2) (.v 4) 63,
    .bcast true (.v 2) (.v 4) 0, .matchEq true (.v 2) (.v 4), .vote true (.v 2) (.v 4) .any, .vote true (.v 2) (.v 4) .all,
    .vote true (.v 2) (.v 4) .ballot] : List Instr).all base.ready = true := by decide

/-! ### Control transfer and the system instructions -/

theorem witness_ControlTransfer : ([.br 0x8000, .call 0x7FFF, .bz (.v 2) 1, .bzl (.v 2) 1, .bnz (.v 2) 0xFFFF, .bnzl (.v 2) 1, .jmp (.v 2), .jmpl (.v 118) (.v 2),
    .ret (.v 118)] : List Instr).all base.ready = true := by decide
theorem witness_IssueEnds : (base.tenant (base.waveTenant base.cur.wave)).reverse = none ∧ 0 ∈ base.myLanes ∧ 0 < base.me.lanes.length := by decide
/-- The wave's lane has the immediates of one, of two IMMs; and the workgroup holds a bank of accumulators. -/
def immed (n : Nat) : State :=
  State.with base (fun w => w.modLane 0 fun x => { x with imm := 5, immCount := n, immRun := n }) id id
def holding : State := State.with base id (fun g => { g with accCount := 4, held := 1 }) id
theorem witness_WaveControlAndImm : ([.nop, .pause 0xFFFF, .exit, .chunk, .hintMod .ru true, .hintChunksz 0, .hintChunksz 1, .hintStick 255, .hintIpref 0,
      .hintIpref 1, .imm 0x800000] : List Instr).all base.ready = true
    ∧ (base.lastLanes = true ∧ base.myWg.held = 0) ∧ (holding.ready .exit = true ∧ holding.lastLanes = true ∧ holding.myWg.held ≠ 0)
    ∧ ((immed 0).ready (.imm 1) = true ∧ 0 ∈ base.myLanes ∧ ((immed 0).me.lane 0).immRun = 0)
    ∧ ((immed 1).ready (.imm 1) = true ∧ ((immed 1).me.lane 0).immRun = 1)
    ∧ (immed 2).setStands = true ∧ (immed 2).me.run.ended = false ∧ 2 ≤ ((immed 2).me.lane 0).immRun ∧ 0 ∈ (immed 2).myLanes := by decide
/-- An entry of cause 0x11, and a queue of eight of them. -/
def entry : TrapEntry := { cause := 0x11, fpc := slotPc, mask := 1 }
def full : State := State.with base (fun w => { w with trapQ := List.replicate 8 entry }) id id
theorem witness_TrapRaised : ((base.tenant (base.wg (base.wave 32).wg).tenant).reverse = none ∧ (base.wg (base.wave 32).wg).cntOpen = false
      ∧ entry.cause.toNat ≠ causePoison ∧ (base.wave 32).handler = false ∧ (base.wave 32).trapQ.length < 8)
    ∧ (entry.async = false ∧ entry.next = false) ∧ (handled.wave 32).handler = true
    ∧ ((full.wave 32).handler = false ∧ 8 ≤ (full.wave 32).trapQ.length)
    ∧ base.ready (.trap 0x7FFF) = true ∧ base.me.handler = false ∧ base.me.trapQ.length < 8 := by decide
/-- A wave with an entry to deliver, with and without a handler. -/
def trapped (tvec : W64) : State :=
  State.with base (fun w => { w with trapQ := [entry] }) id fun t => { t with cur := { t.cur with tvec := tvec } }
theorem witness_TrapTakenAndReturned : (([0, 0x7000] : List W64).all fun v =>
      let w := (trapped v).wave 32
      let g := (trapped v).wg w.wg
      w.live && !g.saved && !g.saving && !g.restoring && w.trapQ == [entry] && !w.handler && w.com.isNone && w.wait.kind != .far && !w.run.ended
        && w.lanes.any (fun l => !l.exited && !l.halted) && ((trapped v).tenant g.tenant).cur.tvec == v && w.run.start.length == w.lanes.length) = true
    ∧ (handled.ready .tret = true ∧ handled.me.handler = true ∧ (handled.tenant (handled.waveTenant handled.cur.wave)).logging = false
      ∧ handled.me.haltPending = false ∧ handled.me.run.step = none ∧ handled.me.savedLanes.length = 64 ∧ handled.me.tpc.length = 64)
    ∧ base.ready .tret = true ∧ base.me.handler = false := by decide
theorem witness_ControlRegisters : ([base, handled].all fun s => s.ready (.csrr true (.v 2) .jobRank) && s.ready (.csrr true (.v 2) .tpc)
      && s.ready (.csrw (.v 4) .fpctl) && s.ready (.csrw (.v 4) .tpc) && s.ready (.csrw (.v 4) .tvec)) = true
    ∧ (base.inputRoom base.myLanes.length ∧ handled.inputRoom handled.myLanes.length) ∧ (csrFrame .tpc = true ∧ base.me.handler = false)
    ∧ handled.me.handler = true ∧ csrFrame .fpctl = false
    ∧ ((State.regs base [(4, 0x1F1F)]).me.read64 0 (.v 4) &&& ~~~0x1F1F#64 = 0 ∧ (State.regs base [(4, 0x1F1F)]).ready (.csrw (.v 4) .fpctl) = true)
    ∧ (State.regs base [(4, 0x20)]).me.read64 0 (.v 4) &&& ~~~0x1F1F#64 ≠ 0 ∧ (State.regs base [(4, 0x20)]).ready (.csrw (.v 4) .fpctl) = true :=
  ⟨by decide, ⟨.inl (by decide), .inl (by decide)⟩, by decide, by decide, by decide, by decide, by decide, by decide⟩
/-- A staged launch with one stage of one resident workgroup, its queue's control line at DPA 0x8000, of two entries. -/
def staged : State := paged.modLaunch 1 fun x => { x with stages := [{ odepth := 1, oq := 0x20000, oqDpa := 0x40000 }, {}] }
theorem witness_Queries : ([.clkq true (.v 2), .rankq true (.v 2) 0, .rankq true (.v 2) 1, .rankq true (.v 2) 2, .rankq true (.v 2) 3,
      .stagex true (.v 2)] : List Instr).all (fun i => base.ready i && staged.ready i) = true
    ∧ base.inputRoom base.myLanes.length ∧ staged.inputRoom staged.myLanes.length ∧ staged.myStages ≠ [] ∧ base.myStages = []
    ∧ staged.myWg.stage < 256 :=
  ⟨by decide, .inl (by decide), .inl (by decide), by decide, by decide, by decide⟩
/-- A region of containment open; a tag in v8. -/
def contained : State := State.with base id (fun g => { g with cntOpen := true }) id
theorem witness_ContainmentAndTranslation : ([.cntopen (.v 8) true, .cntclose, .progpt 15, .tlbinv (.v 8), .tlbinvAll] : List Instr).all
      (fun i => paged.ready i && contained.ready i && (State.regs base [(9, 0x40000000)]).ready i) = true
    ∧ contained.myWg.cntOpen = true ∧ paged.myWg.cntOpen = false ∧ (paged.tenant 0).logging = false
    ∧ (∀ c ∈ paged.cmds, c.translates 0 = false) ∧ (∀ p ∈ paged.arrivals, p.tenant ≠ 0) ∧ (paged.me.read64 0 (.v 8)).extractLsb' 57 7 = 0
    ∧ tag00 ((State.regs base [(9, 0x40000000)]).me.read64 0 (.v 8)) = some 3 := by decide

/-! ### Memory -/

/-- A table of four levels in memory that the tenant owns, and no translation held. -/
def walkable : State :=
  let s := State.with { paged with tlb := [] } id id fun t => { t with windows := (0x8000000000000000, 0x200000) :: t.windows.tail }
  [(0, 0x1003), (0x1000, 0x2003), (0x2000, 0x3003), (0x3108, 0x4100D), (0x3110, 0x42005)].foldl (fun (s : State) x => s.st64 x.1 x.2) s

theorem paged_lanes {l : Nat} (h : l ∈ paged.myLanes) : l = 0 := by
  rw [show paged.myLanes = [0] by decide] at h; exact List.mem_singleton.mp h
/-- Four bytes at the start and at the end of a page pass every check. No bank or store cycle is waited for: they lie in memory. -/
theorem paged_onChip (acc : Acc) (h : acc = .read ∨ acc = .write ∨ acc = .atomic ∨ acc = .red) :
    OnChip paged (.v 8) 0 4 .chip acc (fun _ => (List.range 4).map fun i => .mem (0x40000 + i))
    ∧ OnChip paged (.v 8) 0xFFC 4 .chip acc (fun _ => (List.range 4).map fun i => .mem (0x40FFC + i)) := by
  refine ⟨⟨fun l hl => ⟨false, ?_⟩, fun l hl => ?_, by decide⟩, fun l hl => ⟨false, ?_⟩, fun l hl => ?_, by decide⟩ <;> rw [paged_lanes hl] <;>
    rcases h with rfl | rfl | rfl | rfl <;> decide
/-- Words of the clauses: a reserved tag, reserved address bits, a wide scope, a misaligned address, no page, a page not walked, a page
without a permission, a poisoned page, and a good one; windows of other codes; a rank outside the job. -/
theorem witness_AddressChecks : ((0x8000000000020000#64).extractLsb' 62 2 = 2 ∧ (0x0200000000020000#64).extractLsb' 57 5 ≠ 0
      ∧ (0x0000000000020000#64).extractLsb' 57 5 = 0 ∧ 5 ≤ Scope.num .near ∧ Scope.num .sys < 5 ∧ (0x0000000000020002#64).toNat % 4 ≠ 0)
    ∧ (Machine.translate paged (.l1 0) 0 0x20FFC = .hit page ∧ (Acc.read) ≠ .fetch ∧ page.r = true ∧ page.w = true ∧ page.tgt = 0
      ∧ Machine.translate paged (.l1 0) 0 0x21000 = .fail 0x30 ∧ Machine.translate walkable (.l1 0) 0 0x21000 = .miss)
    ∧ ({ page with r := false } : Tlb).r = false
    ∧ Machine.translate { paged with tlb := [{ page with w := false }] } (.l1 0) 0 0x20000 = .hit { page with w := false }
    ∧ ((0x4400000000000000#64).extractLsb' 62 2 = 1 ∧ 4 ≤ ((0x4400000000000000#64).extractLsb' 56 6).toNat)
    ∧ ((0x4000000001000000#64).extractLsb' 56 6 = 0 ∧ (0x4000000001000000#64).extractLsb' 24 32 ≠ 0 ∧ (0x4000000000FFFFFE#64).extractLsb' 24 32 = 0
      ∧ 4 ≤ Scope.num .sys ∧ Scope.num .chip < 4 ∧ (0x4000000000FFFFFE#64).toNat % 4 ≠ 0)
    ∧ (0xC000200000000000#64).extractLsb' 62 2 = 3 ∧ (paged.tenant 0).cur.jobSize.toNat ≤ ((0xC000200000000000#64).extractLsb' 45 17).toNat := by decide
theorem witness_AccessFaults : let s := State.regs paged [(8, 0x20002)]
    let xs := s.resolveAll (.v 8) 0 4 .chip .read
    (∀ x ∈ xs, x.miss? = none) ∧ (∃ x ∈ xs, x.err? = some ⟨causeAlignment, 1⟩) ∧ (∀ x ∈ xs, ∀ f, x.err? = some f → (⟨causeAlignment, 1⟩ : AddrErr).order ≤ f.order)
    ∧ causeAlignment ≠ causeUncorrected ∧ (∀ x ∈ xs, ∀ f, x.err? = some f → f.order = (⟨causeAlignment, 1⟩ : AddrErr).order → f.cause = causeAlignment)
    ∧ s.ready (.ld true (.v 2) (.v 8) .chip .b4 0) = true ∧ s.ready (.ldAcq true (.v 2) (.v 8) .chip .b4 0) = true
    ∧ ((s.resolveAll (.v 8) 0 4 .chip .write).flatMap fun x => x.stashLines s 32 4).eraseDups.length ≤ 64
    ∧ s.ready (.st (.v 2) (.v 8) .chip .b4 0) = true := by
  have e : (State.regs paged [(8, 0x20002)]).resolveAll (.v 8) 0 4 .chip .read = [⟨0, 0x20002, .err ⟨causeAlignment, 1⟩⟩] := by decide
  simp only [e]
  refine ⟨by simp [LaneAcc.miss?], ⟨_, List.mem_singleton_self _, rfl⟩, ?_, by decide, ?_, by decide, by decide, by decide, by decide⟩
  · intro x hx f hf; rw [List.mem_singleton.mp hx] at hf; simp only [LaneAcc.err?, Option.some.injEq] at hf; rw [← hf]
  · intro x hx f hf _; rw [List.mem_singleton.mp hx] at hf; simp only [LaneAcc.err?, Option.some.injEq] at hf; rw [← hf]
/-- A poisoned granule under the page: lanes that touch it count it once. -/
def spoiledPage : State := { paged with tlb := [{ page with poison := true }], poisonBase := 0x90000 }.setBitmap 0x90000 0x40 true
theorem witness_AccessFaults_poison : (spoiledPage.resolveAll (.v 8) 0 4 .chip .read).map (·.err?) = [some ⟨causePoison, 1⟩]
    ∧ granuleOf spoiledPage 32 0 0x20000 = some 0x40 ∧ spoiledPage.ready (.ld true (.v 2) (.v 8) .chip .b4 0) = true := by decide
/-- A chunk that has stored a byte; a wave whose private byte was written through an alias. -/
def stored : State := State.with paged (fun w => { w with run := { w.run with writes := [⟨.mem 0x40001, 0x20001, [0x5A], false⟩] } }) id id
def aliased : State := State.with paged (fun w => { w with stale := [(0x40000, some 0x11)] }) id id
theorem witness_LoadsReadOwnStores : ([.ld true (.v 2) (.v 8) .chip .b4 0, .ldAcq true (.v 2) (.v 8) .chip .b4 0, .ldSigned true (.v 2) (.v 8) .chip .b4 0] :
      List Instr).all paged.ready = true
    ∧ OnChip paged (.v 8) 0 4 .chip .read (fun _ => (List.range 4).map fun i => .mem (0x40000 + i))
    ∧ (∀ x ∈ (stored.wave 32).run.writes, x.at (.mem 0x40002) = none) ∧ (stored.wave 32).run.writes = [⟨.mem 0x40001, 0x20001, [0x5A], false⟩]
    ∧ (⟨.mem 0x40001, 0x20001, [0x5A], false⟩ : Write).at (.mem 0x40001) = some 0x5A
    ∧ (Tab.get none (paged.wave 32).stale 0x40000 = none ∧ Tab.get none (aliased.wave 32).stale 0x40000 = some 0x11
      ∧ (aliased.wave 32).run.view = false ∧ (aliased.wave 32).run.writes = [] ∧ Scope.near ≠ .chip) :=
  ⟨by decide, (paged_onChip .read (.inl rfl)).1, by decide, by decide, by decide, by decide⟩
theorem witness_Stores : ([.st (.v 2) (.v 8) .chip .b4 0, .stRel (.v 2) (.v 8) .chip .b4 0] : List Instr).all paged.ready = true
    ∧ OnChip paged (.v 8) 0 4 .chip .write (fun _ => (List.range 4).map fun i => .mem (0x40000 + i))
    ∧ paged.stashRoom (fun _ => (List.range 4).map fun i => .mem (0x40000 + i))
    ∧ (∀ l ∈ paged.myLanes, ((List.range 4).map fun i => Loc.mem (0x40000 + i)).Nodup
      ∧ ∀ p ∈ (List.range 4).map (fun i => Loc.mem (0x40000 + i)), ∀ r, p ≠ .reg paged.cur.wave r)
    ∧ paged.me.run.saved.length + (ownRows 32 (paged.myLanes.flatMap fun _ => (List.range 4).map fun i => .mem (0x40000 + i))).length ≤ 32
    ∧ paged.me.run.writes = [] := by
  refine ⟨by decide, (paged_onChip .write (by simp)).1, show _ ≤ 64 by decide, fun l _ => ⟨by decide, fun p hp r => ?_⟩, by decide, by decide⟩
  obtain ⟨i, _, rfl⟩ := List.mem_map.mp hp
  exact nofun
/-- The first register of the wave's own window, named by v8. -/
def windowOwn : State := State.regs base [(8, 0), (9, 0x41000000)]
theorem witness_Stores_window : windowOwn.ready (.st (.v 2) (.v 8) .chip .b4 0) = true
    ∧ OnChip windowOwn (.v 8) 0 4 .chip .write (fun _ => (List.range 4).map fun i => .reg 32 i)
    ∧ windowOwn.stashRoom (fun _ => (List.range 4).map fun i => .reg 32 i)
    ∧ windowOwn.me.run.saved.length + (ownRows 32 (windowOwn.myLanes.flatMap fun _ => (List.range 4).map fun i => .reg 32 i)).length ≤ 32 := by
  refine ⟨by decide, ⟨fun l hl => ⟨false, ?_⟩, fun l hl => ?_, by decide⟩, show _ ≤ 64 by decide, by decide⟩ <;>
    rw [show l = 0 from List.mem_singleton.mp (by simpa [show windowOwn.myLanes = [0] by decide] using hl)] <;> decide
theorem witness_PrefetchAndFence : ([.pref (.v 8) .chip .b4 0, .fence .chip, .fence .sys, .fence .fab] : List Instr).all paged.ready = true
    ∧ OnChip paged (.v 8) 0 4 .chip .read (fun _ => (List.range 4).map fun i => .mem (0x40000 + i))
    ∧ Scope.num .chip ≤ 3 ∧ 4 ≤ Scope.num .sys ∧ paged.alone = true ∧ paged.logRoom 32 1 = true ∧ paged.postedIn 32 4 = []
    ∧ paged.failedIn 32 4 = none ∧ paged.uncounted 32 = false :=
  ⟨by decide, (paged_onChip .read (.inl rfl)).1, by decide⟩
theorem witness_Atomics : ([.aadd (.v 2) (.v 8) .chip .b4 .none, .aaddF (.v 2) (.v 8) .chip .b4 .acq, .aminS (.v 2) (.v 8) .chip .b4 .rel,
      .aminW (.v 2) (.v 8) .chip .b4 .acqrel, .amaxS (.v 2) (.v 8) .chip .b4 .none, .amaxW (.v 2) (.v 8) .chip .b4 .none, .aand (.v 2) (.v 8) .chip .b4 .none,
      .aor (.v 2) (.v 8) .chip .b4 .none, .axor (.v 2) (.v 8) .chip .b4 .none, .axchg (.v 2) (.v 8) .chip .b4 .none, .acas (.v 2) (.v 8) .chip .b4 .none,
      .redAdd (.v 2) (.v 8) .chip .b4 true, .redAddF (.v 2) (.v 8) .chip .b4 false, .redMinS (.v 2) (.v 8) .chip .b4 false,
      .redMinW (.v 2) (.v 8) .chip .b4 false, .redMaxS (.v 2) (.v 8) .chip .b4 false, .redMaxW (.v 2) (.v 8) .chip .b4 false,
      .redAnd (.v 2) (.v 8) .chip .b4 false, .redOr (.v 2) (.v 8) .chip .b4 false, .redXor (.v 2) (.v 8) .chip .b4 false] : List Instr).all paged.ready = true
    ∧ OnChip paged (.v 8) 0 4 .chip .atomic (fun _ => (List.range 4).map fun i => .mem (0x40000 + i))
    ∧ OnChip paged (.v 8) 0 4 .chip .red (fun _ => (List.range 4).map fun i => .mem (0x40000 + i)) :=
  ⟨by decide, (paged_onChip .atomic (by simp)).1, (paged_onChip .red (by simp)).1⟩
/-- A chunk that ends in an atomic on a word of the scratchpad, with and without a result. -/
def adds (ret : Bool) : State :=
  let x : AtomLane := { lane := 63, locs := (List.range 4).map fun i => .scr 1 (8 + i), ea := 0x4000000000000008, x := 1, y := 0 }
  State.with paged (fun w => { w with com := some { Chunk.fresh w.lanes 4096 with closing := .atomic .add .b4 [x] (some 2) ret } }) id id
theorem adds_ready (ret : Bool) : (adds ret).Quiet ∧ (adds ret).Commits 32 (((adds ret).wave 32).com.getD {}) := by
  cases ret <;> exact ⟨State.quiet_of (by decide), by decide, by decide, by decide, by decide, by decide, by decide, by decide, by decide, by decide, by decide, by decide⟩
theorem witness_Atomics_commit : ((adds true).Commits 32 (((adds true).wave 32).com.getD {}) ∧ (((adds true).wave 32).com.getD {}).writes = [])
    ∧ (adds false).Commits 32 (((adds false).wave 32).com.getD {}) := ⟨⟨(adds_ready true).2, by decide⟩, (adds_ready false).2⟩
theorem witness_AtomicValues : (0xFFFFFFFF : Nat) < 2 ^ 32 ∧ (0 : Nat) < 2 ^ 32 ∧ 0 < 32 ∧ (32 = 32 ∨ 64 = 32) ∧ (1 : Nat) < 2 ^ 64 := by decide

/-! ### Synchronisation -/

theorem witness_BarrierObjects : let b : Barrier := { broken := false, err := false, phase := 65535, arrive := 1048575, init := 1048575, bytes := -2 ^ 40 }
    (b.phase < 2 ^ 16 ∧ b.arrive < 2 ^ 20 ∧ b.init < 2 ^ 20 ∧ -2 ^ 40 ≤ b.bytes ∧ b.bytes < 2 ^ 40 ∧ b.init ≠ 0 ∧ 1 < b.arrive)
    ∧ ({ b with arrive := 1, bytes := 0 }.arrive = 1 ∧ { b with arrive := 1, bytes := 0 }.bytes = 0 ∧ { b with arrive := 1 }.bytes ≠ 0)
    ∧ ({ b with arrive := 0 }.arrive = 0 ∧ { b with init := 0 }.init = 0) ∧ { b with arrive := 0 }.bytes + 2 ^ 40 = 0 := by decide
/-- An object of two participants at 0x40000, and one whose phase 0 is over. -/
def object (b : Barrier) : State := paged.stBytes 0x40000 b.toBytes
def open_ : Barrier := { broken := false, err := false, phase := 0, arrive := 2, init := 2, bytes := 0 }
theorem object_free (b : Barrier) (h : b = open_ ∨ b = { open_ with arrive := 1 } ∨ b = { open_ with phase := 1 }) (acc : Acc) (ha : acc = .read ∨ acc = .atomic)
    (bad : Nat × Nat) (hb : bad = badBarrier ∨ bad = badCounter) (scr : Bool) : (object b).objectFree (.v 8) scr acc bad (.mem 0x40000) := by
  rcases h with rfl | rfl | rfl <;> rcases ha with rfl | rfl <;> rcases hb with rfl | rfl <;> cases scr <;> exact ⟨by decide, by decide⟩
theorem paged_free (acc : Acc) (ha : acc = .read ∨ acc = .write ∨ acc = .atomic) (bad : Nat × Nat) (hb : bad = badBarrier ∨ bad = badCounter) (scr : Bool) :
    paged.objectFree (.v 8) scr acc bad (.mem 0x40000) ∧ (State.regs paged [(4, 1)]).objectFree (.v 8) scr acc bad (.mem 0x40000) := by
  rcases ha with rfl | rfl | rfl <;> rcases hb with rfl | rfl <;> cases scr <;> exact ⟨⟨by decide, by decide⟩, by decide, by decide⟩
theorem witness_BarrierInstructions : ([.binit (.v 8) (.v 4), .barr (.v 8), .bexp (.v 8) (.v 4), .btest true (.v 2) (.v 8) (.v 4)] : List Instr).all
      (State.regs paged [(4, 1)]).ready = true
    ∧ (State.regs paged [(4, 1)]).objectFree (.v 8) true .atomic badBarrier (.mem 0x40000)
    ∧ (State.regs paged [(4, 1)]).objectFree (.v 8) true .read badBarrier (.mem 0x40000) ∧ 1 ≤ ((State.regs paged [(4, 1)]).me.read32 0 (.v 4)).toNat
    ∧ paged.ready (.binit (.v 8) (.v 4)) = true ∧ (paged.me.read32 0 (.v 4)).toNat = 0 :=
  ⟨by decide, (paged_free .atomic (by simp) badBarrier (by simp) true).2, (paged_free .read (by simp) badBarrier (by simp) true).2, by decide⟩
/-- A sync group whose only member is the workgroup, and whose object at 0x41000 waits for one arrival. -/
def grouped : State :=
  let s := (walkable.stBytes 0x41000 { open_ with arrive := 1, init := 1 }.toBytes).modLaunch 1 fun x => { x with groups := [⟨0x21000, [0]⟩] }
  State.with s (fun w => { w with gDone := [0], gArrived := [false] }) (fun g => { g with groups := [0], gMade := [0] }) id
def groupedArrived : State :=
  ((grouped.entered (.gsync true (.v 2) 0)).modWave 32 fun w => { w with gArrived := setAt w.gArrived 0 true }).makeArrivals grouped.me.wg
/-- The same with an object whose participants have all arrived already. -/
def overGrouped : State := grouped.stBytes 0x41000 { open_ with arrive := 0, bytes := 8 }.toBytes
theorem witness_WaitInstructions : (([open_, { open_ with phase := 1 }].all fun b => (object b).ready (.bwait true (.v 2) (.v 8) .zero)) = true
      ∧ (object open_).objectFree (.v 8) true .read badBarrier (.mem 0x40000) ∧ ((object open_).barrierAt (.mem 0x40000)).released 0 = false
      ∧ (object { open_ with phase := 1 }).objectFree (.v 8) true .read badBarrier (.mem 0x40000)
      ∧ ((object { open_ with phase := 1 }).barrierAt (.mem 0x40000)).released 0 = true)
    ∧ (paged.objectFree (.v 8) false .read badCounter (.mem 0x40000) ∧ paged.objectFree (.v 8) false .atomic badCounter (.mem 0x40000)
      ∧ ([.ctrwait (.v 8) (.v 4), .ctrset (.v 8) (.v 4), .logmark true (.v 2), .gsync true (.v 2) 0] : List Instr).all paged.ready = true
      ∧ (paged.ld64 0x40000 - paged.me.read64 0 (.v 4)).toNat < 2 ^ 63 ∧ (paged.ld64 0x40008).getLsbD 63 = false ∧ paged.myWg.groups.idxOf? 0 = none
      ∧ (paged.tenant (paged.waveTenant 32)).logging = false)
    ∧ ((State.regs paged [(4, 1)]).objectFree (.v 8) false .read badCounter (.mem 0x40000) ∧ (State.regs paged [(4, 1)]).ready (.ctrwait (.v 8) (.v 4)) = true
      ∧ 2 ^ 63 ≤ ((State.regs paged [(4, 1)]).ld64 0x40000 - (State.regs paged [(4, 1)]).me.read64 0 (.v 4)).toNat)
    ∧ ((grouped.groupObj grouped.me.wg 0).bind grouped.waitLine = none ∧ grouped.arrivalFault grouped.me.wg = none
      ∧ (overGrouped.modWave 32 fun w => { w with gArrived := setAt w.gArrived 0 true }).arrivalFault overGrouped.me.wg = some (1, 0x21000)
      ∧ overGrouped.ready (.gsync true (.v 2) 0) = true ∧ (overGrouped.groupObj overGrouped.me.wg 0).bind overGrouped.waitLine = none)
    ∧ (grouped.ready (.gsync true (.v 2) 0) = true ∧ grouped.myWg.groups.idxOf? 0 = some 0 ∧ (∀ j, j ≠ 32 → (groupedArrived.wave j).wait.kind = .none)
      ∧ (groupedArrived.wave 32).lanes = grouped.me.lanes ∧ groupedArrived.groupObj grouped.me.wg 0 = some 0x41000
      ∧ (groupedArrived.barrierAt (.mem 0x41000)).released (grouped.me.gDone.getD 0 0 % 65536) = true)
    ∧ (logging paged).ready (.logmark true (.v 2)) = true ∧ ((logging paged).tenant ((logging paged).waveTenant 32)).logging = true := by
  have q : groupedArrived.quietB = true := by decide
  exact ⟨⟨by decide, object_free _ (by simp) .read (by simp) _ (by simp) _, by decide, object_free _ (by simp) .read (by simp) _ (by simp) _, by decide⟩,
    ⟨(paged_free .read (by simp) badCounter (by simp) false).1, (paged_free .atomic (by simp) badCounter (by simp) false).1, by decide⟩,
    ⟨(paged_free .read (by simp) badCounter (by simp) false).2, by decide⟩, by decide,
    ⟨by decide, by decide, fun j _ => (State.quiet_of q).waits j, by decide, by decide, by decide⟩, by decide⟩
/-- The control line of a queue of two entries with a number of them full, in the workgroup's first or second stage. -/
def queued (stage n : Nat) (closed : Bool) : State :=
  let s := ((staged.st64 0x40000 (BitVec.ofNat 64 n)).st64 0x40010 (if closed then 0x8000000000000001 else 1))
  State.with s id (fun g => { g with stage := stage }) id
theorem witness_StageQueues : ((queued 0 0 false).ready (.qpush true (.v 2) (.v 8) (.v 16)) = true
      ∧ (queued 0 0 false).queueOf 0 false ((queued 0 0 false).me.read64 0 (.v 8)) = .ok 0x40000 ∧ (queued 0 0 false).myStages.length = 2
      ∧ (queued 0 0 false).waitLine 0x40000 = none)
    ∧ (base.ready (.qpush true (.v 2) (.v 8) (.v 16)) = true ∧ base.ready (.qpop true (.v 16) (.v 8) .zero) = true ∧ base.queueOf 0 false 0 = .error 1)
    ∧ (([(1, false), (0, true), (0, false)].all fun (n, c) =>
        let s := queued 1 n c
        s.ready (.qpop true (.v 16) (.v 8) .zero) && s.queueOf 0 false (s.me.read64 0 (.v 8)) == .ok 0x40000 && (s.waitLine 0x40000).isNone
          && s.logRoom 32 2 && s.waves.all fun p => p.2.wait.kind == .none) = true
      ∧ 0 < queueOcc ((queued 1 1 false).queueAt 0x40000) ∧ ((queued 1 0 true).queueAt 0x40000).2.2.1 = true
      ∧ queueOcc ((queued 1 0 false).queueAt 0x40000) = 0 ∧ ((queued 1 0 false).queueAt 0x40000).2.2.1 = false)
    ∧ (let q := (queued 0 2 false).queueAt 0x40000; 2 ^ q.2.2.2 ≤ queueOcc q)
    ∧ (let q := (queued 0 1 false).queueAt 0x40000; queueOcc q < 2 ^ q.2.2.2) := by decide

/-! ### Engines -/

def isOk {α β : Type} : Except α β → Bool
  | .ok _ => true
  | .error _ => false
/-- Far ends in v16 and v24, a region of the job's own rank, a descriptor of an eight-byte atomic. -/
def moving : State :=
  let s := State.regs paged [(16, 64), (17, 0xC0000000), (24, 64), (25, 0xC0000000), (32, 0x30)]
  State.with s id id fun t => { t with cur := { t.cur with rgnBase := 0x1000 }, tables := Tab.store [] 0x1000 (bytes64 0x2000F ++ bytes64 0x1000) }
/-- The check of a command: whether its place, its sides and its board pass. -/
def moves (s : State) (i : Instr) (m : Cmd) : Bool :=
  match (s.entered i).moveChecks m with
  | .ok m => isOk ((s.entered i).boardCheck m)
  | .error _ => false
theorem witness_EngineIssue : ([.acopy 8 10 20 .none, .acopySys 8 10 20 .none, .acopyNear 8 10 20 .none, .acopyPod 8 10 20 .none, .afill 8 10 20 .none,
      .acopy2d 8 10 40 .none, .agath 8 10 40 .none, .ascat 8 10 40 .none, .putr 16 10 40 .none, .getr 10 24 40 .none, .atomr 16 8 32 .none] : List Instr).all
      moving.ready = true
    ∧ ([(CmdOp.acopy, 4, 2), (.acopySys, 4, 2), (.acopyNear, 4, 2), (.acopyPod, 4, 2), (.afill, 4, 2), (.acopy2d, 8, 4), (.agath, 8, 4),
        (.ascat, 8, 4)].all fun x => moves moving .nop (moving.moveCmd x.1 8 0 40 x.2.1 x.2.2 .none)) = true
    ∧ (moves moving .nop (moving.moveCmd .putr 16 0 40 8 2 .none) && moves moving .nop (moving.moveCmd .getr 10 0xC000000000000040 40 8 2 .none)
        && moves moving .nop (moving.moveCmd .atomr 16 0x20000 32 8 2 .none)) = true
    ∧ isOk (moving.moveChecks (moving.moveCmd .acopy 8 0 31 4 2 .none)) = false
    ∧ isOk (State.boardCheck { moving with cmds := List.replicate 32 {} } (moving.moveCmd .acopy 8 0 40 4 2 .none)) = false := by decide
/-- The wave owns the engine and eight banks; another wave owns it; a paired workgroup. -/
def owning : State :=
  State.with (base.modCore 0 fun c => { c with owner := some 32 }) (fun w => { w with own := 1 }) (fun g => { g with scrUnits := 32, accCount := 16, held := 0xFF }) id
def owned : State := base.modCore 0 fun c => { c with owner := some 33 }
def paired : State := State.with base id (fun g => { g with pair := true, nwaves := 2 }) id
theorem witness_MatrixOwnership : ([.macq, .macqPair, .mrel, .aballoc true (.v 2) 8, .abfree (.v 25) 8] : List Instr).all
      (fun i => base.ready i && owning.ready i && owned.ready i && paired.ready i) = true
    ∧ ((base.core 0).owner = none ∧ (base.core 0).queue = [] ∧ (owning.core 0).owner = some 32 ∧ (owned.core 0).owner = some 33 ∧ owned.coreOf 32 = 0)
    ∧ (base.myWg.pair = false ∧ paired.myWg.pair = true ∧ (paired.core 0).owner = none ∧ (paired.core 1).owner = none ∧ (paired.core 1).queue = [])
    ∧ ((owned.core 0).owner ≠ some 32 ∧ (owned.core 1).owner ≠ some 32 ∧ (owning.core 0).queue = [])
    ∧ (base.myWg.freeRun 8 = none ∧ owning.myWg.freeRun 8 = some 8)
    ∧ base.myWg.holds 0 8 = false ∧ owning.myWg.holds 0 8 = true ∧ owning.board 0 = [] ∧ owning.myWg.cores = [0] := by decide
/-- An owner with a descriptor of one gathered row in v20 and an MDRAIN into its scratchpad. -/
def draining : State := State.regs owning [(20, 1), (13, 0x40000000), (28, 0x200), (29, 0x80000000)]
theorem witness_MatrixIssue : ([.mmaF16 false 27 16 18 1, .mmaFp8 false 27 16 18 3, .mmaInt8 false 27 16 18 0, .mmaFp8Fp4 false 27 16 18 0,
      .mmaFp4 false 27 16 18 1, .mmaFp6 false 27 16 18 3, .mgath false 27 16 20, .mscale false 27 true, .mzero false 26, .msnap false 26 27,
      .mdrain false 25 12 28 .replace] : List Instr).all draining.ready = true
    ∧ ([(CmdOp.mmaF .bf16 .bf16 false false, 0#64, [0, 0]), (.mmaI true true, 0, [0, 0]), (.mmaF .e5m2 .e2m1 false true, 0, [0, 0]),
        (.mmaF .e2m1 .e2m1 true true, 0, [0, 0]), (.mmaF .e2m3 .e3m2 false false, 0, [0, 0]), (.mgath, 0, [1]), (.mscale true, 0, []), (.mzero, 0, []),
        (.msnap, 0, []), (.mdrain .replace, 0x4000000000000000, [0x200, 0x80000000])].all fun x =>
        let m := draining.matrixCmd x.1 false 27 x.2.1 x.2.2
        isOk (draining.matrixChecks m) && isOk (draining.boardCheck m)) = true
    ∧ isOk (base.matrixChecks (base.matrixCmd .mzero false 26 0 [])) = false
    ∧ isOk (State.boardCheck { draining with cmds := List.replicate 32 {} } (draining.matrixCmd .mzero false 26 0 [])) = false
    ∧ (draining.matrixCmd (.mdrain .replace) false 25 0 [0x200, 0x200]).w 1 = 0x200
    ∧ isOk (draining.objectAt 32 0 (BitVec.ofNat 64 (windowEa 0x200)) true .atomic) = true
    ∧ isOk (draining.objectAt 32 0 (BitVec.ofNat 64 (windowEa 0x10000)) true .atomic) = false
    ∧ (1 : BitVec 2).toNat < 2 ∧ ((draining.matrixCmd (.mdrain .replace) false 25 0 [0x200, 0x80000000]).w 1).getLsbD 31 = true := by decide

/-! ### Launches and bias flips -/

def biased (host : Bool) : State := let s := { paged with cxl := true, biasBase := 0x90000 }; if host then s.setBitmap 0x90000 0x40 true else s
theorem witness_LaunchesAndFlips : ((paged.ready (.launch 4 8 12) && paged.ready (.launchRank 4 8 12)) = true
      ∧ (isOk (paged.launchChecks 0 0x20000 0x20040 false) && isOk (paged.launchChecks 0x8000 0x20FC0 0 true)) = true
      ∧ isOk (paged.launchChecks 0x10 0x20000 0 false) = false
      ∧ paged.frozen = false ∧ (paged.tenant (paged.waveTenant 32)).logging = false)
    ∧ (paged.ready (.biasflipHost (.v 8)) && paged.ready (.biasflipDev (.v 8)) && (State.regs base [(9, 0x80000000)]).ready (.biasflipDev (.v 8))) = true
    ∧ tag00 ((State.regs base [(9, 0x80000000)]).me.read64 0 (.v 8)) = some 1 ∧ tag00 (paged.me.read64 0 (.v 8)) = none ∧ paged.cxl = false
    ∧ resolve paged 32 0 0x20000 1 .chip .write = .ok { target := .chip [.mem 0x40000], far := false, cnt := false }
    ∧ ([true, false].all fun h => (biased h).ready (.biasflipHost (.v 8)) && (biased h).cxl && (biased h).flips == [] && (biased h).hostBias 0x40000 == h
        && resolve (biased h) 32 0 0x20000 1 .chip .write == .ok { target := .chip [.mem 0x40000], far := false, cnt := false }) = true := by decide

/-! ### Encoding, fetch and step -/

/-- The slot of a placed word, or one whose counter names no line held by the core. -/
def slotAt (pc : W64) : Slot := { wave := 32, pc := pc, mask := 1 }
def fetching (pc : W64) : State :=
  let s := State.reset.placeWord 0x20903081
  { State.with s (fun w => w.modLane 0 fun x => { x with pc := pc }) id id with issue := [slotAt pc] }
theorem witness_DecodedWords : decode 0x0403FFFB = .ok (.bnz (.v 3) 0xFFFB) := by decide
theorem witness_DecodeAndEncode : Instr.wf (.iadd true (.v 16) (.v 24) (.v 32) .w64) = true
    ∧ encode (.iadd true (.v 16) (.v 24) (.v 32) .w64) = some 0x20903081 ∧ decode 0x20903081 = .ok (.iadd true (.v 16) (.v 24) (.v 32) .w64) := by decide
theorem witness_StepRunsDecoded : let s := fetching slotPc
    (s.issue = [slotAt slotPc] ∧ 0 < s.ports ∧ (s.take (slotAt slotPc) [] 0).setStands = true
      ∧ (s.core (s.coreOf 32)).word? (s.waveTenant 32) slotPc = some 0x20903081 ∧ decode 0x20903081 = .ok (.iadd true (.v 16) (.v 24) (.v 32) .w64))
    ∧ ({ s with ports := 0 } : State).ports = 0 ∧ ({ s with issue := [], agenda := [.localCommit 32] } : State).issue = []
    ∧ State.reset.issue = [] ∧ State.reset.agenda = [] := by decide
theorem witness_FetchTraps : (([slotPc, 0x4000000000010000, 0x0200000000010000, 0x20002].all fun pc =>
      (fetching pc).issue == [slotAt pc] && decide (0 < (fetching pc).ports) && ((fetching pc).take (slotAt pc) [] 0).setStands) = true)
    ∧ (([0x4000000000010000, 0x0200000000010000, 0x20002].all fun pc => ((fetching pc).core 0).word? 0 pc == none) = true)
    ∧ (decode 0x01008000 = .error .reserved ∧ (0xF0#32).toNat = 0xF0) ∧ (0x4000000000010000#64).extractLsb' 62 2 ≠ 0
    ∧ ((0x0200000000010000#64).extractLsb' 62 2 = 0 ∧ (0x0200000000010000#64).extractLsb' 57 5 ≠ 0)
    ∧ (0x20002#64).extractLsb' 57 7 = 0 ∧ (0x20002#64).extractLsb' 0 2 ≠ 0 := by decide
theorem witness_ResetState : let d : Discovery := { valid := true, h5 := 1, resv := 0, pcap := 600, accel := 0, near := [], cxl := false, hostId := 0, pbr := 0, mapped := [], failed := [] }
    d.valid = true ∧ 600 ≤ d.pcap ∧ d.pcap ≤ 2200 ∧ ({ d with pcap := 2201 } : Discovery).pcap > 2200 := by decide
theorem witness_MemoryStaysCanonical : Memory.wf (paged.st64 0x40000 7).mem = true ∧ ∃ t, step (fetching slotPc) = .next t := by
  have h : (match step (fetching slotPc) with | .next _ => true | _ => false) = true := by decide
  refine ⟨by decide, ?_⟩
  split at h
  · exact ⟨_, by assumption⟩
  · cases h

/-! ### Commits -/

/-- A committing chunk that has stored a word, raised a flag and passed a progress point; its wave goes on. -/
def commit (f : Chunk → Chunk) : State :=
  State.with paged (fun w => { w with com := some (f { Chunk.fresh w.lanes 4096 with writes := [⟨.mem 0x40004, 0x20004, [1, 2, 3, 4], false⟩], flags := 1, prog := [(15, 1)] }) }) id id
def commitChunk : Chunk := ((commit id).wave 32).com.getD {}
theorem commit_ready : (commit id).Commits 32 commitChunk :=
  ⟨by decide, by decide, by decide, by decide, by decide, by decide, by decide, by decide, by decide, by decide, by decide⟩
/-- The same with the fork of a copy instead of its stores. -/
def forking : State := commit fun c => { c with writes := [], closing := .engine { id := 7, op := .acopy, wave := 32, wg := 1, launch := 1, left := [0] } }
theorem forking_ready : forking.Commits 32 ((forking.wave 32).com.getD {}) :=
  ⟨by decide, by decide, by decide, by decide, by decide, by decide, by decide, by decide, by decide, by decide, by decide⟩
/-- An operation packet on its way: the write of the chunk, or an atomic. -/
def packet (c : Closing) (ws : List Write) : State :=
  { paged with packets := [{ home := 0, ts := 1, wave := 32, writes := ws, closing := c, sig := 0, clusters := [] }] }
def increment : Closing := .atomic .add .b4 [{ lane := 63, locs := (List.range 4).map fun i => .mem (0x40000 + i), ea := 0x20000, x := 1, y := 0 }] (some 2) true
theorem witness_Commits : ((commit id).Quiet ∧ (commit id).Commits 32 commitChunk ∧ commitChunk.closing = .none ∧ commitChunk.writes ≠ []
      ∧ commitChunk.lines.any (commit id).pendingLine = false)
    ∧ (([packet .none commitChunk.writes, packet increment []].all fun s =>
        (s.packets.find? fun p => p.home == 0) == s.packets.head? && !(s.wave 32).lanes.all (·.exited) && (s.wave 32).com.isNone
          && (s.tenant (s.waveTenant 32)).reverse.isNone && (s.wave 32).trapQ == []) = true
      ∧ (packet .none commitChunk.writes).Quiet ∧ (packet increment []).Quiet)
    ∧ (let s := { commit id with packets := (packet .none [⟨.mem 0x40004, 0x20004, [9], false⟩]).packets }
      (s.wave 32).com = some commitChunk ∧ commitChunk.lines.any s.pendingLine = true)
    ∧ (forking.Quiet ∧ forking.Commits 32 ((forking.wave 32).com.getD {}) ∧ ((forking.wave 32).com.getD {}).writes = [])
    ∧ ([Closing.barrier .arrive (.mem 0x40000) 0x20000 slotPc 1, .ctrset (.mem 0x40000) 5].all fun c =>
        let s := packet c []
        (s.packets.find? fun p => p.home == 0) == s.packets.head? && s.quietB) = true
    ∧ (barrierChange .arrive ((object open_).barrierAt (.mem 0x40000))).2 = none
    ∧ ({ paged with resQueue := [32] } : State).resHolder = none ∧ ({ paged with resQueue := [32] } : State).resQueue = 32 :: [] :=
  ⟨⟨State.quiet_of (by decide), commit_ready, by decide, by decide, by decide⟩, ⟨by decide, State.quiet_of (by decide), State.quiet_of (by decide)⟩,
    by decide, ⟨State.quiet_of (by decide), forking_ready, by decide⟩, by decide, by decide, by decide, by decide⟩

/-! ### The picker, fetch and translation -/

/-- A cycle whose one offered set misses its line, while another set of its wave has its own. -/
def heldPorts : State :=
  { State.with base (fun w => { w with lanes := { pc := 0x10080, exited := false } :: { pc := 0x10084, exited := false } :: { pc := 0x1007C, exited := false } :: { pc := slotPc, exited := false } :: w.lanes.drop 4 }) id id with
    cycleOf := some 0, ports := 2, offered := [{ wave := 32, pc := 0xFF80, mask := 1, cause := some .fetch }] }
theorem witness_PickerAndLanes : ((base.wave 32).lane 0).pcnt ≤ 1 ∧ 1 < (((State.with base (fun w => w.modLane 0 fun x => { x with pcnt := 2 }) id id).wave 32).lane 0).pcnt
    ∧ (0 < (base.wave 32).lanes.length ∧ 4095 ≤ (((State.with base (fun w => w.modLane 0 fun x => { x with age := 4095 }) id id).wave 32).lane 0).age)
    ∧ (base.cycleOf = none ∧ (base.core 254).assigned = false ∧ 254 < 255) ∧ (base.core 0).assigned = true
    ∧ (∀ p ∈ base.tenants, p.2.reverse = none) ∧ (∀ p ∈ base.wgs, p.2.unwindDue = none)
    ∧ (heldPorts.cycleOf.isSome = true ∧ heldPorts.switched = none ∧ heldPorts.holdPorts.2 = true)
    ∧ ({ base with cycleOf := some 0, switched := some [] } : State).switched.isSome = true ∧ base.holdPorts.2 = false := by decide
/-- A translation of the walkable table. -/
def found : Tlb :=
  { home := .l1 0, tenant := 0, va := 0x21000, size := 4096, tgt := 0, pa := 0x41000, r := true, w := true, x := false, coh := false, cnt := false,
    poison := false }
theorem witness_WalksAndFills : (tlbFind walkable (.l1 0) 0 0x21000 = none ∧ walk walkable 0 0 0x21000 = .ok found
      ∧ (tlbNext (.l1 0)).bind (tlbFind walkable · 0 0x21000) = none ∧ tlbHalf (.l1 0) = 0)
    ∧ (tlbNext (.l1 0)).bind (tlbFind { walkable with tlb := [{ found with home := .l2 0 }] } · 0 0x21000) = some { found with home := .l2 0 }
    ∧ (tlbFind walkable (.l1 0) 0 0x23000 = none ∧ walk walkable 0 0 0x23000 = .error 0x10)
    ∧ (walkable.tlb.filter (·.home == .l1 0)).length ≤ tlbSize (.l1 0)
    ∧ ((0x20F80#64).toNat % 128 = 0 ∧ tlbFind paged (.l1 0) 0 0x20F80 = some page ∧ page.tgt.toNat < 2 ∧ pageCheck paged page 0x20F80 4 .fetch = none ∧ 31 < 32)
    ∧ ({ paged with counts := [(4, 1, 2, 0)] } : State).Quiet ∧ ({ paged with counts := [(4, 1, 2, 0)] } : State).counts = [(4, 1, 2, 0)] :=
  ⟨by decide, by decide, by decide, by decide, by decide, State.quiet_of (by decide), rfl⟩

/-! ### Engines at work -/

/-- A copy of 16 bytes within the page whose one part is left; the end of it; its failure with a completion counter. -/
def copying : Cmd :=
  { id := 7, op := .acopy, wave := 32, wg := 1, launch := 1, mask := 1, c := 0x20100, a := 0x20000, b := [16, 0, 0, 0], forked := true, left := [0] }
def doneRecord : State := (walkable.modLaunch 1 fun x => { x with record := [0, 0, 0, 0, 0x21040, 0, 0, 0] })
def runAt (a : Nat) : List FarTarget := (List.range 16).map fun i => FarTarget.chip [.mem (a + i)]
theorem witness_CopyEvents : (let s := { paged with cmds := [copying] }
      (s.Quiet ∧ s.cmd? 7 = some copying ∧ 0 ∈ copying.left ∧ 0 ∉ copying.waiting ∧ copying.part 0 = (0, 0, 16)
      ∧ s.engTargets copying (copying.srcRow 0 + 0) 16 .chip .read = .ok (runAt 0x40000)
      ∧ s.engTargets copying (copying.dstRow 0 + 0) 16 .chip .write = .ok (runAt 0x40100)
      ∧ s.chipReady copying false (copying.srcRow 0 + 0) (runAt 0x40000) = .ok () ∧ s.chipReady copying true (copying.dstRow 0 + 0) (runAt 0x40100) = .ok ()
      ∧ copying.owed = 0 ∧ copying.buf = [] ∧ s.pausedAt copying 0 = false))
    ∧ (let s := { paged with cmds := [{ copying with left := [] }] }
      (s.Quiet ∧ s.cmd? 7 = some { copying with left := [] } ∧ copying.op.isMatrix = false ∧ copying.comp = .none))
    ∧ (let s := { doneRecord with cmds := [copying] }
      (s.Quiet ∧ s.cmd? 7 = some copying ∧ (s.wg 1).cntOpen = false ∧ s.doneAt 1 = some 0x41040 ∧ (s.ld64 0x41050).getLsbD 63 = false
        ∧ s.homeWait (.mem 0x41040) = none ∧ s.homeSteps = []))
    ∧ (let c := { copying with comp := .ctr, compLoc := some (.mem 0x40200) }
      let s := { paged with cmds := [c] }
      let ten := s.tenant (s.launch 1).tenant
      s.Quiet ∧ s.cmd? 7 = some c ∧ ten.owns 0 ten.cur.ptRoot.toNat 2097152 = false ∧ s.homeWait (.mem 0x40200) = none) := by
  exact ⟨⟨State.quiet_of (by decide), by decide⟩, ⟨State.quiet_of (by decide), by decide⟩, ⟨State.quiet_of (by decide), by decide⟩,
    State.quiet_of (by decide), by decide⟩
/-- A command at the head of the engine that its wave owns. -/
def matrix (op : CmdOp) (c : W64) (b : List W32) : Cmd := { id := 7, op := op, wave := 32, wg := 1, launch := 1, mask := 1, c := c, b := b, forked := true }
theorem witness_MatrixEvents : (([matrix .mzero 0x700 [], matrix .msnap 0x700 [], matrix (.mscale true) 0x3F800000 [], matrix .mgath 0 [1],
        matrix (.mmaI true false) 0 [0, 0], matrix (.mmaF .bf16 .bf16 false false) 0 [0, 0]].all fun c =>
      let s := { owning with cmds := [c] }
      s.quietB && s.cmd? 7 == some c && c.op.isMatrix && !c.held && s.heads c && c.load == [] && c.comp == .none && !c.readWaits s
        && (c.readFault s).isNone && c.cores.all fun x => !c.latchShort (s.core x).eng) = true)
    ∧ (matrix .mgath 0 [1]).cores = [0] ∧ ((matrix (.mmaI true false) 0 [0, 0]).c.extractLsb' 8 8).toNat + 1 = 1
    ∧ (FFmt.bf16.value 0).finite = true
    ∧ (let s := { owning with cmds := [matrix .mgath 0 [1]] }
      (matrix .mgath 0 [1]).faults < 2 ∧ s.waveEnded 32 = false ∧ (s.tenant (s.waveTenant 32)).reverse = none ∧ (s.wg 1).cntOpen = false
        ∧ (s.wave 32).trapQ.length < 8) := by decide
/-- An MDRAIN of a tile to 64 rows of 256 bytes in a page of 64 KiB. -/
def draining64 : Cmd := { matrix (.mdrain .replace) 0 [0x100, 0] with a := 0x20000 }
def drainState : State :=
  { owning with cmds := [draining64], cxl := false, tlb := [{ page with size := 65536 }] }
/-- Row `r` of the tile goes to 256 bytes of the page. -/
def DrainRow (r : Nat) : Prop :=
  drainState.engWrite draining64 (draining64.dstRow r) draining64.rowb = .ok ((List.range 256).map fun j => .mem (0x40000 + 256 * r + j))
theorem drain_rows_0 : ∀ r, r < 8 → DrainRow (0 + r) := by unfold DrainRow; decide +kernel
theorem drain_rows_1 : ∀ r, r < 8 → DrainRow (8 + r) := by unfold DrainRow; decide +kernel
theorem drain_rows_2 : ∀ r, r < 8 → DrainRow (16 + r) := by unfold DrainRow; decide +kernel
theorem drain_rows_3 : ∀ r, r < 8 → DrainRow (24 + r) := by unfold DrainRow; decide +kernel
theorem drain_rows_4 : ∀ r, r < 8 → DrainRow (32 + r) := by unfold DrainRow; decide +kernel
theorem drain_rows_5 : ∀ r, r < 8 → DrainRow (40 + r) := by unfold DrainRow; decide +kernel
theorem drain_rows_6 : ∀ r, r < 8 → DrainRow (48 + r) := by unfold DrainRow; decide +kernel
theorem drain_rows_7 : ∀ r, r < 8 → DrainRow (56 + r) := by unfold DrainRow; decide +kernel
theorem drain_rows (r : Nat) (h : r < 64) : DrainRow r := by
  obtain ⟨k, i, rfl, hk, hi⟩ : ∃ k i, r = 8 * k + i ∧ k < 8 ∧ i < 8 := ⟨r / 8, r % 8, by omega, by omega, by omega⟩
  match k, hk with
  | 0, _ => exact drain_rows_0 i hi
  | 1, _ => exact drain_rows_1 i hi
  | 2, _ => exact drain_rows_2 i hi
  | 3, _ => exact drain_rows_3 i hi
  | 4, _ => exact drain_rows_4 i hi
  | 5, _ => exact drain_rows_5 i hi
  | 6, _ => exact drain_rows_6 i hi
  | 7, _ => exact drain_rows_7 i hi
theorem mapM_ok {α β ε : Type} (f : α → Except ε β) (g : α → β) (l : List α) (h : ∀ x ∈ l, f x = .ok (g x)) : l.mapM f = .ok (l.map g) := by
  induction l with
  | nil => rfl
  | cons x l ih => simp [List.mapM_cons, h, ih fun y hy => h y (by simp [hy]), bind, Except.bind, pure, Except.pure]
theorem drain_places : drainState.drainPlaces draining64 .replace =
    .ok ((List.range 64).map fun r => (draining64.dstRow r, (List.range 256).map fun j => .mem (0x40000 + 256 * r + j))) := by
  refine mapM_ok _ _ _ fun r hr => ?_
  have h : DrainRow r := drain_rows r (List.mem_range.1 hr)
  unfold DrainRow at h
  simp [h, Except.bind, Except.map]
theorem witness_MatrixEvents_drain : drainState.Quiet ∧ draining64.readWaits drainState = false ∧ draining64.readFault drainState = none
    ∧ drainState.heads draining64 = true ∧ 256 ≤ 256
    ∧ drainState.drainPlaces draining64 .replace =
        .ok ((List.range 64).map fun r => (draining64.dstRow r, (List.range 256).map fun j => .mem (0x40000 + 256 * r + j))) :=
  ⟨State.quiet_of (by decide), by decide, by decide, by decide, by decide, drain_places⟩

/-! ### Answers from beyond the chip -/

/-- A lane that waits at a target, and the wave that waits for it. -/
def lane63 (t : FarTarget) (op : FarOp) : FarLane := { lane := 63, ea := 0x20000, target := t, op := op }
def waiting (f : FarLane) : State :=
  State.with paged (fun w => { w with wait := { kind := .far, lanes := [f], w := true, d := .v 2, pc := slotPc, mask := 0x8000000000000000 } }) id id
def podLine : PodLine := { rank := 1, region := 0, line := 0 }
theorem waiting_one (f : FarLane) (h : f ∈ [lane63 (.pod podLine 0 5) (.load .b4 false), lane63 (.host 0x1000 false 4) (.load .b8 true),
    lane63 (.pool 1 0 4) (.load .b1 false), { lane63 (.host 0x1038 true 4) (.load .b8 false) with asked := some 0x1038 }]) : (waiting f).OneLane 32 f := by
  simp only [List.mem_cons, List.not_mem_nil, or_false] at h
  rcases h with rfl | rfl | rfl | rfl <;>
    exact ⟨by decide, by decide, by decide, by decide, by decide, by decide, by decide, by decide, by decide, by decide, by decide⟩
theorem witness_FarAnswers : ((waiting (lane63 (.pod podLine 0 5) (.load .b4 false))).OneLane 32 (lane63 (.pod podLine 0 5) (.load .b4 false))
      ∧ (lane63 (.pod podLine 0 5) (.load .b4 false)).target.isPod = true)
    ∧ ((waiting (lane63 (.pool 1 0 4) (.load .b1 false))).OneLane 32 (lane63 (.pool 1 0 4) (.load .b1 false)))
    ∧ ((waiting (lane63 (.host 0x1000 false 4) (.load .b8 true))).OneLane 32 (lane63 (.host 0x1000 false 4) (.load .b8 true))
      ∧ (lane63 (.host 0x1000 false 4) (.load .b8 true)).target.port = true ∧ (lane63 (.host 0x1000 false 4) (.load .b8 true)).target.noncoherent = true
      ∧ ∃ w sg, (lane63 (.host 0x1000 false 4) (.load .b8 true)).op = .load w sg)
    ∧ (let f : FarLane := { lane63 (.host 0x1038 true 4) (.load .b8 false) with asked := some 0x1038 }
      (waiting f).OneLane 32 f ∧ 0x1038 % 64 + Width.b8.bytes ≤ 64 ∧ (waiting f).hostLine? 0x1038 = none)
    ∧ (let f := lane63 (.pod podLine 0 5) (.red .add .b4 1)
      let s := State.with paged (fun w => { w with posted := [f] }) id id
      (s.wave 32).wait.kind = .none ∧ (s.wave 32).posted = f :: [] ∧ f.op = .red .add .b4 1 ∧ f.target = .pod podLine 0 5
        ∧ (s.tenant (s.waveTenant 32)).loaded = true ∧ (s.wave 32).wait.lanes = []) :=
  ⟨⟨waiting_one _ (by simp), by decide⟩, waiting_one _ (by simp), ⟨waiting_one _ (by simp), by decide, by decide, _, _, rfl⟩,
    ⟨waiting_one _ (by simp), by decide⟩, by decide⟩
/-- A request for the line at 0x40000, which region 0 of the tenant names. -/
def request : PodReq := { tenant := 0, line := { rank := 0, region := 0, line := 0 }, byte := 0, src := 5, pv := 3, pc := 9 }
def ownedLine : State := { moving with dir := [(2048, { present := true, owner := some 5, name := request.line, recalling := true })] }
def response : PodRsp :=
  { tenant := 0, line := request.line, src := 5, data := List.replicate 128 7, wts := 4, lend := 8, pc := 9, pois := false, wave := 32 }
theorem witness_PodHome : (moving.Quiet ∧ moving.Open ∧ moving.poisoned (128 * 2048) = false ∧ (moving.dirAt 2048).present = false)
    ∧ (([Acc.read, .write, .atomic, .red].all fun acc => inbound (moving.mergePc 0 9) 0 0 0 128 (some acc) == .ok ((lineLocs 2048).map fun l => (l, false))) = true)
    ∧ (request.byte + ([7, 8] : List Byte).length ≤ 128 ∧ 0 < ([7, 8] : List Byte).length)
    ∧ (ownedLine.Quiet ∧ ownedLine.Open
      ∧ ownedLine.dir.find? (fun p => p.2.tenant == response.tenant && p.2.name == response.line && p.2.owner == some response.src) = some (2048, ownedLine.dirAt 2048)
      ∧ (ownedLine.dirAt 2048).waiting = [] ∧ response.data.length = 128 ∧ response.pois = false ∧ ownedLine.poisoned (128 * 2048) = false
      ∧ (ownedLine.tenant response.tenant).loaded = true)
    ∧ Tab.wf ({} : Tenant) moving.tenants = true :=
  ⟨⟨State.quiet_of (by decide), State.open_of (by decide), by decide⟩, by decide, by decide,
    ⟨State.quiet_of (by decide), State.open_of (by decide), by decide⟩, by decide⟩
/-- Copies of a line of another rank, owned and leased, and a rank table that names its device. -/
def copied (owned : Bool) : State :=
  { (State.with paged id id fun t => { t with cur := { t.cur with rankBase := 0x1000, rankCount := 1 }, tables := Tab.store [] 0x1000 (bytes64 0x2000000 ++ bytes64 4) })
    with copies := [{ tenant := 0, line := podLine, data := List.replicate 128 7, wts := 4, lend := 8, owned := owned }] }
/-- A store of the wave to a pod line that waits for its ownership; the link to the owner down for its whole timeout. -/
def wanting : State := State.with paged (fun w => { w with posted := [lane63 (.pod podLine 0 5) (.store .b4 1)] }) id id
def lonely : State := { ownedLine.modLink 3 fun x => { x with down := true } with time := 1000 * microsecond }
theorem witness_PodLines : (response.pois = false ∧ (paged.tenant 0).loaded = true ∧ (∀ k, (paged.wave k).wait.kind ≠ .far ∧ (paged.wave k).posted = [])
      ∧ (∀ p ∈ paged.waves, p.2.posted = []) ∧ paged.copy? response.tenant response.line = none ∧ paged.recalls = []
      ∧ ({ paged with recalls := [request] } : State).recalls = [request] ∧ request.tenant = response.tenant ∧ request.line = response.line)
    ∧ (([true, false].all fun o => ((copied o).copy? 0 podLine).any fun c => c.owned == o) = true
      ∧ rankLookup (copied true) 0 podLine.rank = .ok { fabric := 4, ether := false, pset := 0 } ∧ { request with line := podLine }.tenant = 0)
    ∧ (wanting.copy? 0 podLine = none ∧ wanting.wantsLine 0 podLine = true)
    ∧ (lonely.Quiet ∧ bits lonely.errN 4 0 < 6 ∧ Tab.wf ({} : DirEntry) lonely.dir = true ∧ (∀ p ∈ lonely.dir, p.2.waiting = [])
      ∧ (lonely.dirAt 2048).owner = some 5 ∧ (lonely.dirAt 2048).tenant = 0 ∧ lonely.homeSteps = []
      ∧ Tab.wf 0 lonely.renewed = true ∧ ∃ p ∈ lonely.dir, p.2.owner = some 5)
    ∧ (let f := lane63 (.host 0x1000 false 4) (.load .b8 true)
      (waiting f).OneLane 32 f ∧ (waiting f).waves = [(32, (waiting f).wave 32)] ∧ ((waiting f).wave 32).posted = [] ∧ (waiting f).cmds = []
        ∧ f.target.port = true) := by
  refine ⟨⟨by decide, by decide, fun k => ?_, by decide, by decide⟩, by decide, by decide, ⟨State.quiet_of (by decide), by decide⟩, waiting_one _ (by simp), by decide⟩
  exact Tab.get_all (P := fun w : Wave => w.wait.kind ≠ .far ∧ w.posted = []) (by decide) (by decide) k
/-- Which link leads to a device is the board's (log entry 28): where link 3 leads to device 5, that device is gone for this one. -/
theorem witness_PodLines_loss (h : Config.carries 3 5 = true) : lonely.ownerGone 0 5 = true := by
  have l : lonely.links = [(3, { down := true })] := by decide
  simp only [State.ownerGone, l, List.any_cons, h]
  decide
/-- The header of a packet from rank 3 to the region, and a packet in work of one piece or two. -/
def header (op len : Nat) (ctr : W64) : PktHdr := PktHdr.make op 0 0 3 len 77 ctr
def here (n : Nat) : List (Loc × Bool) := (List.range n).map fun i => (Loc.mem (0x40000 + i), false)
def bytes8 : List Byte := [1, 2, 3, 4, 5, 6, 7, 8]
def piece (k : Nat) : Nat × List Loc × List Byte := (k, (here 8).map (·.1), bytes8)
def arrived (op : Nat) (work : ArrWork) (left : List (Nat × List Loc × List Byte)) (ctr : W64) : Arrival :=
  { id := 9, tenant := 0, h := header op 8 ctr, seq := 1, work := work, left := left, uncounted := ctr != 0 }
def working (z : Arrival) : State := { moving with arrivals := [z] }
theorem witness_FabricTarget : (moving.Quiet ∧ moving.frozen = false ∧ (State.with moving id id fun t => { t with frozen := true }).frozen = true
      ∧ (header 7 8 0).ok 1 = false ∧ moving.arrivals = [] ∧ (∀ p ∈ (moving.tenant 0).placedSeq, ¬ (p.1 = 3 ∧ p.2.1 = 1)))
    ∧ (([(1, Acc.write), (2, .read), (4, .atomic)].all fun x =>
        (header x.1 8 0).ok x.1 && inbound (moving.fillInbound 0 0 0 8) 0 0 0 8 (some x.2) == .ok (here 8)) = true
      ∧ (header 1 8 0).len = bytes8.length ∧ (header 1 8 0).tc = false ∧ (header 4 8 0).offset % Width.b8.bytes = 0 ∧ Width.b8.bytes = 8)
    ∧ (([Acc.write, .read, .atomic].all fun acc =>
        inbound (moving.fillInbound 0 0 0xFF8 16) 0 0 0xFF8 16 (some acc) matches .error _) = true ∧ (PktHdr.make 1 0 0xFF8 3 16 77 0).ok 1 = true)
    ∧ (let s := moving.modTenant 0 fun t => { t with placedSeq := [(3, 1, false)] }
      (s.tenant 0).placedSeq.find? (fun p => p.1 == 3 && p.2.1 == 1) = some (3, 1, false))
    ∧ (([arrived 1 (.put 1) [piece 0] 0, arrived 1 (.put 1) [piece 0, piece 1] 0, arrived 2 .get [piece 0] 0, arrived 2 .get [piece 0, piece 1] 0,
          arrived 4 (.atomic .add .b8 1 0) [piece 0] 0].all fun z =>
        (working z).arrivals.find? (·.id == 9) == some z && z.left.find? (·.1 == 0) == some (piece 0) && !z.h.pois && !z.h.tc && !z.uncounted) = true
      ∧ (piece 0).2.1 = (List.range 8).map (fun i => Loc.mem (0x40000 + i))
      ∧ anyPoisoned moving (piece 0).2.1 = false ∧ (working (arrived 1 (.put 1) [piece 0] 0)).cmd? 9 = none)
    ∧ (let s := { working (arrived 4 (.atomic .add .b8 1 0) [piece 0] 0) with poisonBase := 0x90000 }.setBitmap 0x90000 0x40 true
      anyPoisoned s (piece 0).2.1 = true)
    ∧ (let z := arrived 1 (.put 1) [] 0xC000000000000200
      z.uncounted = true ∧ z.h.counter ≠ 0 ∧ (bits z.h.counter 44 40, bits z.h.counter 39 0) = (0, 0x200)
        ∧ inbound (working z) 0 0 0x200 16 none = .ok ((List.range 16).map fun i => (Loc.mem (0x40200 + i), false))) :=
  ⟨⟨State.quiet_of (by decide), by decide⟩, by decide⟩
theorem witness_FabricTarget_open (z : Arrival) : (working z).Quiet ∧ (working z).Open ∧ ∀ i, ((working z).dirAt i).owner = none :=
  ⟨State.quiet_of (s := working z) (show moving.quietB = true by decide),
    State.open_of (s := working z) (show moving.packets = [] ∧ moving.flips = [] ∧ moving.cxl = false ∧ moving.resHolder = none ∧ moving.homeSteps = [] by decide),
    State.dir_of (s := working z) (show moving.dir = [] by decide)⟩
/-- A put, a get and an atomic to rank 1, whose packet is part 0 of command 7 and awaits its answer. -/
def sentCmd (op : CmdOp) : Cmd :=
  { id := 7, op := op, wave := 32, wg := 1, launch := 1, mask := 1, c := if op = .getr then 0x20000 else 0xC000200000000000,
    a := if op = .getr then 0xC000200000000000 else 0x20000, b := if op = .atomr then [0x30, 0, 0, 0, 0, 0, 0x20100, 0] else [16, 0, 0, 0, 0, 0, 0, 0],
    forked := true, left := [0], waiting := [0] }
def pkt (cmd : Nat) : Packet :=
  { h := PktHdr.make 1 0 0 0 16 77 0, data := [], rank := 1, fabric := 4, pset := 0, cmd := cmd, wave := 32, lane := 63, seq := 1, path := 63 }
def group (cmd : Nat) : PathGroup := { unacked := [pkt cmd], timeouts := [(63, 2)] }
/-- A job of two ranks, a path set with the paths 0 and 63, and the packet on its way. -/
def sending (s : State) (cmd : Nat) : State :=
  let m := Tab.store (moving.tenant 0).tables 0x2000 (bytes64 0x4000000002000000 ++ bytes64 1 ++ bytes64 0 ++ bytes64 0x3000)
  let m := Tab.store m 0x3000 (bytes64 0x2000000 ++ bytes64 4 ++ bytes64 0x4000)
  let m := Tab.store m 0x5000 (bytes64 0x8000000000000001 ++ bytes64 0x0000010000000000)
  s.modTenant 0 fun t =>
    { t with cur := { t.cur with jobSize := 2, rankBase := 0x3000, rankCount := 1, psetBase := 0x5000, psetCount := 1 }, tables := m, groups := [group cmd] }
def commanding (op : CmdOp) : State := { sending moving 7 with cmds := [sentCmd op] }
def answered (op : CmdOp) : State := ((commanding op).ackPacket 0 77 1 .none).1
def reply (op len : Nat) : PktHdr := PktHdr.make op 0 0 0 len 77 0
def remoteRun : List FarTarget := (List.range 16).map fun i => .remote 1 0 i 4 0
theorem witness_FabricInitiator_commands : (([CmdOp.putr, .getr, .atomr].all fun op => (commanding op).quietB && (commanding op).cmd? 7 == some (sentCmd op)
        && (commanding op).inFlight 0 77 1 == some (0, pkt 7) && ((commanding op).tenant 0).groups[0]? == some (group 7) && !(commanding op).frozen
        && (sentCmd op).waiting == [0] && (sentCmd op).left == [0] && (sentCmd op).comp == .none && (sentCmd op).buf == [] && (sentCmd op).forked
        && (sentCmd op).owed == 0) = true
      ∧ ((reply 6 16).ok 6 && (reply 3 16).ok 3 && (reply 5 8).ok 5) = true ∧ (reply 6 16).otag = 77 ∧ (reply 6 16).err = false ∧ (reply 6 16).pois = false
      ∧ ((reply 6 16).answer 6 true false).err = true ∧ (reply 6 16).src = ((commanding .putr).tenant 0).cur.jobRank.toNat ∧ (pkt 7).h.otag = 77)
    ∧ (let data : List Byte := List.replicate 16 7
      let c' : Cmd := { sentCmd .getr with waiting := [], buf := [(0, data, false)] }
      let v := (answered .getr).modCmd 7 fun x => { x with waiting := x.waiting.erase 0, buf := x.keep 0 data false }
      c'.part 0 = (0, 0, 16) ∧ v.pausedAt c' 0 = false ∧ v.engTargets c' 0xC000200000000000 16 (c'.srcPlace.scope 0xC000200000000000) .read = .ok remoteRun
        ∧ (c'.srcRow 0 = 0xC000200000000000 ∧ c'.dstRow 0 = 0x20000) ∧ v.engTargets c' 0x20000 16 (c'.dstPlace.scope 0x20000) .write = .ok (runAt 0x40000)
        ∧ v.chipReady c' true 0x20000 (runAt 0x40000) = .ok ())
    ∧ ((sentCmd .atomr).w64 6 ≠ 0 ∧ (sentCmd .atomr).rowb = 8 ∧ (reply 5 8).len = 8
      ∧ ({ sentCmd .atomr with b := [0x30, 0, 0, 0, 0, 0, 0, 0] } : Cmd).w64 6 = 0
      ∧ ((answered .atomr).send (.response 0 1 1 ((reply 5 8).answer 6 false false) [])).engLocs (sentCmd .atomr) 0x20100 8 .write =
          .ok ((List.range 8).map fun i => .mem (0x40100 + i))) := by decide
theorem witness_FabricInitiator_lane : let f : FarLane := { lane63 (.remote 1 0 0 4 0) (.load .b16 false) with tag := 77 }
    let s := sending (waiting f) 0
    s.OneLane 32 f ∧ (reply 3 16).ok 3 = true ∧ f.tag = (pkt 0).h.otag ∧ s.inFlight 0 77 1 = some (0, pkt 0) ∧ (pkt 0).cmd = 0 ∧ s.frozen = false :=
  ⟨⟨by decide, by decide, by decide, by decide, by decide, by decide, by decide, by decide, by decide, by decide, by decide⟩, by decide⟩
/-- The round-trip time is free (log entry 46); its timeout lies between 8 and 512 microseconds whatever it is (R127). -/
theorem witness_FabricInitiator_timers : let s := commanding .putr
    let late : State := { s with time := 1000 * microsecond }
    ((s.tenant 0).groups[0]? = some (group 7) ∧ (group 7).unacked.find? (·.seq == 1) = some (pkt 7) ∧ s.frozen = false ∧ (group 7).failed = false
      ∧ (pkt 7).path < 64 ∧ late.paths 0 (pkt 7) = 0x8000000000000001
      ∧ (∃ e, e < 64 ∧ e ≠ (pkt 7).path ∧ (late.paths 0 (pkt 7)).getLsbD e = true ∧ (group 7).failedPaths.getLsbD e = false)
      ∧ 2 ≤ Tab.get 0 (group 7).timeouts (pkt 7).path)
    ∧ (pkt 7).sentAt + (group 7).rto ≤ late.time ∧ s.time < (pkt 7).sentAt + (group 7).rto
    ∧ (s.time < Tab.get 0 (group 7).failedAt 63 + 1000 * microsecond ∧ Tab.get 0 (group 7).failedAt 63 + 1000 * microsecond ≤ late.time)
    ∧ ({ s with time := 3000 * microsecond } : State).stuck 0 (group 7) = true ∧ s.stuck 0 (group 7) = false := by
  refine ⟨⟨by decide, by decide, by decide, by decide, by decide, by decide, ⟨0, by decide⟩, by decide⟩, ?_, ?_, by decide, by decide, by decide⟩
  · show 0 + max (8 * microsecond) (min (512 * microsecond) _) ≤ 1000 * microsecond
    simp only [microsecond]; omega
  · show 0 < 0 + max (8 * microsecond) (min (512 * microsecond) _)
    simp only [microsecond]; omega

/-! ### Sealed links -/

def keyed (f : Link → Link) : State :=
  paged.modLink 3 fun _ => f { tx0 := { loaded := true, active := true, ctr := 5 }, rx0 := { loaded := true, active := true, ctr := 5 }, rx1 := { loaded := true } }
/-- A flit of a kind with counter 5 in slot 0, its payload's first byte given. -/
def flit (kind : Nat) (b : Byte) : Flit := { header := flitHeader false kind 0 5, payload := b :: List.replicate 231 0, tag := 0, authentic := true }
theorem witness_LinkSecurity : ((paged.link 3).tx0.active = false ∧ (paged.link 3).tx1.active = false ∧ (paged.link 3).unsent = [])
    ∧ (let x := (keyed fun x => { x with tx0 := { x.tx0 with ctr := 0xFFF00000 }, tx1 := { loaded := true } }).link 3
      (x.tx x.txSlot).active = true ∧ x.down = false ∧ 0xFFF00000 ≤ (x.tx x.txSlot).ctr ∧ (x.tx x.txSlot).ctr < 0xFFFFFFFF
        ∧ (x.tx !x.txSlot).loaded = true ∧ (x.tx !x.txSlot).active = false)
    ∧ ((keyed id).link 3).tx0.ctr < 0xFFF00000
    ∧ (let x := (keyed fun x => { x with tx0 := { x.tx0 with ctr := 0xFFFFFFFF } }).link 3
      (x.tx x.txSlot).active = true ∧ x.down = false ∧ 0xFFFFFFFF ≤ (x.tx x.txSlot).ctr ∧ (x.tx !x.txSlot).loaded = false)
    ∧ (let x := (keyed id).link 3
      x.down = false ∧ (flit 0 9).authentic = true ∧ (flit 0 9).slot = false ∧ (x.rx false).loaded = true ∧ (x.rx false).active = true
        ∧ (x.rx false).ctr ≤ (flit 0 9).ctr ∧ x.rxNew ≠ some false
        ∧ ((flit 0 9).kind = 0 ∧ (flit 0 9).seq = x.expect ∧ x.heldPay = []) ∧ ((flit 1 1).kind = 1 ∧ (flit 1 1).newSlot ≠ (flit 1 1).slot ∧ (x.rx true).loaded = true)
        ∧ (flit 2 0).kind = 2 ∧ (flit 3 0).kind = 3 ∧ (flit 3 0).nak = false)
    ∧ (let f : Flit := { flit 0 9 with header := flitHeader true 0 0 5 }
      let x := (keyed id).link 3
      f.slot = true ∧ f.kind ≤ 3 ∧ (x.rx f.slot).loaded = true ∧ (x.rx f.slot).active = false ∧ (x.rx f.slot).ctr ≤ f.ctr)
    ∧ (let x := (keyed fun x => { x with unacked := [(0, [9])] }).link 3
      (flit 3 1).nak = true ∧ x.unacked.find? (fun q => q.1 == (flit 3 1).seq) = some (0, [9]) ∧ (x.tx x.txSlot).active = true ∧ (x.tx x.txSlot).ctr < 0xFFF00000
        ∧ x.txStopped = false)
    ∧ (let x := (keyed fun x => { x with unacked := [(0, [9])], tx0 := {} }).link 3
      (x.tx x.txSlot).active = false ∧ x.unsent = [])
    ∧ (({ flit 0 9 with authentic := false } : Flit).authentic = false ∧ 3 < (flit 4 0).kind
      ∧ ({ flit 0 9 with header := flitHeader false 0 0 4 } : Flit).ctr < (((keyed id).link 3).rx false).ctr
      ∧ ((keyed id).link 3).bad < 15 ∧ 15 ≤ ((keyed fun x => { x with bad := 15 }).link 3).bad)
    ∧ ((keyed id).link 3).replays < 15 ∧ 15 ≤ ((keyed fun x => { x with replays := 15 }).link 3).replays := by decide

/-! ### The host -/

/-- The device in CXL mode with the identity that reset leaves for device memory; the host holding a line; a back-invalidation under way. -/
def hosted : State := { paged with cxl := true }
/-- A flip of page 64 whose steps are done, and one that a command still holds up. -/
def flipping (toHost asked : Bool) : State := { hosted with flips := [{ page := 64, toHost := toHost, wave := 32, asked := asked, left := 0 }] }
theorem witness_HostAccesses : (hosted.Quiet ∧ hosted.cxl = true ∧ 0 < 64 ∧ hosted.hdmBase ≤ 0x40000
      ∧ hosted.identities.any (identityCovers 0 (0x40000 - hosted.hdmBase) 64) = true ∧ 0x40000 - hosted.hdmBase + 64 ≤ 2560000000000
      ∧ hosted.Open ∧ hosted.hostQueue = [] ∧ (∀ i, (hosted.dirAt i).owner = none) ∧ (∀ i, i < 64 → hosted.poisoned (0x40000 + i) = false)
      ∧ ∀ k, (hosted.tenant k).reverse = none)
    ∧ (hosted.identities.any (identityCovers 1 0x40000 64) = false ∧ paged.cxl = false)
    ∧ (let s := { hosted with invWaits := [(4096, true, false)] }
      s.Quiet ∧ s.invWaits.filter (·.1 == 4096) = [(4096, true, false)] ∧ ∀ i, i < 64 → s.poisoned (64 * 4096 + i) = false)
    ∧ (let s := { flipping false true with invWaits := [(4096, true, true)] }
      s.Quiet ∧ s.invWaits.filter (·.1 == 4096) = [(4096, true, true)] ∧ ∀ f ∈ s.flips, f.asked = true ∧ f.page = 4096 / 64)
    ∧ ({ biased true with invWaits := [(4096, false, false)] } : State).hostBias (64 * 4096) = true
    ∧ hosted.hostLine? 0x1000 = none
    ∧ (let s := { hosted with hostLines := [{ addr := 0x1000, data := List.replicate 64 1, dirty := true }] }
      s.Quiet ∧ s.hostLine? 0x103F = some { addr := 0x1000, data := List.replicate 64 1, dirty := true })
    ∧ ([(true, false), (false, false), (false, true)].all fun x =>
        let s := flipping x.1 x.2
        s.quietB && s.flips.find? (·.page == 64) == some { page := 64, toHost := x.1, wave := 32, asked := x.2, left := 0 } && s.packets == [] && s.cmds == []
          && s.homeSteps == []) = true
    ∧ (let s := { flipping true false with cmds := [copying], flips := [{ page := 64, toHost := true, wave := 32, movers := [7], left := 0 }] }
      s.quietB = true ∧ s.cmds.any (fun c => [7].contains c.id && c.left.any fun k => s.partOnPage c k 64) = true) := by
  refine ⟨⟨State.quiet_of (by decide), by decide, by decide, by decide, by decide, by decide, State.open_of_empty (by decide), by decide, State.dir_of rfl, fun i _ => ?_,
    State.reverse_of (by decide)⟩, by decide, ⟨State.quiet_of (by decide), by decide, fun i _ => ?_⟩, ⟨State.quiet_of (by decide), by decide⟩, by decide, by decide,
    ⟨State.quiet_of (by decide), by decide⟩, by decide, by decide⟩ <;>
  simp only [State.poisoned, bitmapBit, show hosted.mem = [] from rfl, Tab.get_nil] <;> simp

/-! ### Launch queues -/

/-- A queue with a valid record of one thread at its head, whose completion block lies in the page of the walkable table. -/
def record : List W64 := [0x0200000000000000, 0, 0x100100000, 0, 0x21040, 0, 0, 0]
def queue (f : LQueue → LQueue) : State :=
  walkable.modTenant 0 fun t => { t with queues := t.queues.set 15 (f { en := true, recs := [record], stamps := [0] }) }
/-- Its records changed. -/
def queueOf (r : List W64) (f : LQueue → LQueue) : State := queue fun x => f { x with recs := [r] }
theorem witness_LaunchQueues : ((queue id).Quiet ∧ 15 < ((queue id).tenant 0).queues.length)
    ∧ (record.length = 8 ∧ (((queue id).tenant 0).queues.getD 15 {}).en = true ∧ (((queue id).tenant 0).queues.getD 15 {}).recs.length < 64)
    ∧ ((queue fun x => { x with recs := List.replicate 64 record }).Quiet
      ∧ 64 ≤ (((queue fun x => { x with recs := List.replicate 64 record }).tenant 0).queues.getD 15 {}).recs.length)
    ∧ (([] : List W64).length ≠ 8 ∧ (((queue fun x => { x with en := false }).tenant 0).queues.getD 15 {}).en = false ∧ (8 : Nat) ≠ 0)
    ∧ (({ queue id with launchTags := [(3, .mem 0x41000)] } : State).Quiet
      ∧ [((3 : Nat), Loc.mem 0x41000)].find? (·.1 == 3) = some (3, .mem 0x41000) ∧ 255 < 256
      ∧ (queue id).homeWait (.mem 0x41000) = none ∧ (queue id).homeSteps = [])
    ∧ ((((queue id).tenant 0).queues.getD 15 {}).recs = record :: [] ∧ (((queue id).tenant 0).queues.getD 15 {}).validated = false
      ∧ (queue id).doneBlock 0 (recDone record) = some 0x41040 ∧ (queue id).rejection 0 record = none)
    ∧ ((queueOf (List.replicate 8 0) id).doneBlock 0 (recDone (List.replicate 8 0)) = none ∧ ((queue id).tenant 0).lastReject.getLsbD 63 = false ∧ 15 < 16)
    ∧ ((queueOf (record.set 2 0) id).doneBlock 0 (recDone (record.set 2 0)) = some 0x41040
      ∧ (queueOf (record.set 2 0) id).rejection 0 (record.set 2 0) = some 1
      ∧ (queueOf (record.set 2 0) id).homeWait (.mem 0x41040) = none ∧ (queueOf (record.set 2 0) id).homeSteps = [])
    ∧ (let s := queue fun x => { x with validated := true }
      s.Quiet ∧ ((s.tenant 0).queues.getD 15 {}).validated = true ∧ (s.tenant 0).stopAdmit = false ∧ s.depsMet 0 record = true
        ∧ s.active + s.headsBefore 0 (0, 0) false < 256 ∧ s.activeOf 0 + s.headsBefore 0 (0, 0) true < 64) := by
  refine ⟨⟨State.quiet_of (by decide), by decide⟩, by decide, ⟨State.quiet_of (by decide), by decide⟩, by decide, ⟨State.quiet_of (by decide), by decide⟩,
    by decide, by decide, by decide, State.quiet_of (by decide), by decide⟩

/-! ### Workgroups and launches -/

/-- The wave waiting at a barrier, with a save slot free; the workgroup changed; a launch with a grid still to place; one with nothing left. -/
def blocked : State := State.with base (fun w => { w with wait := { kind := .bwait } }) id fun t => { t with cur := { t.cur with saveSlots := 1 } }
def lived (f : Wg → Wg) : State := State.with base id f id
def gridded : State := base.modLaunch 1 fun x => { x with record := record }
def ending : State := { walkable.modLaunch 1 fun x => { x with record := record, nextWg := 1 } with wgs := [], waves := [] }
/-- A ready workgroup whose banks another of the launch, which waits, holds on the only core. -/
def crowded : State :=
  let s := lived fun x => { x with saved := true, ready := true, accCount := 128 }
  let s := s.setWg 2 { s.wg 1 with saved := false, ready := false, regUnits := [15], stashUnits := [30] }
  let s := s.setWave 64 { s.wave 32 with wg := 2, wait := { kind := .bwait } }
  s.modTenant 0 fun t => { t with cur := { t.cur with saveSlots := 4 }, slotsUsed := [0] }
theorem witness_WorkgroupLives : (let s := { staged with waves := [] }
      s.waves = [] ∧ (s.launch 1).live = true ∧ 1 < (s.launch 1).stages.length)
    ∧ (blocked.evictable 1 = true ∧ blocked.freeSlots 0 1 = some [0] ∧ (blocked.wg 1).pair = false) ∧ base.evictable 1 = false
    ∧ ((lived fun x => { x with saving := true }).wg 1).saving = true
    ∧ (let s := lived fun x => { x with saved := true, ready := true }
      (s.wg 1).live = true ∧ (s.wg 1).saved = true ∧ (s.wg 1).ready = true ∧ (s.wg 1).pair = false ∧ 0 < (s.wg 1).nwaves ∧ 3 < (s.wg 1).alloc
        ∧ ((List.range 256).findSome? fun c => (s.placeable 0 c (s.wg 1).need []).map fun f => (c, f)).isSome = true
        ∧ s.halves.contains 0 = false ∧ ({ s with halves := [0] } : State).halves.contains 0 = true)
    ∧ ((crowded.wg 1).live = true ∧ (crowded.wg 1).saved = true ∧ (crowded.wg 1).ready = true ∧ (crowded.wg 1).pair = false ∧ (crowded.wg 1).launch = 1
      ∧ ((List.range 256).findSome? fun c => (crowded.placeable 0 c (crowded.wg 1).need []).map fun f => (c, f)) = none
      ∧ crowded.evictSet 0 (crowded.launch 1).prio (crowded.wg 1).need (List.range 256) = some [2])
    ∧ (gridded.Quiet ∧ (gridded.launch 1).live = true ∧ (gridded.launch 1).aborted = false ∧ (gridded.launch 1).stopped = false
      ∧ (gridded.tenant 0).stopAdmit = false ∧ (gridded.launch 1).stages = []
      ∧ ((gridded.gridShape 1).any fun y => ((searchOrder none y.pair).findSome? fun c => (gridded.placeable 0 c y.need []).map fun f => (c, f)).isSome) = true)
    ∧ (let s := lived fun x => { x with restoring := true }
      s.Quiet ∧ (s.wg 1).restoring = true ∧ (s.wg 1).unwindDue = none)
    ∧ (let s := State.with base (fun w => w.modLane 0 fun x => { x with exited := true }) id id
      s.Quiet ∧ (s.wg 1).live = true ∧ (s.wg 1).saving = false ∧ (s.wg 1).restoring = false ∧ s.cmds = []
        ∧ ∀ k ∈ s.wgWaves 1, (s.wave k).lanes.all (·.exited) = true ∧ (s.wave k).handler = false ∧ (s.wave k).com = none)
    ∧ (ending.Quiet ∧ (ending.launch 1).live = true ∧ ending.launchOver 1 = true ∧ ending.doneAt 1 = some 0x41040
      ∧ ending.homeWait (.mem 0x41040) = none ∧ ending.homeSteps = []
      ∧ (ending.tenant 0).traceCtl.getLsbD 8 = false)
    ∧ base.Quiet ∧ base.launchOver 1 = false := by
  refine ⟨by decide, by decide, by decide, by decide, by decide, by decide, ⟨State.quiet_of (by decide), by decide⟩,
    ⟨State.quiet_of (by decide), by decide⟩, ⟨State.quiet_of (by decide), by decide⟩, ⟨State.quiet_of (by decide), by decide⟩,
    State.quiet_of (by decide), by decide⟩

/-! ### Accounts, contexts, the assignment of cores -/

/-- Tenant 0 with accounting on and a table at 0x100000, the core with a charge of one slot. -/
def charged (f : Tenant → Tenant) : State :=
  (State.with base id id fun t => f { t with acctBase := 0x100000, acctBits := 8 }).modCore 0 fun c =>
    { c with charges := [{ tenant := 0, cause := .commit, pc := slotPc, cut := 0 }] }
theorem witness_AccountsAndContexts : ((base.tenant 0).flushes.length < 2 ∧ 2 ≤ ((charged fun t => { t with flushes := [(1, 0), (2, 0)] }).tenant 0).flushes.length)
    ∧ (let s := charged fun t => { t with flushes := [(1, 0)] }
      (s.tenant 0).flushes = (1, 0) :: [] ∧ (s.tenant 0).acctOn = true ∧ ∀ p ∈ s.waves, p.2.run.slots = [] ∧ p.2.com = none)
    ∧ (let s := charged id
      (∃ y, (s.core 0).charges = [y] ∧ (s.tenant y.tenant).flushes = [] ∧ (s.tenant y.tenant).acctOn = true))
    ∧ ((State.with base id id fun t => { t with reload := true }).tenant 0).reload = true
    ∧ (let s := { State.with base id (fun g => { g with live := false }) fun t => { t with reload := true } with waves := [] }
      (s.tenant 0).reload = true ∧ ∀ p ∈ s.wgs, p.2.tenant = 0 → p.2.live = false)
    ∧ (base.tenant 0).reload = false
    ∧ (base.recovery = false ∧ (base.core 0).out = false ∧ (base.core 0).assigned = true ∧ (base.core 0).assigned ≠ (0#64).getLsbD 7 ∧ (0x80#64).getLsbD 7 = true
      ∧ (base.core 0).tenant = bits (0x80#64) 4 0)
    ∧ (let s := base.modCore 0 fun c => { c with pending := some (true, 3) }
      (s.core 0).pending = some (true, 3) ∧ s.residents 0 ≠ [] ∧ ({ s with wgs := [] } : State).residents 0 = []) := by
  refine ⟨by decide, by decide, ⟨_, rfl, by decide⟩, by decide, by decide, by decide, by decide, by decide⟩

/-! ### Windows and registers -/

def windowed (f : Tenant → Tenant) : State := State.with base id id f
theorem witness_WindowsAndRegisters : 0 < (base.tenant 0).windows.length
    ∧ (base.Quiet ∧ 63 < (base.tenant 0).extents.length)
    ∧ ((∀ w ∈ (base.tenant 0).extents, w.length = 4) ∧ (1#64).getLsbD 0 = true ∧ (base.tenant 0).extRelease.getLsbD 0 = false)
    ∧ (let s := windowed fun t => { t with extRelease := 1 }
      (s.tenant 0).extRelease.getLsbD 0 = true ∧ s.Quiet ∧ s.extentBusy 0 ((s.tenant 0).extents.getD 0 []) = false)
    ∧ (let f := lane63 (.pool 0 0 4) (.red .add .b4 1)
      let s := State.with base (fun w => { w with posted := [f] }) id fun t => { t with extRelease := 1, extents := t.extents.set 0 [0xC000000000000000, 0x200000, 0, 0] }
      s.Quiet ∧ (s.tenant 0).extRelease.getLsbD 0 = true ∧ s.extentBusy 0 ((s.tenant 0).extents.getD 0 []) = true)
    ∧ ((base.tenant 0).extents.length = 64 ∧ ((base.tenant 0).extents.getD 63 []).length = 4)
    ∧ (4 : Nat) % 8 ≠ 0 ∧ base.recovery = false ∧ 31 < 32 := by
  refine ⟨by decide, ⟨State.quiet_of (by decide), by decide⟩, by decide, ⟨by decide, State.quiet_of (by decide), by decide⟩,
    ⟨State.quiet_of (by decide), by decide, by decide⟩, by decide, by decide⟩

/-! ### Errors, spares, power -/

/-- An audited workgroup whose replay has ended with some signature. -/
def audited (f : Wg → Wg) : State := { State.with walkable id (fun g => f { g with audited := true }) id with launches := doneRecord.launches }
theorem witness_ErrorsAndPower : (base.Quiet ∧ bits base.errN 4 0 < 6)
    ∧ (clearPage (64#64) = some 64 ∧ base.clears.length < 256)
    ∧ (let s := { base with clears := [64], cxl := false }
      s.Quiet ∧ s.clears = [64] ∧ s.Open ∧ ∀ i, (s.dirAt i).owner = none)
    ∧ (base.wave 32).com = none ∧ base.residents 0 ≠ [] ∧ base.residents 1 = []
    ∧ (let s := { base with cycle := 65536 }
      0 < Tab.get 0 (s.core 0).banks 47 ∧ Tab.get 0 (s.core 0).banks 47 + 4095 ≤ s.cycle ∧ Tab.get 0 (s.core 0).banks 48 = 0
        ∧ base.cycle < Tab.get 0 (base.core 0).banks 0 + 4095
        ∧ s.residents 1 = [] ∧ (s.core 1).storeOff = false ∧ (s.core 1).storeUsed + 65536 ≤ s.cycle ∧ base.cycle < (base.core 1).storeUsed + 65536)
    ∧ (let s := { base with quarantine := [(2, 0, 3, true)] }
      s.Quiet ∧ (s.quarantine.find? fun q => q.1 == 2 && q.2.1 == 0 && q.2.2.1 == 3) = some (2, 0, 3, true))
    ∧ (let s := (audited id).modCore 200 fun c => { c with assigned := true }
      s.Quiet ∧ (s.wg 1).audited = true ∧ (s.wg 1).replaySig = none ∧ 200 < 256 ∧ 200 / 128 ≠ (s.wg 1).core / 128 ∧ s.takes (s.wg 1).tenant 200 = true)
    ∧ (let s := audited fun g => { g with replaySig := some (1, 200, false) }
      s.Quiet ∧ (s.wg 1).replaySig = some (1, 200, false) ∧ 1 ≠ (s.wg 1).sig ∧ s.doneAt 1 = some 0x41040 ∧ s.homeWait (.mem 0x41040) = none ∧
        s.homeSteps = [] ∧ (s.ld64 (0x41040 + 16)).getLsbD 63 = false)
    ∧ (let s := audited fun g => { g with replaySig := some (0, 200, false) }
      (s.wg 1).replaySig = some (0, 200, false) ∧ 0 = (s.wg 1).sig)
    ∧ (bits base.powerCap 15 0 < 3000 ∧ 0 ≤ bits base.powerCap 15 0 ∧ 10 * 0 < 9 * bits base.powerCap 15 0)
    ∧ (let s := { base with clockLock := some (0, 2) }
      s.Quiet ∧ s.clockLock = some (0, 2))
    ∧ (let s := { base with calmWindows := 99, point := 4, softPoint := 0 }
      s.Quiet ∧ s.clockLock = none ∧ 99 ≤ s.calmWindows ∧ powerOrder.idxOf s.softPoint < powerOrder.idxOf s.point ∧ s.point < 6) := by
  refine ⟨⟨State.quiet_of (by decide), by decide⟩, by decide, ⟨State.quiet_of (by decide), by decide, State.open_of (by decide), State.dir_of rfl⟩,
    by decide, by decide, by decide, by decide, ⟨State.quiet_of (by decide), by decide⟩, ⟨State.quiet_of (by decide), by decide⟩,
    ⟨State.quiet_of (by decide), by decide⟩, by decide, by decide, ⟨State.quiet_of (by decide), by decide⟩, State.quiet_of (by decide), by decide⟩

/-! ### The log and the trace -/

def alone (s : State) : State := { s with waves := [], wgs := [], launches := [] }
/-- A core of tenant 0 with a charge at port 0, samples enabled in a ring of 2^16 records. -/
def sampling : State :=
  (State.with base id id fun t => { t with traceCtl := 0x2000110, traceBase := 0x100000 }).modCore 0 fun c => { c with port0 := (some (32, 0), .issue, slotPc) }
theorem witness_LogAndTrace : ((base.tenant 0).logging = false ∧ 16 ≤ bits (16#64) 4 0 ∧ bits (16#64) 4 0 ≤ 30 ∧ bits (16#64) 62 61 ≠ 3 ∧ bits (15#64) 4 0 < 16)
    ∧ (let s := alone (logging base)
      s.waves = [] ∧ (s.tenant 0).logging = true ∧ (s.tenant 0).revTarget = none ∧ bits (s.tenant 0).logCtl 62 61 ≠ 3)
    ∧ (let s := alone (State.with (logging base) id id fun t => { t with windowWanted := true })
      s.waves = [] ∧ s.wgs = [] ∧ s.launches = [] ∧ s.cmds = [] ∧ (s.tenant 0).logging = true ∧ (s.tenant 0).windowWanted = true ∧ (s.tenant 0).reverse = none
        ∧ (s.tenant 0).revTarget = none ∧ (s.tenant 0).progcnt.length = 16
        ∧ (s.tenant 0).logTail - (s.tenant 0).logHead + 8 ≤ 2 ^ bits (s.tenant 0).logCtl 4 0 ∧ (s.tenant 0).traceCtl.getLsbD 8 = false)
    ∧ (let s := alone (logging base)
      (s.tenant 0).intWait = [] ∧ ((s.tenant 0).markers.find? fun m => m.1 % 2 ^ 16 == (0#64).toNat) = some (0, 1)
        ∧ ((s.tenant 0).markers.find? fun m => m.1 % 2 ^ 16 == (5#64).toNat) = none)
    ∧ (base.dbgBusy 0 = false ∧ (logging base).dbgBusy 0 = false ∧ ((logging base).tenant 0).logging = true)
    ∧ ((sampling.core 0).assigned = true ∧ (sampling.core 0).tenant = 0 ∧ (sampling.core 0).port0 = (some (32, 0), .issue, slotPc)
      ∧ Cause.issue ≠ .idle ∧ Cause.issue ≠ .empty ∧ (sampling.tenant 0).traceCtl.getLsbD 8 = true ∧ (sampling.tenant 0).traceCtl.getLsbD 25 = true
      ∧ (sampling.tenant 0).reverse = none ∧ (sampling.tenant 0).traceLost = 0
      ∧ (sampling.tenant 0).traceTail - (sampling.tenant 0).traceHead < 2 ^ bits (sampling.tenant 0).traceCtl 4 0 ∧ (sampling.wave 32).idx < 32)
    ∧ (base.core 1).assigned = false := by decide

/-! ### The debugger -/

def allLanes : List Lane → List Lane := fun ls => ls.map fun x => { x with halted := true }
/-- The selector of the wave, of all the tenant's lanes. -/
def waveSel : LaneSel := { lo := 0x0000000100000000, hi := 0x6000000000000000 }
def selecting (x : LaneSel) (halt : Bool) (f : Tenant → Tenant) : State :=
  State.with base (fun w => if halt then { w with lanes := allLanes w.lanes } else w) id fun t => f { t with lsel := x }
/-- A log of a window marker and one undo entry of four bytes at 0x40000; the tenant frozen. -/
def reversing (f : Tenant → Tenant) : State :=
  let s := selecting waveSel true fun _ => f { (logging base).tenant 0 with lsel := waveSel, logTail := 2, frozen := true, dbgArg := 1 }
  (((s.st64 0x100000 (1#64 <<< 58 ||| 1)).st64 0x100020 (4#64 <<< 58 ||| 2#64 <<< 55 ||| 0x40000)).st64 0x100028 7)
def keptChunk : Chunk := { Chunk.fresh (base.wave 32).lanes 4096 with issues := [{ pc := slotPc, mask := 1 }] }
def kept : Past := { (reversing id).capture 0 with at_ := 1, wave := some 32, waves := [(32, { base.wave 32 with com := some keptChunk })] }
theorem witness_Debugging : (let s := State.with base (fun w => { w with lanes := allLanes w.lanes }) id fun t => { t with haltSel := some {} }
      (s.tenant 0).haltSel = some {} ∧ s.haltDone 0 {} = true)
    ∧ (let s := windowed fun t => { t with trialCtl := 0x100 }
      s.trialOn 0 = true ∧ (s.tenant 0).trialEnd ≤ s.cycle)
    ∧ base.cycle < ((windowed fun t => { t with trialEnd := 1024 }).tenant 0).trialEnd
    ∧ (let s := selecting waveSel true id
      s.selWave 0 = some 32 ∧ 1 < (s.wave 32).lanes.length ∧ 3 < (s.wg (s.wave 32).wg).alloc ∧ ((s.wave 32).lane 0).halted = true ∧ ((s.wave 32).lane 1).halted = true)
    ∧ (let s := selecting waveSel false id
      s.dbgBusy 0 = false ∧ s.Quiet ∧ Tab.wf ({} : Wave) s.waves = true ∧ s.selects 0 waveSel = true ∧ (s.tenant 0).lsel = waveSel ∧ waveSel.level ≤ 4
        ∧ 32 ∈ s.tenantWaves 0 ∧ s.covers waveSel 32 0 = true ∧ 0 < (s.wave 32).lanes.length ∧ 0 < (s.wave 32).run.start.length
        ∧ (s.wg 1).saved = false ∧ (s.wg 1).saving = false ∧ (s.wave 32).handler = false ∧ (s.tenant 0).revTarget = none)
    ∧ (let s := selecting waveSel true fun t => { t with dbgArg := 1 }
      s.selWave 0 = some 32 ∧ (s.wg 1).saved = false ∧ ((s.wave 32).lanes.all fun l => l.exited || l.halted) = true
        ∧ ((s.wave 32).lanes.all fun l => l.exited && !l.halted) = false ∧ bits (s.tenant 0).dbgArg 12 0 = 1)
    ∧ (let s := reversing id
      (s.tenant 0).logging = true ∧ s.allHalted 0 = true ∧ (s.tenant 0).frozen = true ∧ s.packets = [] ∧ (s.tenant 0).revExtra = none ∧ s.newestSeal 0 = none
        ∧ (s.tenant 0).markers = [(0, 1)] ∧ (s.tenant 0).past = [] ∧ bits (s.tenant 0).dbgArg 31 0 = 1 ∧ (s.tenant 0).present = 2 + s.snapLen 0 0
        ∧ entryKind (s.logEntry 0 (1 + s.snapLen 0 0)) = 4 ∧ bits ((s.logEntry 0 (1 + s.snapLen 0 0)).getD 0 0) 54 53 = 0 ∧ (s.tenant 0).pasts = [])
    ∧ (let s := reversing fun t => { t with past := [kept], breaks := [{ w0 := 0x8000000000004000 }] }
      (s.tenant 0).logging = true ∧ s.allHalted 0 = true ∧ (s.tenant 0).frozen = true ∧ s.packets = [] ∧ (s.tenant 0).revExtra = none ∧ s.newestSeal 0 = none
        ∧ (s.tenant 0).pasts = kept :: [] ∧ s.coresKept 0 kept = true ∧ kept.packets = [] ∧ kept.isWave (s.tenant 0).lsel = true ∧ (s.tenant 0).lsel.level = 3
        ∧ s.matchIn 0 kept = some 0)
    ∧ (base.dbgBusy 0 = false ∧ (base.tenant 0).logging = false)
    ∧ (let s := windowed fun t => { t with trialCtl := 0x100000001 }
      bits (s.tenant 0).trialCtl 7 0 ≠ 0 ∧ bits (s.tenant 0).trialCtl 63 32 ≠ 0 ∧ s.trialOn 0 = false)
    ∧ (let s := { base with clkPermit := 1 }
      bits (s.tenant 0).dbgArg 3 0 ≤ 5 ∧ s.clkPermit.getLsbD 0 = true ∧ s.clockLock = none)
    ∧ ({ base with clockLock := some (0, 2) } : State).clockLock = some (0, 2)
    ∧ (paged.aperturePlaces 0 0 4 .read = none)
    ∧ (let s := State.with paged id id fun t => { t with memAddr := 0x20000 }
      s.Quiet ∧ s.Open ∧ s.hostQueue = [] ∧ (∀ i, (s.dirAt i).owner = none) ∧ (∀ i, (s.tenant i).reverse = none)
        ∧ s.aperturePlaces 0 0 4 .read = some ((List.range 4).map fun i => Loc.mem (0x40000 + i))
        ∧ s.aperturePlaces 0 0 4 .write = some ((List.range 4).map fun i => Loc.mem (0x40000 + i)) ∧ ∀ i, i < 4 → s.poisoned (0x40000 + i) = false) := by
  refine ⟨by decide, by decide, by decide, by decide, ⟨by decide, State.quiet_of (by decide), by decide⟩, by decide, by decide, by decide, by decide, by decide,
    by decide, by decide, by decide, State.quiet_of (by decide), State.open_of (by decide), by decide, State.dir_of rfl, State.reverse_of (by decide), by decide⟩

/-! ### Effects of single instructions and events

Expected values are the worked examples of spec/ where a comment names one, else computed by hand from the rule of the instruction. -/

/-- Register v of lane 0 after an instruction. -/
def gives (e : Instr) (s : State) (v : Nat) (x : W32) : Bool := after e s fun t => (t.wave 32).reg v 0 == x
def ints (a b : W32) : State := State.regs base [(4, a), (6, b), (5, 0xFFFFFFFF), (7, 0)]

theorem test_iadd_wraps : gives (.iadd true (.v 2) (.v 4) (.v 6) .w32) (ints 0xFFFFFFFF 2) 2 1 = true := by decide
theorem test_iadd_carries_into_pair : after (.iadd true (.v 2) (.v 4) (.v 6) .w64) (ints 0xFFFFFFFF 2) (fun t => (t.wave 32).reg 2 0 == 1 && (t.wave 32).reg 3 0 == 0) = true := by decide
theorem test_iadd_halves_apart : gives (.iadd true (.v 2) (.v 4) (.v 6) .h16) (ints 0x0001FFFF 0x00010001) 2 0x00020000 = true := by decide
theorem test_isub_source_is_destination : gives (.isub true (.v 4) (.v 4) (.v 6) .w32) (ints 1 2) 4 0xFFFFFFFF = true := by decide
theorem test_imulh_signed : gives (.imulhS true (.v 2) (.v 4) (.v 6) .w32) (ints 0xFFFFFFFF 2) 2 0xFFFFFFFF = true := by decide
theorem test_imulh_unsigned : gives (.imulhW true (.v 2) (.v 4) (.v 6) .w32) (ints 0xFFFFFFFF 2) 2 1 = true := by decide
theorem test_compare_signed : gives (.icmpltS true (.v 2) (.v 4) (.v 6) .w32) (ints 0xFFFFFFFF 2) 2 0xFFFFFFFF = true := by decide
theorem test_compare_unsigned : gives (.icmpltW true (.v 2) (.v 4) (.v 6) .w32) (ints 0xFFFFFFFF 2) 2 0 = true := by decide
theorem test_popc : gives (.popc true (.v 2) (.v 4) .w32) (ints 0xF0F00001 0) 2 9 = true := by decide
theorem test_zero_operand : gives (.iadd true (.v 2) .zero (.v 6) .w32) (ints 5 7) 2 7 = true := by decide

theorem test_fadd_ties_to_even : gives (.fadd true (.v 2) (.v 4) (.v 6) .f32) (ints 0x3F800000 0x33800000) 2 0x3F800000 = true := by decide
/-- R308: +∞ and −∞ beside a quiet NaN raise IV. -/
theorem test_dot_infinities : (dotRes .f16 .rne false (some 0) 0x7C00FC00 0x3C003C00 0x7FC00000).2 &&& flagIV ≠ 0
    ∧ (dotRes .f16 .rne false (some 0) 0x7C007C00 0x3C003C00 0x7FC00000).2 &&& flagIV = 0 := by decide
theorem test_fmul_inf_zero : gives (.fmul true (.v 2) (.v 4) (.v 6) .f32) (ints 0x7F800000 0) 2 0x7FC00000 = true := by decide
/-- Example of R238. -/
theorem test_stochastic : (stochastic .e2m1 false 0x3FA66666 0x6667).1 = 3 ∧ (stochastic .e2m1 false 0x3FA66666 0x6666).1 = 2 := by decide
/-- Example of R250: 1 + 2^2 (16 · 3 − 16 · 0.75) = 145. -/
theorem test_mma_group : mmaGroup (.num false 1 0) (.num false 1 2) false (List.replicate 32 (FFmt.e4m3.value 0x3C))
    ((List.range 32).map fun k => FFmt.e2m1.value (if k % 2 = 0 then 4 else 9)) 0x3F800000 = 0x43110000 := by decide

/-- Lanes 0 to 47 at one counter, 48 to 63 paused; v4 holds 100 + l (example of R312). -/
def lanes48 : State :=
  { State.with base (fun w => { w with lanes := (List.range 64).map (fun _ => { pc := slotPc, exited := false }),
                                       regs := (List.range 64).foldl (fun r l => Tab.put 0 r (256 + l) (BitVec.ofNat 32 (100 + l))) [] }) id id with
    cur := { wave := 32, pc := slotPc, mask := 0x0000FFFFFFFFFFFF } }
theorem test_shfldn : after (.shfldn true (.v 5) (.v 4) 8) lanes48 (fun t => let w := t.wave 32
    w.reg 5 39 == 147 && w.reg 5 40 == 140 && w.reg 5 47 == 147 && w.reg 5 48 == 0) = true := by decide
theorem test_wadd : after (.wadd true (.v 5) (.v 4) .b32) lanes48 (fun t => (t.wave 32).reg 5 0 == 5928 && (t.wave 32).reg 5 47 == 5928 && (t.wave 32).reg 5 48 == 0) = true := by decide

/-- Example of R289. -/
def calling : State :=
  { State.with (ints 1 0) (fun w => w.modLane 0 fun x => { x with pc := 0x100040 }) id id with cur := { wave := 32, pc := 0x100040, mask := 1 } }
theorem test_call : after (.call 0x30) calling (fun t => ((t.wave 32).lane 0).pc == 0x100100 && (t.wave 32).reg 118 0 == 0x100044) = true := by decide
theorem test_call_words : decode 0x02800030 = .ok (.call 0x30) ∧ decode 0x0600EC00 = .ok (.ret (.v 118)) ∧ decode 0x0403FFFB = .ok (.bnz (.v 3) 0xFFFB) := by decide
theorem test_atomic_words : decode 0x98841050 = .ok (.aadd (.v 4) (.v 8) .wg .b4 .none) ∧ decode 0xA2882923 = .ok (.acas (.v 8) (.v 20) .sys .b16 .acqrel) := by decide
theorem test_bnz_goes_back : after (.bnz (.v 4) 0xFFFB) calling
    (fun t => ((t.wave 32).lane 0).pc == 0x10002C) = true := by decide
theorem test_exit : after .exit base (fun t => ((t.wave 32).lane 0).exited) = true := by decide
theorem test_trap_queues : after (.trap 5) base (fun t => (t.wave 32).handler == false && ((t.wave 32).trapQ.map fun e => (e.cause, e.next, e.info)) == [(0x16, true, 5)]) = true := by decide

/-- Example of R84: line 1 sets bits 163, 365, 727 and 856. -/
theorem test_signature : sigBits 1 = 1#1024 <<< 163 ||| 1#1024 <<< 365 ||| 1#1024 <<< 727 ||| 1#1024 <<< 856 := by decide
/-- Example of R70. -/
theorem test_home_slice : homeSlice 0x1234567880 = 30 := by decide
/-- Examples of R23 and R151: page 0x1234 is bit 4 of bitmap byte 0x246. -/
theorem test_bias_bit : ({ base with biasBase := 0x200000 } : State).hostBias 0x01234000 = false
    ∧ ({ { base with biasBase := 0x200000 } with mem := [(0x200246, 0x10)] } : State).hostBias 0x01234000 = true
    ∧ ({ { base with biasBase := 0x200000 } with mem := [(0x200246, 0x10)] } : State).hostBias 0x01235000 = false := by decide

theorem test_store_is_stashed : after (.st (.v 2) (.v 8) .chip .b4 0) (State.regs paged [(8, 0x20010), (9, 0), (2, 0x04030201)])
    (fun t => t.mem == [] && (t.wave 32).run.writes.any fun w => w.loc == .mem 0x40010 && w.bytes == [1, 2, 3, 4]) = true := by decide
theorem test_load_sign_extends : after (.ldSigned true (.v 2) (.v 8) .chip .b1 0) { paged with mem := [(0x40000, 0x80)] }
    (fun t => (t.wave 32).reg 2 0 == 0xFFFFFF80) = true := by decide
theorem test_commit_places_bytes : after (.localCommit 32) (commit fun c => { c with writes := [⟨.scr 1 8, 0, [1, 2, 3, 4], false⟩] })
    (fun t => t.peek (.scr 1 8) == 1 && t.peek (.scr 1 11) == 4 && t.peek (.scr 1 12) == 0) = true := by decide
/-- Example of R190: 12 slots, 100 of 1,024 entries, so a target of 5. -/
def quarter : State :=
  { ((base.modLaunch 1 fun x => { x with stages := [{ odepth := 10, oqDpa := 0x40000 }, { slots := 12, odepth := 10, oqDpa := 0x80000 }, {}] }).st64 0x40000 100).st64 0x40010 10
    with waves := [] }
theorem test_stage_target : after (.stageRebalance 1) quarter (fun t => ((t.launch 1).stages.getD 1 {}).target == 5) = true := by decide

end Sys2Proof.Tests
end

/-! ## What follows an instruction's own effect (R77, R91, R280) -/

namespace Sys2Proof.Machine

/-- What follows an instruction leaves the halt mark, the pause count and the age of each of its lanes (R280). -/
theorem Lane.onward_issue (x : Lane) (i : Instr) (m : Bool) :
    (x.onward i m).halted = x.halted ∧ (x.onward i m).pcnt = x.pcnt ∧ (x.onward i m).age = 0 := by
  have after : (x.after i).halted = x.halted ∧ (x.after i).pcnt = x.pcnt := by
    unfold Lane.after; split <;> exact ⟨rfl, rfl⟩
  cases m <;> simp [Lane.onward, Lane.step, after]

section
variable {u : State} {i : Instr} {moved : Bool} (h : (u.tenant (u.waveTenant u.cur.wave)).reverse = none)
include h

theorem State.finish_frame : Frame u.cur.wave u (u.finish i moved) := (u.finish_spec i moved h).1.frame

theorem State.finish_regsKept : RegsKept u (u.finish i moved) fun _ _ => False := fun v l _ _ => by
  simp only [Wave.reg, (u.finish_spec i moved h).2.1]

theorem State.finish_lanesKept : LanesKept u (u.finish i moved) := by
  intro l out
  have lane := u.finish_lane i moved h l
  simp only [out, false_and, if_false] at lane
  rcases lane with e | ⟨e, -⟩ <;> rw [e]
  rfl

theorem State.finish_chunkKept : ChunkKept u (u.finish i moved) := by
  obtain ⟨writes, wsig, closing, -, wpriv⟩ := u.finish_chunk i moved h
  exact ⟨writes, wsig, wpriv, closing⟩

theorem State.finish_flags : ((u.finish i moved).wave u.cur.wave).lastChunk.flags = u.me.run.flags :=
  (u.finish_chunk i moved h).2.2.2.1

/-- A lane of the set afterwards: as it has gone on, its latches perhaps invalid with the end of the chunk. -/
theorem State.finish_lane_active {l : Nat} (mem : l ∈ u.myLanes) (len : l < u.me.lanes.length) :
    ((u.finish i moved).wave u.cur.wave).lane l = (u.me.lane l).onward i moved
      ∨ ((u.finish i moved).wave u.cur.wave).lane l = ((u.me.lane l).onward i moved).noLatch := by
  have lane := u.finish_lane i moved h l
  simp only [mem, len, and_self, if_true] at lane
  exact lane.imp id And.left

end

end Sys2Proof.Machine

open Sys2Proof.Machine in
/-- Settles O14, from what the end of an instruction does to its wave's frame, lanes and chunk. -/
theorem issueEnds : Obligations.IssueEnds := by
  intro u i moved h
  refine ⟨State.finish_frame h, State.finish_regsKept h, State.finish_lanesKept h, State.finish_chunkKept h, State.finish_flags h, ?_⟩
  intro l mem len
  have keep := (u.me.lane l).onward_keep i moved
  have issue := (u.me.lane l).onward_issue i moved
  rcases State.finish_lane_active (i := i) (moved := moved) h mem len with e | e <;>
    simp only [e, Lane.noLatch, keep, issue, and_self]

/-! ## Answers and late failures of far accesses (R79, R317) -/

namespace Sys2Proof.Machine

/-! ### Logs and interrupts of a tenant that does not log -/

theorem State.logTry_off {s : State} {t : Nat} (off : (s.tenant t).logging = false) (es : List (List W64)) : s.logTry t es = some s := by
  simp [State.logTry, off]

/-- An interrupt of a tenant that does not log is a message alone. -/
theorem State.interrupt_wave {s : State} {t : Nat} (off : (s.tenant t).logging = false) (src k : Nat) :
    (s.interrupt t src).wave k = s.wave k := by
  simp only [State.interrupt, State.interruptFull, State.vector, State.logTry_off off]
  split <;> split <;> rfl

/-! ### A trap reported beside the chunk -/

/-- A trap can enter the queue of wave k: no replay, no containment region open, room in the queue, no log. -/
structure State.TakesTrap (s : State) (k : Nat) : Prop where
  log : (s.tenant (s.waveTenant k)).logging = false
  replay : (s.tenant (s.waveTenant k)).reverse = none
  plain : (s.wg (s.wave k).wg).cntOpen = false
  room : (s.wave k).trapQ.length < 8

/-- An asynchronous trap enters the queue of its wave, whose wait stands as it did (R395, R401). -/
theorem State.trapAsync_queued {s : State} {k : Nat} (h : s.TakesTrap k) (pc : W64) (cause detail : Nat) (next : Bool)
    (mask : LaneMask) (info : W64) : ((s.trapAsync k pc cause detail next mask info).wave k).wait = (s.wave k).wait
      ∧ ((s.trapAsync k pc cause detail next mask info).wave k).trapQ = (s.wave k).trapQ ++
        [{ cause := BitVec.ofNat 8 cause, detail := BitVec.ofNat 8 detail, next := next, async := true, fpc := pc, mask := mask, info := info }] := by
  obtain ⟨log, replay, plain, room⟩ := h
  have sent := State.interrupt_wave log 5 k
  simp only [State.waveTenant] at replay sent
  have full : ¬ 8 ≤ (s.wave k).trapQ.length := Nat.not_le.mpr room
  simp only [State.trapAsync, State.raise, replay, plain, Option.isSome_none, Bool.false_and, Bool.false_eq_true, Bool.not_true,
    Bool.and_false, if_false, full]
  split <;> simp only [State.modWave_eq, State.wave_push, State.wave_setWave_same, sent, and_self]

/-! ### The end of a far wait -/

/-- A lane whose data have come brings no trap. -/
theorem State.lateTraps_none {s : State} {k : Nat} {pc : W64} {f : FarLane} (h : f.late = none) : s.lateTraps k pc [f] = s := by
  simp [State.lateTraps, h, State.consume]

/-- A lane that failed late raises one trap, with its cause (R317). -/
theorem State.lateTraps_fail {s : State} {k : Nat} {pc : W64} {f : FarLane} {c d : Nat} (h : f.late = some (c, d))
    (known : c = causePoison ∨ c = causeUncorrected ∨ c = causeFabricFail) :
    ∃ n, s.lateTraps k pc [f] = (s.consume (s.waveTenant k) n).trapAsync k pc c d true (maskOf [f.lane]) f.ea := by
  rcases known with rfl | rfl | rfl <;>
    exact ⟨_, by simp [State.lateTraps, h, causeRankRegion, causePoison, causeUncorrected, causeFabricFail]; rfl⟩

/-- Poison that is counted leaves the wave able to take a trap. -/
theorem State.TakesTrap.consume {s : State} {k : Nat} (h : s.TakesTrap k) (n : Nat) : (s.consume (s.waveTenant k) n).TakesTrap k := by
  simp only [State.consume]
  split
  · exact h
  · obtain ⟨log, replay, plain, room⟩ := h
    simp only [State.waveTenant] at log replay
    constructor <;>
      simp only [State.modTenant_eq, State.waveTenant, State.wave_setTenant, State.wg_setTenant, State.tenant_setTenant_same]
    · exact log
    · exact replay
    · exact plain
    · exact room
theorem State.consume_wave (s : State) (t n k : Nat) : (s.consume t n).wave k = s.wave k := by
  simp only [State.consume]; split <;> rfl

/-- What the end of a far wait leaves: memory, the tenants, the traps that wait at wave k and what decides whether one more can. -/
structure TrapsKept (k : Nat) (s t : State) : Prop where
  mem : t.mem = s.mem
  tenants : t.tenants = s.tenants
  group : (t.wave k).wg = (s.wave k).wg
  trapQ : (t.wave k).trapQ = (s.wave k).trapQ
  wgs : ∀ g, (t.wg g).tenant = (s.wg g).tenant ∧ (t.wg g).cntOpen = (s.wg g).cntOpen

theorem TrapsKept.refl (k : Nat) (s : State) : TrapsKept k s s := ⟨rfl, rfl, rfl, rfl, fun _ => ⟨rfl, rfl⟩⟩
theorem TrapsKept.trans {k : Nat} {s t u : State} (a : TrapsKept k s t) (b : TrapsKept k t u) : TrapsKept k s u :=
  ⟨b.mem.trans a.mem, b.tenants.trans a.tenants, b.group.trans a.group, b.trapQ.trans a.trapQ,
    fun g => ⟨(b.wgs g).1.trans (a.wgs g).1, (b.wgs g).2.trans (a.wgs g).2⟩⟩
theorem TrapsKept.setWave {k : Nat} {s : State} {w : Wave} (group : w.wg = (s.wave k).wg) (trapQ : w.trapQ = (s.wave k).trapQ) :
    TrapsKept k s (s.setWave k w) := ⟨rfl, rfl, by simpa using group, by simpa using trapQ, fun _ => ⟨rfl, rfl⟩⟩
theorem Near.trapsKept {k : Nat} {s t : State} (h : Near k s t) : TrapsKept k s t :=
  ⟨by rw [h.rest], h.wg.2.1, (congrArg Wave.wg h.own :), (congrArg Wave.trapQ h.own :), fun g => by simp only [State.wg, h.wg.1, and_self]⟩
/-- An audit changes the signature of a workgroup alone (R428). -/
theorem TrapsKept.audit (k : Nat) (s : State) (g : Nat) (ea : W64) (bs : List Byte) : TrapsKept k s (s.audit g ea bs) := by
  simp only [State.audit]
  split
  · refine ⟨rfl, rfl, rfl, rfl, fun h => ?_⟩
    simp only [State.modWg_eq, State.wg_setWg]
    split
    · rename_i e; rw [e]; exact ⟨rfl, rfl⟩
    · exact ⟨rfl, rfl⟩
  · exact .refl k s
theorem State.audit_wave (s : State) (g : Nat) (ea : W64) (bs : List Byte) (k : Nat) : (s.audit g ea bs).wave k = s.wave k := by
  simp only [State.audit]; split <;> rfl

theorem TrapsKept.takes {k : Nat} {s t : State} (h : TrapsKept k s t) (able : s.TakesTrap k) : t.TakesTrap k := by
  have same : t.waveTenant k = s.waveTenant k := by rw [State.waveTenant, State.waveTenant, h.group, (h.wgs _).1]
  have tenant : t.tenant (t.waveTenant k) = s.tenant (s.waveTenant k) := by rw [same, State.tenant, State.tenant, h.tenants]
  exact ⟨by rw [tenant]; exact able.log, by rw [tenant]; exact able.replay, by rw [h.group, (h.wgs _).2]; exact able.plain,
    by rw [h.trapQ]; exact able.room⟩

/-- What `takeHalt` leaves. -/
theorem Wave.takeHalt_keep (w : Wave) : w.takeHalt.regs = w.regs ∧ w.takeHalt.wait = w.wait ∧ w.takeHalt.trapQ = w.trapQ
    ∧ w.takeHalt.wg = w.wg := by
  simp only [Wave.takeHalt]; split <;> exact ⟨rfl, rfl, rfl, rfl⟩

/-- Results change registers, lanes and the checkpoint of registers alone. -/
theorem Wave.writeAll_still (w : Wave) (wb : Bool) (d : Operand) (n : Nat) (vs : List (Nat × BitVec 128)) :
    (w.writeAll wb d n vs).still = w.still := by
  have start : (if wb = true then w.saveRows (destRegs d n) else w).still = w.still := by
    split
    · exact (w.saveRows_keep _).2.2.2.1
    · rfl
  rw [← start, Wave.writeAll]
  generalize (if wb = true then w.saveRows (destRegs d n) else w) = x
  induction vs generalizing x with
  | nil => rfl
  | cons p vs ih => exact (ih _).trans (x.writeResult_keep wb d n p.1 p.2).2.2.1

/-- A result of one lane stands in the registers of its destination. -/
theorem Wave.writeAll_one (w : Wave) {d : VReg} {n l j : Nat} (v : BitVec 128) (hl : l < 64) (hj : j < n) :
    (w.writeAll true (.v d) n [(l, v)]).reg (d.val + j) l = v.extractLsb' (32 * j) 32 := by
  simp only [Wave.writeAll, if_true, List.foldl_cons, List.foldl_nil]
  rw [Wave.reg_writeResult _ _ _ _ _ _ _ _ hl hl, if_pos ⟨rfl, rfl, by simp [destRegs, List.mem_range'_1]; omega⟩, Nat.add_sub_cancel_left]

/-- All lanes of a far access have replied: registers get the results, the wait is over, and the lanes that failed trap (R317). -/
theorem State.farTry_replied {s : State} {k : Nat} {f : FarLane} (kind : (s.wave k).wait.kind = .far)
    (lanes : (s.wave k).wait.lanes = [f]) (replied : f.reply.isSome = true)
    (here : (s.wg (s.wave k).wg).saved = false ∧ (s.wg (s.wave k).wg).saving = false ∧ (s.wg (s.wave k).wg).restoring = false)
    (log : (s.tenant (s.waveTenant k)).logging = false) :
    ∃ (u : State) (w : Wave), s.farTry k = u.lateTraps k (s.wave k).wait.pc [f] ∧ TrapsKept k s u ∧ (u.wave k).wait.kind = .none
      ∧ (u.wave k).regs = (w.writeAll (s.wave k).wait.w (s.wave k).wait.d (s.wave k).wait.farValues.1 (s.wave k).wait.farValues.2).regs := by
  obtain ⟨saved, saving, restoring⟩ := here
  -- the state after the audit of what the lane wrote
  obtain ⟨a, audited, a_kept, a_wave⟩ : ∃ a, (match f.target, f.reply with
      | .chip _, _ => s
      | _, some (.data bs _ _) => (match f.op.newBytes bs with
        | some nb => s.audit (s.wave k).wg f.ea nb
        | none => s)
      | _, _ => s) = a ∧ TrapsKept k s a ∧ a.wave k = s.wave k := by
    refine ⟨_, rfl, ?_⟩
    split
    · exact ⟨.refl .., rfl⟩
    · split
      · exact ⟨.audit .., State.audit_wave ..⟩
      · exact ⟨.refl .., rfl⟩
    · exact ⟨.refl .., rfl⟩
  -- the state after an acquire has raised the view time
  obtain ⟨b, raised, b_kept⟩ : ∃ b, (if (s.wave k).wait.acquire then
      a.raisePv k (((s.wave k).wait.lanes.map (·.stamp)).foldl max 0) else a) = b ∧ TrapsKept k a b := by
    refine ⟨_, rfl, ?_⟩
    split
    · exact .setWave rfl rfl
    · exact .refl ..
  generalize hx : (s.wave k).wait = x at *
  obtain ⟨regs, wait, trapQ, wg⟩ := Wave.takeHalt_keep
    { (((b.wave k).writeAll x.w x.d x.farValues.1 x.farValues.2).modLanes (lanesOf x.mask) Lane.step) with wait := {} }
  have still := (Wave.modLanes_still _ (lanesOf x.mask) Lane.step).trans ((b.wave k).writeAll_still x.w x.d x.farValues.1 x.farValues.2)
  obtain ⟨near, end_regs, -⟩ := State.endChunk_spec (b.setWave k (Wave.takeHalt
    { (((b.wave k).writeAll x.w x.d x.farValues.1 x.farValues.2).modLanes (lanesOf x.mask) Lane.step) with wait := {} })) k
  refine ⟨_, b.wave k, ?_, (a_kept.trans b_kept).trans (.trans (.setWave ?_ ?_) near.trapsKept), ?_, end_regs.trans ?_⟩
  · have some_ : f.reply.isNone = false := by simpa using replied
    simp only [State.farTry, hx, kind, lanes, saved, saving, restoring, some_, State.logTry_off log, List.any_cons, List.any_nil,
      bne_self_eq_false, Bool.or_self, Bool.false_eq_true, if_false, List.foldl_cons, List.foldl_nil, ← audited, ← raised,
      State.modWave_eq] <;> rfl
  · exact wg.trans (congrArg Wave.wg still :)
  · exact trapQ.trans (congrArg Wave.trapQ still :)
  · have ended := congrArg Wave.wait near.own
    simp only [Wave.still, State.wave_setWave_same, wait] at ended
    rw [ended]
  · rw [State.wave_setWave_same, regs]; exact Wave.modLanes_regs ..

/-! ### Operations held back -/

/-- Where nothing is held back, nothing more goes out. -/
theorem State.sendNext_none {s : State} {k : Nat} (h : ∀ f ∈ (s.wave k).wait.lanes ++ (s.wave k).posted, f.held = false) :
    s.sendNext k = s := by
  have none : ((s.wave k).wait.lanes ++ (s.wave k).posted).filter (·.held) = [] := List.filter_eq_nil_iff.mpr fun f hf => by simp [h f hf]
  simp only [State.sendNext, none, List.length_nil, State.sendHeld]

/-! ### The answer to a wave that waits for one lane -/

/-- The state in which the lane of wave k has its reply. -/
def State.withReply (s : State) (k : Nat) (f : FarLane) (r : FarReply) : State :=
  s.setWave k { s.wave k with wait := { (s.wave k).wait with lanes := [{ f with reply := some r }] } }

/-- Two states alike in what the end of a far wait looks at. -/
structure SameWait (s t : State) : Prop where
  mem : t.mem = s.mem
  waves : t.waves = s.waves
  wgs : t.wgs = s.wgs
  tenants : t.tenants = s.tenants

section
variable {s u : State} {k : Nat} {f : FarLane} {p : FarLane → Bool} {r : State → FarLane → State × FarLane} {a : FarReply}

theorem State.OneLane.answer (one : s.OneLane k f) (hit : p f = true) (made : r s f = (u, { f with reply := some a }))
    (same : SameWait s u) : s.answer k p r = (u.withReply k f a).farTry k := by
  have wave : u.wave k = s.wave k := by rw [State.wave, State.wave, same.waves]
  have found : [f].find? (fun f => p f && f.reply.isNone) = some f := by simp [hit, one.open_]
  have held : ∀ g ∈ ((u.withReply k f a).wave k).wait.lanes ++ ((u.withReply k f a).wave k).posted, g.held = false := by
    simp only [State.withReply, State.wave_setWave_same, List.cons_append, List.nil_append, List.mem_cons, forall_eq_or_imp, wave]
    exact ⟨one.sent, one.posted⟩
  rw [← State.sendNext_none held]
  simp only [State.answer, one.kind, one.lanes, if_true, found, made, State.modWave_eq, wave, replaceFirst, beq_self_eq_true,
    State.withReply]

/-- The reply ends the wait: the results of the lane stand in its registers, then its failure traps. -/
theorem State.OneLane.replied (one : s.OneLane k f) (hit : p f = true) (made : r s f = (u, { f with reply := some a }))
    (same : SameWait s u) : ∃ (t : State) (w : Wave), s.answer k p r = t.lateTraps k (s.wave k).wait.pc [{ f with reply := some a }]
      ∧ t.mem = s.mem ∧ (t.wave k).wait.kind = .none ∧ (t.wave k).trapQ = (s.wave k).trapQ ∧ t.TakesTrap k
      ∧ let x : Waiting := { (s.wave k).wait with lanes := [{ f with reply := some a }] }
        (t.wave k).regs = (w.writeAll x.w x.d x.farValues.1 x.farValues.2).regs := by
  have wave : u.wave k = s.wave k := by rw [State.wave, State.wave, same.waves]
  have wg : ∀ g, (u.withReply k f a).wg g = s.wg g := fun g => by rw [State.withReply, State.wg_setWave, State.wg, State.wg, same.wgs]
  have now : (u.withReply k f a).wave k = { s.wave k with wait := { (s.wave k).wait with lanes := [{ f with reply := some a }] } } := by
    simp only [State.withReply, State.wave_setWave_same, wave]
  have given : TrapsKept k s (u.withReply k f a) := ⟨same.mem, same.tenants, by rw [now], by rw [now], fun g => by
    rw [wg]; exact ⟨rfl, rfl⟩⟩
  have able := given.takes ⟨one.log, one.replay, one.plain, one.room⟩
  obtain ⟨t, w, ended, kept, idle, regs⟩ := State.farTry_replied (s := u.withReply k f a) (f := { f with reply := some a })
    (by rw [now]; exact one.kind) (by rw [now]) rfl (by rw [wg, now]; exact one.here) able.log
  rw [now] at ended regs
  exact ⟨t, w, (one.answer hit made same).trans ended, (given.trans kept).mem, idle, (given.trans kept).trapQ, kept.takes able, regs⟩

/-- Data that come stand in the destination (R317). -/
theorem State.OneLane.answered {bs : List Byte} {stamp pc : Nat} (one : s.OneLane k f) (hit : p f = true)
    (made : r s f = (u, { f with reply := some (.data bs stamp pc) })) (same : SameWait s u) : Answered s (s.answer k p r) k f bs := by
  obtain ⟨t, w, ended, mem, idle, -, -, regs⟩ := one.replied hit made same
  rw [ended, State.lateTraps_none rfl]
  refine ⟨idle, mem, fun d l hw hd hop j hj => ?_⟩
  simp only [Wave.reg, regs, hw, hd, Waiting.farValues, hop, List.filterMap_cons, FarLane.value, Option.map_some, List.filterMap_nil,
    FarOp.bytes]
  exact w.writeAll_one _ one.lane hj

/-- A failure that is reported traps with NEXT = 1 and ASYNC = 1 (R317). -/
theorem State.OneLane.failed {c d : Nat} (one : s.OneLane k f) (hit : p f = true)
    (made : r s f = (u, { f with reply := some (.fail c d) })) (same : SameWait s u)
    (known : c = causePoison ∨ c = causeUncorrected ∨ c = causeFabricFail) : FailedLate s (s.answer k p r) k f c d := by
  obtain ⟨t, w, ended, -, idle, trapQ, able, -⟩ := one.replied hit made same
  obtain ⟨n, late⟩ := State.lateTraps_fail (s := t) (k := k) (pc := (s.wave k).wait.pc) (f := { f with reply := some (.fail c d) }) rfl known
  obtain ⟨wait, queued⟩ := State.trapAsync_queued (able.consume n) (s.wave k).wait.pc c d true (maskOf [f.lane]) f.ea
  rw [State.consume_wave] at wait queued
  rw [ended, late]
  exact ⟨by rw [wait]; exact idle, by rw [queued, trapQ]⟩

end

/-! ### What each message makes of a lane -/

theorem SameWait.refl (s : State) : SameWait s s := ⟨rfl, rfl, rfl, rfl⟩

/-- The pod clock moves beside everything that the end of a wait looks at. -/
theorem State.OneLane.mergePc {s : State} {k : Nat} {f : FarLane} (one : s.OneLane k f) (t pc : Nat) : (s.mergePc t pc).OneLane k f := by
  have tenant : ∀ g, ((s.mergePc t pc).tenant g).logging = (s.tenant g).logging ∧ ((s.mergePc t pc).tenant g).reverse = (s.tenant g).reverse := by
    intro g
    simp only [State.mergePc, State.modTenant_eq, State.tenant_setTenant]
    split
    · rename_i e; rw [e]; split <;> exact ⟨rfl, rfl⟩
    · exact ⟨rfl, rfl⟩
  exact ⟨one.kind, one.lanes, one.open_, one.sent, one.posted, one.lane, one.here, (tenant _).1.trans one.log,
    (tenant _).2.trans one.replay, one.plain, one.room⟩

/-- The answer of a pod home to a lane (R79, R317). -/
theorem State.farReply_lane {s : State} {k lane : Nat} (h : lane < 64) (bs : List Byte) (stamp pc : Nat) :
    s.farReply k lane (.data bs stamp pc) = (s.mergePc (s.waveTenant k) pc).answer k (fun f => f.lane == lane && f.target.isPod)
      fun s f => (s, { f with reply := some (.data bs stamp pc) }) := by
  simp only [State.farReply, if_neg (show ¬ 128 ≤ lane by omega)]
theorem State.podFail_lane {s : State} {k lane : Nat} (h : lane < 64) (detail : Nat) :
    s.podFail k lane detail = s.answer k (fun f => f.lane == lane && f.target.isPod)
      fun s f => (s, { f with reply := some (.fail causeFabricFail detail) }) := by
  simp only [State.podFail, if_neg (show ¬ 128 ≤ lane by omega)]
/-- A completion at the port for a lane of a wave. -/
theorem State.portComplete_lane {s : State} {k lane : Nat} (h : lane < 64) (r : FarReply) :
    s.portComplete k lane r = s.answer k (fun f => f.lane == lane && f.target.port) fun s f => s.portLane k r f := by
  simp only [State.portComplete, if_neg (show ¬ 128 ≤ lane by omega), if_neg (show lane ≠ 65 by omega), if_neg (show lane ≠ 64 by omega)]

theorem State.portLane_fail (s : State) (k c d : Nat) (f : FarLane) :
    s.portLane k (.fail c d) f = (s, { f with reply := some (.fail c d) }) := rfl
/-- Data of a load without coherence end it at once (R158). -/
theorem State.portLane_load {s : State} {k : Nat} {f : FarLane} {w : Width} {sg : Bool} (op : f.op = .load w sg)
    (far : f.target.noncoherent = true) (bs : List Byte) (a b : Nat) :
    s.portLane k (.data bs a b) f = (s, { f with reply := some (.data bs a b) }) := by
  have straight : f.looped = false := by simp [FarLane.looped, op]
  cases target : f.target with
  | host pa coh step =>
    cases coh with
    | true => rw [target] at far; cases far
    | false => simp only [State.portLane, target, straight, Bool.false_and, Bool.false_eq_true, if_false]
  | _ => simp only [State.portLane, target, straight, Bool.false_and, Bool.false_eq_true, if_false]
theorem FarTarget.port_of_noncoherent {t : FarTarget} (h : t.noncoherent = true) : t.port = true := by
  cases t with
  | host | pool => rfl
  | _ => cases h

/-! ### A host line that comes (R158, R159) -/

/-- An entry that a filter keeps out is not found, nor one added behind is passed over. -/
theorem find_append_new {xs : List HostLine} {a : Nat} (absent : xs.find? (·.addr == a) = none) (p : HostLine → Bool) (new : HostLine)
    (h : new.addr = a) : (xs.filter p ++ [new]).find? (·.addr == a) = some new := by
  have gone : (xs.filter p).find? (·.addr == a) = none :=
    List.find?_eq_none.mpr fun x hx => List.find?_eq_none.mp absent x (List.mem_of_mem_filter hx)
  simp [List.find?_append, gone, h]

/-- A line that was not held is held after it is installed, with its data; the device's own memory, waves and tenants are as before. -/
theorem State.hostInstall_new {s : State} {pa : Nat} {data : List Byte} (own : Bool) (absent : s.hostLine? pa = none)
    (len : data.length = 64) : SameWait s (s.hostInstall pa data own)
      ∧ (s.hostInstall pa data own).hostLine? pa = some { addr := pa / 64 * 64, data := data, dirty := false, owned := own } := by
  have line : s.hostLine? (pa / 64 * 64) = none := by
    rw [← absent, State.hostLine?, State.hostLine?, Nat.mul_div_cancel _ (by omega)]
  have all : (data ++ List.replicate 64 0).take 64 = data := by rw [List.take_append_of_le_length (by omega), List.take_of_length_le (by omega)]
  have added : ∀ p : HostLine → Bool, (s.hostLines.filter p ++
      [{ addr := pa / 64 * 64, data := data, dirty := false, owned := own : HostLine }]).find? (·.addr == pa / 64 * 64) =
        some { addr := pa / 64 * 64, data := data, dirty := false, owned := own } := fun p => find_append_new absent p _ rfl
  have kept := added fun _ => true
  simp only [List.filter_true] at kept
  simp only [State.hostInstall, line, Option.isSome_none, Bool.false_eq_true, if_false, all]
  split
  · split
    · exact ⟨⟨rfl, rfl, rfl, rfl⟩, kept⟩
    · split <;> exact ⟨⟨rfl, rfl, rfl, rfl⟩, added _⟩
  · exact ⟨⟨rfl, rfl, rfl, rfl⟩, kept⟩

/-- Every byte of an access within a host line lies in that line. -/
theorem hostBytes_line {pa n a : Nat} (fits : pa % 64 + n ≤ 64) (h : a ∈ hostBytes pa 4 n) : a / 64 = pa / 64 := by
  simp only [hostBytes, List.mem_map, List.mem_range] at h
  obtain ⟨i, hi, rfl⟩ := h
  omega

/-- A load whose host line has come takes its bytes from it. -/
theorem State.portLane_line {s : State} {k pa : Nat} {f : FarLane} {w : Width} {sg : Bool} {bs : List Byte}
    (target : f.target = .host pa true 4) (op : f.op = .load w sg) (asked : f.asked = some pa) (fits : pa % 64 + w.bytes ≤ 64)
    (len : bs.length = 64) (absent : s.hostLine? pa = none) (a b : Nat) :
    ∃ u, s.portLane k (.data bs a b) f = (u, { f with reply := some (.data ((bs.drop (pa % 64)).take w.bytes) 0 0) }) ∧ SameWait s u := by
  obtain ⟨same, held⟩ := State.hostInstall_new (s := s) (data := bs) false absent len
  have all : (bs ++ List.replicate 64 0).take 64 = bs := by rw [List.take_append_of_le_length (by omega), List.take_of_length_le (by omega)]
  have here : ∀ x ∈ hostBytes pa 4 w.bytes, (s.hostInstall pa bs false).hostLine? x =
      some { addr := pa / 64 * 64, data := bs, dirty := false, owned := false } := fun x hx => by
    rw [← held, State.hostLine?, State.hostLine?, hostBytes_line fits hx]
  have enough : (s.hostInstall pa bs false).hostNeed pa 4 w.bytes false = none :=
    List.find?_eq_none.mpr fun x hx => by simp [here x hx]
  have read : (hostBytes pa 4 w.bytes).map (fun x => (((s.hostInstall pa bs false).hostLine? x).map fun h => h.data.getD (x % 64) 0).getD 0) =
      (bs.drop (pa % 64)).take w.bytes := by
    refine List.ext_getElem (by simp [hostBytes]; omega) fun i hi _ => ?_
    have small : i < w.bytes := by simpa [hostBytes] using hi
    have mem : pa + i / 4 * 4 + i % 4 ∈ hostBytes pa 4 w.bytes := List.mem_map.mpr ⟨i, List.mem_range.mpr small, rfl⟩
    have at_ : (pa + i / 4 * 4 + i % 4) % 64 = pa % 64 + i := by omega
    rw [List.getElem_map]
    simp only [hostBytes, List.getElem_map, List.getElem_range]
    rw [here _ mem, at_]
    simp [List.getD_eq_getElem?_getD, List.getElem?_eq_getElem (show pa % 64 + i < bs.length by omega)]
  refine ⟨_, ?_, same⟩
  simp only [State.portLane, target, asked, op, Option.getD_some, all, FarOp.writes, FarOp.bytes, enough, State.hostPerform, FarOp.newBytes, read]

/-! ### The acknowledgement of a RED (R112) -/

/-- The oldest posted operation of a wave is performed: it leaves those that are still to be. -/
theorem State.answer_done {s : State} {k : Nat} {f : FarLane} {rest : List FarLane} {p : FarLane → Bool}
    (kind : (s.wave k).wait.kind = .none) (posted : (s.wave k).posted = f :: rest) (hit : p f = true)
    (held : ∀ g ∈ (s.wave k).wait.lanes ++ rest, g.held = false) :
    s.answer k p (fun s f => (s, { f with reply := some .done })) = s.setWave k { s.wave k with posted := rest } := by
  have others : ∀ g ∈ ((s.setWave k { s.wave k with posted := rest }).wave k).wait.lanes
      ++ ((s.setWave k { s.wave k with posted := rest }).wave k).posted, g.held = false := by
    rw [State.wave_setWave_same]; exact held
  rw [← State.sendNext_none others]
  simp [State.answer, kind, posted, hit]

theorem State.mergePc_loaded {s : State} {t : Nat} (loaded : (s.tenant t).loaded = true) (pc : Nat) :
    ((s.mergePc t pc).tenant t).podClock = max (s.tenant t).podClock pc := by
  simp [State.mergePc, loaded]

end Sys2Proof.Machine

open Sys2Proof.Machine in
/-- Settles O47, from what the end of a far wait leaves and what each message makes of the lane that waits. -/
theorem farAnswers : Obligations.FarAnswers := by
  intro s k f
  refine ⟨fun one => ⟨?_, ?_, ?_, ?_, ?_⟩, ?_⟩
  · intro bs stamp pc pod
    refine ⟨_, rfl, ?_⟩
    rw [State.farReply_lane one.lane]
    exact (one.mergePc _ pc).answered (by simp [pod]) rfl (.refl _)
  · rintro bs far ⟨w, sg, op⟩
    refine ⟨_, rfl, ?_⟩
    rw [State.portComplete_lane one.lane]
    exact one.answered (by simp [FarTarget.port_of_noncoherent far]) (State.portLane_load op far bs 0 0) (.refl _)
  · intro bs pa w sg target op asked fits len absent
    obtain ⟨u, made, same⟩ := State.portLane_line (k := k) target op asked fits len absent 0 0
    refine ⟨_, rfl, ?_⟩
    rw [State.portComplete_lane one.lane]
    exact one.answered (by simp [target, FarTarget.port]) made same
  · intro l b a target
    have hit : (f.lane == f.lane && f.target.isPod) = true := by simp [target, FarTarget.isPod]
    constructor <;> refine ⟨_, rfl, ?_⟩ <;> rw [State.podFail_lane one.lane] <;>
      exact one.failed hit rfl (.refl _) (.inr (.inr rfl))
  · intro port
    have hit : (f.lane == f.lane && f.target.port) = true := by simp [port]
    have fails : ∀ c d, (c = causePoison ∨ c = causeUncorrected ∨ c = causeFabricFail) →
        FailedLate s (s.portComplete k f.lane (.fail c d)) k f c d := fun c d known => by
      rw [State.portComplete_lane one.lane]
      exact one.failed hit (State.portLane_fail s k c d f) (.refl _) known
    refine ⟨⟨_, rfl, fails _ _ (.inr (.inl rfl))⟩, fun r cause d listed => ⟨_, rfl, ?_⟩⟩
    simp only [List.mem_cons, Prod.mk.injEq, List.not_mem_nil, or_false] at listed
    rcases listed with ⟨rfl, rfl, rfl⟩ | ⟨rfl, rfl, rfl⟩ | ⟨rfl, rfl, rfl⟩ | ⟨rfl, rfl, rfl⟩
    · exact fails _ _ (.inr (.inl rfl))
    · exact fails _ _ (.inr (.inl rfl))
    · exact fails _ _ (.inr (.inl rfl))
    · exact fails _ _ (.inl rfl)
  · intro op w x l b a stamp pc rest kind posted red target loaded held
    refine ⟨_, rfl, ?_⟩
    have clock := State.mergePc_loaded loaded (max pc stamp)
    generalize merged : s.mergePc (s.waveTenant k) (max pc stamp) = m at clock ⊢
    have wave : m.wave k = s.wave k := by rw [← merged]; rfl
    have mem : m.mem = s.mem := by rw [← merged]; rfl
    rw [State.answer_done (f := f) (rest := rest)]
    · simp [State.raisePv, wave, clock, mem]
    all_goals simp only [State.raisePv, State.modWave_eq, State.wave_setWave_same, wave, red, target]
    exacts [kind, posted, held]

/-! ## The chunk of an issue, in full -/

namespace Sys2Proof.Machine

/-- A chunk is another but for what the end of an instruction notes in it: its counts, its register reads, the words made good, and
whether it has ended. -/
def Chunk.grew (a b : Chunk) : Prop :=
  a = { b with issued := a.issued, issues := a.issues, cand := a.cand, slots := a.slots, regReads := a.regReads, mended := a.mended,
               performed := a.performed, ended := a.ended }

theorem Chunk.grew.trans {a b c : Chunk} (h : a.grew b) (g : b.grew c) : a.grew c := by
  unfold Chunk.grew at *; rw [h, g]

theorem State.issued_grew (s : State) (k : Nat) (pc : W64) : ((s.issued k pc).wave k).run.grew (s.wave k).run := by
  simp only [State.issued, State.charge]
  split
  · rw [State.chargeCore_wave]; rfl
  · split
    · rw [State.chargeCore_wave]; rfl
    · simp only [State.modWave_eq, State.wave_setWave_same]; rfl

theorem State.count_grew {s : State} (pc : W64) (h : (s.tenant (s.waveTenant s.cur.wave)).reverse = none) :
    ((s.count s.cur.wave pc).wave s.cur.wave).run.grew (s.wave s.cur.wave).run := by
  rw [State.count_eq pc h]
  have issued := State.issued_grew ((s.setWave s.cur.wave (s.wave s.cur.wave).counted).usePort .issue) s.cur.wave pc
  have port : (((s.setWave s.cur.wave (s.wave s.cur.wave).counted).usePort .issue).wave s.cur.wave).run = (s.wave s.cur.wave).counted.run := by
    rw [State.usePort_eq, State.setWave_cur, State.wave_setWave_same, State.wave_setWave_same]
  rw [port] at issued
  exact issued.trans rfl

theorem State.wentOn_grew (u : State) (i : Instr) (moved : Bool) : (u.wentOn i moved).run.grew u.me.run := by
  simp only [State.wentOn, Wave.modLanes_run, Wave.mend]; split <;> rfl

theorem State.marked_grew (s : State) (i : Instr) (k : Nat) : ((s.marked i k).wave k).run.grew (s.wave k).run := by
  simp only [State.marked]
  split
  · simp only [State.modWave_eq, State.wave_setWave_same]; rfl
  · rfl

section
variable {u : State} {i : Instr} {moved : Bool} (h : (u.tenant (u.waveTenant u.cur.wave)).reverse = none)
include h

/-- The chunk before its end is decided: it has grown, and counts the issue. -/
theorem State.passed_grew : ((u.passed i moved).wave u.cur.wave).run.grew u.me.run
    ∧ ((u.passed i moved).wave u.cur.wave).run.issued ≠ 0 := by
  obtain ⟨-, cur, wave, rev⟩ := u.banked_spec i moved h
  have noted : ((u.noted i moved).wave u.cur.wave).run.grew (u.wentOn i moved).run ∧ ((u.noted i moved).wave u.cur.wave).run.issued ≠ 0 := by
    generalize banked : (u.setWave u.cur.wave (u.wentOn i moved)).useBanks (u.namedRows i) = v at cur wave rev
    have grew := State.count_grew (s := v) u.cur.pc (by rw [cur]; exact rev)
    have counted := State.count_run (s := v) u.cur.pc (by rw [cur]; exact rev)
    rw [cur, wave] at grew counted
    rw [State.noted, banked]
    exact ⟨grew, counted.2⟩
  rw [State.passed_wave]
  exact ⟨(State.marked_grew ..).trans (noted.1.trans (u.wentOn_grew i moved)), by rw [(State.marked_run ..).2]; exact noted.2⟩

omit h in
/-- The end of a chunk that has issued leaves it as it was, and ended. -/
theorem State.endChunk_lastChunk {s : State} {k : Nat} (issued : (s.wave k).run.issued ≠ 0) :
    ((s.endChunk k).wave k).lastChunk = { (s.wave k).run with ended := true } := by
  simp only [State.endChunk, State.modWave_eq, State.advance, State.wave_setWave_same]
  split
  · simp only [State.wave_push, State.wave_setWave_same]; rfl
  · simp only [State.wave_setWave_same, Wave.lastChunk, issued, if_false]

/-- What the chunk of the issue holds afterwards is what the instruction's own effect has left there (R280). -/
theorem State.finish_grew : ((u.finish i moved).wave u.cur.wave).lastChunk.grew u.me.run := by
  obtain ⟨grew, issued⟩ := State.passed_grew (i := i) (moved := moved) h
  rw [State.finish_eq]
  split
  · rw [State.endChunk_lastChunk issued]
    exact Chunk.grew.trans rfl grew
  · simp only [Wave.lastChunk, issued, if_false]; exact grew

/-- A memory operation that closes its chunk ends it (R77, R327). -/
theorem State.finish_ended (last : u.me.run.last = true) : ((u.finish i moved).wave u.cur.wave).lastChunk.ended = true := by
  obtain ⟨grew, issued⟩ := State.passed_grew (i := i) (moved := moved) h
  have full : (u.passed i moved).me.chunkFull = true := by
    have cur : (u.passed i moved).cur = u.cur := (u.passed_spec i moved h).1.wg.2.2
    have last' : (u.passed i moved).me.run.last = true := by rw [State.me, cur, grew]; exact last
    simp only [Wave.chunkFull, last', Bool.or_true, Bool.true_or]
  rw [State.finish_eq, full, if_pos (by simp), State.endChunk_lastChunk issued]

end

end Sys2Proof.Machine

/-! ## Accesses of an instruction that has entered -/

namespace Sys2Proof

/-- What a write at a key lists: its own entry, and of the others only what was listed. -/
theorem Tab.mem_of_mem_put {α : Type} [DecidableEq α] {d : α} {t : Tab α} {k : Nat} {v : α} {p : Nat × α} (h : p ∈ Tab.put d t k v) :
    p = (k, v) ∨ p ∈ t := by
  have dropped : ∀ {t : Tab α}, p ∈ Tab.drop t k → p ∈ t := fun h => List.mem_of_mem_filter h
  induction t with
  | nil =>
    simp only [Tab.put] at h
    split at h
    · exact absurd h List.not_mem_nil
    · exact .inl (List.mem_singleton.mp h)
  | cons q t ih =>
    simp only [Tab.put] at h
    split at h
    · split at h
      · rcases List.mem_cons.mp h with e | e
        · exact .inr (List.mem_cons.mpr (.inl e))
        · exact .inr (List.mem_cons_of_mem _ (dropped e))
      · exact (List.mem_cons.mp h).imp id id
    · split at h
      · split at h
        · exact .inr (List.mem_cons_of_mem _ (dropped h))
        · exact (List.mem_cons.mp h).imp id (List.mem_cons_of_mem _)
      · rcases List.mem_cons.mp h with e | e
        · exact .inr (List.mem_cons.mpr (.inl e))
        · exact (ih e).imp id (List.mem_cons_of_mem _)

/-- A value other than the default is listed. -/
theorem Tab.mem_of_get {α : Type} {d : α} {t : Tab α} {k : Nat} (h : Tab.get d t k ≠ d) : (k, Tab.get d t k) ∈ t := by
  induction t with
  | nil => exact absurd rfl h
  | cons p t ih =>
    rw [Tab.get] at h ⊢
    split at h
    · rename_i e; rw [if_pos e, ← e]; exact List.mem_cons_self ..
    · rename_i e; rw [if_neg e]; exact List.mem_cons_of_mem _ (ih h)

end Sys2Proof

namespace Sys2Proof.Machine

/-- A state that differs from another in the notes of its running chunks alone. -/
structure SameReads (s t : State) : Prop where
  rest : t = { s with waves := t.waves }
  waves : ∀ k, ∃ c, t.wave k = { s.wave k with run := { (s.wave k).run with cand := c } }
  live : ∀ k ∈ t.liveWaves, k ∈ s.liveWaves

section
variable (w : Wave) (r : Chunk) (l : Nat) (o : Operand)

/-- Registers and latches are read past the chunk. -/
theorem Wave.read32_run : ({ w with run := r } : Wave).read32 l o = w.read32 l o := by cases o <;> rfl
theorem Wave.read64_run : ({ w with run := r } : Wave).read64 l o = w.read64 l o := by cases o <;> rfl
theorem Wave.read128_run : ({ w with run := r } : Wave).read128 l o = w.read128 l o := by cases o <;> rfl
theorem Wave.readN_run (n : Nat) : ({ w with run := r } : Wave).readN l n o = w.readN l n o := by
  simp only [Wave.readN, Wave.read32_run, Wave.read64_run, Wave.read128_run]

end

section
variable {s t : State} (h : SameReads s t)
include h

theorem SameReads.wg (g : Nat) : t.wg g = s.wg g := by rw [h.rest]; rfl
theorem SameReads.core (c : Nat) : t.core c = s.core c := by rw [h.rest]; rfl
theorem SameReads.tenant (n : Nat) : t.tenant n = s.tenant n := by rw [h.rest]; rfl
theorem SameReads.cur : t.cur = s.cur := by rw [h.rest]
theorem SameReads.wave (k : Nat) : (t.wave k).wg = (s.wave k).wg ∧ (t.wave k).idx = (s.wave k).idx ∧ (t.wave k).com = (s.wave k).com
    ∧ (t.wave k).regs = (s.wave k).regs ∧ (t.wave k).lanes = (s.wave k).lanes
    ∧ (∀ v, (t.wave k).badLanes v = (s.wave k).badLanes v) := by
  obtain ⟨c, e⟩ := h.waves k
  rw [e]
  exact ⟨rfl, rfl, rfl, rfl, rfl, fun _ => rfl⟩
theorem SameReads.coreOf (k : Nat) : t.coreOf k = s.coreOf k := by
  rw [State.coreOf, State.coreOf, h.wg, (h.wave k).1, (h.wave k).2.1]
theorem SameReads.memory : t.mem = s.mem ∧ t.cxl = s.cxl ∧ t.poisonBase = s.poisonBase ∧ t.tlb = s.tlb ∧ t.walkCache = s.walkCache := by
  rw [h.rest]; exact ⟨rfl, rfl, rfl, rfl, rfl⟩
theorem SameReads.leafOf (n va size : Nat) (e : W64) : leafOf t n va size e = leafOf s n va size e := by
  obtain ⟨mem, cxl, base, -⟩ := h.memory
  simp only [Machine.leafOf, anyPoison, bitmapBit, h.tenant, mem, cxl, base]
theorem SameReads.ld64 (a : Nat) : t.ld64 a = s.ld64 a := by rw [State.ld64, State.ld64, h.memory.1]
theorem SameReads.walk0 (n table va : Nat) : walk0 t n table va = walk0 s n table va := by
  simp only [Machine.walk0, h.ld64, h.leafOf]
theorem SameReads.walkEntry (x n level va a : Nat) : t.walkEntry x n level va a = s.walkEntry x n level va a := by
  simp only [State.walkEntry, h.ld64, h.memory.2.2.2.2]
theorem SameReads.walkFrom (x n va level : Nat) : ∀ table, walkFrom t x n va level table = walkFrom s x n va level table := by
  induction level with
  | zero => exact fun table => h.walk0 n table va
  | succ level ih => intro table; simp only [Machine.walkFrom, h.walkEntry, h.tenant, h.leafOf, ih]
theorem SameReads.walk (x n va : Nat) : walk t x n va = walk s x n va := by
  simp only [Machine.walk, h.tenant, h.walkFrom]
theorem SameReads.translate (x : TlbHome) (n va : Nat) : translate t x n va = translate s x n va := by
  have find : ∀ x n va, tlbFind t x n va = tlbFind s x n va := fun x n va => by simp only [tlbFind, h.memory.2.2.2.1]
  simp only [Machine.translate, find, h.walk]
theorem SameReads.pageCheck (e : Tlb) (va size : Nat) (acc : Acc) : pageCheck t e va size acc = pageCheck s e va size acc := by
  rw [h.rest]; rfl
theorem SameReads.pageTarget (n : Nat) (e : Tlb) (va size : Nat) : pageTarget t n e va size = pageTarget s n e va size := by
  rw [h.rest]; rfl
theorem SameReads.resolveVa (x : TlbHome) (n va size : Nat) (sc : Scope) (acc : Acc) (perm : Bool) :
    resolveVa t x n va size sc acc perm = resolveVa s x n va size sc acc perm := by
  simp only [Machine.resolveVa, h.translate, h.pageCheck, h.pageTarget]
theorem SameReads.regionOf (n i : Nat) : regionOf t n i = regionOf s n i := by rw [h.rest]; rfl
theorem SameReads.rankLookup (n i : Nat) : rankLookup t n i = rankLookup s n i := by rw [h.rest]; rfl
theorem SameReads.pathSet (n i : Nat) : pathSet t n i = pathSet s n i := by rw [h.rest]; rfl
theorem SameReads.rankLevel (l : RankLeaf) : rankLevel t l = rankLevel s l := by rw [h.rest]; rfl
theorem SameReads.resolve (k l : Nat) (ea : W64) (size : Nat) (sc : Scope) (acc : Acc) :
    resolve t k l ea size sc acc = resolve s k l ea size sc acc := by
  simp only [Machine.resolve, Machine.resolveWindow, Machine.resolveGlobal, h.wg, h.core, h.tenant, h.coreOf, (h.wave _).1, (h.wave _).2.1,
    (h.wave _).2.2.2.2.2, h.translate, h.pageCheck, h.pageTarget, h.resolveVa, h.regionOf, h.rankLookup, h.pathSet, h.rankLevel]

/-- No command of its own stands before the access of a wave. -/
theorem SameReads.boardFree {k a n : Nat} {write : Bool} (free : s.boardWaits k a n write = false) : t.boardWaits k a n write = false := by
  have cmds : t.cmds = s.cmds := by rw [h.rest]
  have wave : ∀ j, (t.wave j).run.closing = (s.wave j).run.closing := fun j => by obtain ⟨c, e⟩ := h.waves j; rw [e]
  simp only [State.boardWaits, State.board, List.any_eq_false, List.mem_append, List.mem_flatMap, List.mem_filter, h.coreOf, cmds, wave,
    (h.wave _).2.2.1] at free ⊢
  rintro c (mem | ⟨j, ⟨live, core⟩, mem⟩)
  · exact free c (.inl mem)
  · exact free c (.inr ⟨j, ⟨h.live j live, core⟩, mem⟩)

theorem SameReads.lineKey (l : Loc) : t.lineKey l = s.lineKey l := by
  cases l <;> simp only [State.lineKey, State.scrCore, h.wg, h.coreOf, (h.wave _).1, (h.wave _).2.1]
theorem SameReads.keysOf (ls : List Loc) : t.keysOf ls = s.keysOf ls := by simp only [State.keysOf, funext h.lineKey]
theorem SameReads.memWait (write : Bool) (l : Loc) : t.memWait write l = s.memWait write l := by rw [h.rest]; rfl
theorem SameReads.pendingLine (l : Loc) : t.pendingLine l = s.pendingLine l := by rw [h.rest]; rfl
theorem SameReads.bankBusy (c b : Nat) : t.bankBusy c b = s.bankBusy c b := by rw [h.rest]; rfl
theorem SameReads.readWaits (c : Nat) (l : Loc) : t.readWaits c l = s.readWaits c l := by
  have packets : t.packets = s.packets := by rw [h.rest]
  simp only [State.readWaits, h.lineKey, packets]
theorem SameReads.commitStall (k : Nat) (l : Loc) : t.commitStall k l = s.commitStall k l := by
  simp only [State.commitStall, h.pendingLine, h.readWaits, h.coreOf, (h.wave _).2.2.1]
theorem SameReads.locStall (k : Nat) (write : Bool) (l : Loc) : t.locStall k write l = s.locStall k write l := by
  simp only [State.locStall, h.commitStall, h.bankBusy, h.memWait, h.wg]

theorem SameReads.bankOf (l : Loc) : t.bankOf l = s.bankOf l := by
  cases l <;> simp only [State.bankOf, State.scrCore, h.wg, h.coreOf, (h.wave _).1, (h.wave _).2.1]
theorem SameReads.banksOf (ls : List Loc) : t.banksOf ls = s.banksOf ls := by
  simp only [State.banksOf, funext h.bankOf]

theorem SameReads.asleep (bs : List (Nat × Nat)) : t.asleep bs = s.asleep bs := by simp only [State.asleep, h.core]
theorem SameReads.me : t.me = t.wave s.cur.wave := by rw [State.me, h.cur]
theorem SameReads.myLanes : t.myLanes = s.myLanes := by rw [State.myLanes, h.cur]; rfl
theorem SameReads.wakeFor (ls : List Loc) : (t.wakeFor ls).isNone = (s.wakeFor ls).isNone := by
  have woke : t.me.woke = s.me.woke := by rw [h.me]; obtain ⟨c, e⟩ := h.waves s.cur.wave; rw [e]; rfl
  simp only [State.wakeFor, h.banksOf, h.asleep, woke, h.cur]
  split <;> rfl
theorem SameReads.storeCycles (ls : List Loc) : t.storeCycles ls = s.storeCycles ls := by simp only [State.storeCycles, funext h.bankOf]
omit h in
/-- An access has no further store cycle to wait for: it has but one, or those of its set are over (R48). -/
theorem State.storeWait_isNone (s : State) (ls : List Loc) : (s.storeWait ls).isNone =
    (decide (s.storeCycles ls ≤ 1) || (s.me.storing.find? (·.1 == s.cur.pc)).any fun p => !decide (s.cycle < p.2)) := by
  simp only [State.storeWait]
  split
  · rename_i one; simp [one]
  · rename_i more
    cases found : s.me.storing.find? (·.1 == s.cur.pc) with
    | none => simp [more]
    | some p =>
      simp only [more, decide_false, Bool.false_or, Option.any_some]
      split <;> simp [*]
theorem SameReads.storeWait (ls : List Loc) : (t.storeWait ls).isNone = (s.storeWait ls).isNone := by
  have storing : t.me.storing = s.me.storing := by rw [h.me]; obtain ⟨c, e⟩ := h.waves s.cur.wave; rw [e]; rfl
  have cycle : t.cycle = s.cycle := by rw [h.rest]
  simp only [State.storeWait_isNone, h.storeCycles, storing, cycle, h.cur]
theorem SameReads.read (l : Nat) (o : Operand) : t.me.read32 l o = s.me.read32 l o ∧ t.me.read64 l o = s.me.read64 l o
    ∧ ∀ n, t.me.readN l n o = s.me.readN l n o := by
  rw [h.me]; obtain ⟨c, e⟩ := h.waves s.cur.wave; rw [e]
  exact ⟨Wave.read32_run .., Wave.read64_run .., fun n => Wave.readN_run ..⟩
theorem SameReads.loadBytes (k : Nat) (ea : W64) (ls : List Loc) : t.loadBytes k ea ls = s.loadBytes k ea ls := by
  have peek : ∀ l, t.peek l = s.peek l := fun l => by
    cases l <;> simp only [State.peek, h.memory.1, h.wg, h.core, (h.wave _).2.2.2.1]
  have run : ∀ j, (t.wave j).run.saved = (s.wave j).run.saved ∧ (t.wave j).run.writes = (s.wave j).run.writes
      ∧ (t.wave j).run.view = (s.wave j).run.view ∧ (t.wave j).stale = (s.wave j).stale := fun j => by
    obtain ⟨c, e⟩ := h.waves j; rw [e]; exact ⟨rfl, rfl, rfl, rfl⟩
  have committed : ∀ l, t.committed l = s.committed l := fun l => by
    cases l <;> simp only [State.committed, peek, run, (h.wave _).2.2.1]
  have byte : ∀ l, t.chunkByte k l = s.chunkByte k l := fun l => by simp only [State.chunkByte, run, peek, committed]
  have priv : ∀ l, t.privateByte k l = s.privateByte k l := fun l => by simp only [State.privateByte, run, byte]
  simp only [State.loadBytes, State.chunkBytes, funext byte, funext priv]

/-- An access that finds its places with nothing to wait for finds them so once its instruction has entered. -/
theorem SameReads.onChip {a : Operand} {off size : Nat} {sc : Scope} {acc : Acc} {at_ : Nat → List Loc}
    (chip : OnChip s a off size sc acc at_) : OnChip t a off size sc acc at_ := by
  obtain ⟨found, free, awake⟩ := chip
  constructor
  · simp only [h.myLanes, h.cur, h.resolve, (h.read _ _).2.1]; exact found
  · simp only [h.myLanes, h.cur, h.locStall, (h.read _ _).2.1]
    exact fun l mem => ⟨h.boardFree (free l mem).1, (free l mem).2⟩
  · simp only [h.myLanes, h.wakeFor, h.storeWait]; exact awake

end

/-- The note of an issue changes no read (R453). -/
theorem State.entered_sameReads {s : State} (live : s.me.live = true) (i : Instr) : SameReads s (s.entered i) := by
  rcases s.entered_cases i with e | ⟨c, e⟩
  · rw [e]; exact ⟨rfl, fun k => ⟨_, rfl⟩, fun _ h => h⟩
  · rw [e]
    refine ⟨rfl, fun k => ?_, fun k mem => ?_⟩
    · rw [State.wave_setWave]
      split
      · rename_i same; rw [same]; exact ⟨c, rfl⟩
      · exact ⟨_, rfl⟩
    · simp only [State.liveWaves, List.mem_map, List.mem_filter] at mem ⊢
      obtain ⟨p, ⟨listed, alive⟩, rfl⟩ := mem
      rcases Tab.mem_of_mem_put listed with rfl | old
      · refine ⟨(s.cur.wave, s.me), ⟨Tab.mem_of_get fun default => ?_, live⟩, rfl⟩
        have : s.me = {} := default
        rw [this] at live
        cases live
      · exact ⟨p, ⟨old, alive⟩, rfl⟩

end Sys2Proof.Machine

/-! ## An access on the chip passes its checks -/

namespace Sys2Proof.Machine

/-- The lanes of a set at their places, each with the counting mark of its page. -/
def State.onChipLanes (s : State) (a : Operand) (off : Nat) (at_ : Nat → List Loc) (cnt : Nat → Bool) : List Granted :=
  s.myLanes.map fun l => (l, s.me.read64 l a + BitVec.ofNat 64 off, { target := .chip (at_ l), far := false, cnt := cnt l })

section
variable {s : State} {a : Operand} {off size : Nat} {sc : Scope} {acc : Acc} {at_ : Nat → List Loc}

theorem OnChip.granted (chip : OnChip s a off size sc acc at_) :
    ∃ cnt, s.granted (s.resolveAll a off size sc acc) = .ok (s.onChipLanes a off at_ cnt) := by
  have found := chip.found
  choose! cnt found using found
  refine ⟨cnt, ?_⟩
  have all : s.resolveAll a off size sc acc = s.myLanes.map fun l =>
      ⟨l, s.me.read64 l a + BitVec.ofNat 64 off, .ok { target := .chip (at_ l), far := false, cnt := cnt l }⟩ :=
    List.map_congr_left fun l mem => by simp only [found l mem]
  have miss : (s.resolveAll a off size sc acc).findSome? LaneAcc.miss? = none := by
    rw [all, List.findSome?_eq_none_iff]; simp [LaneAcc.miss?]
  have err : (s.resolveAll a off size sc acc).filterMap LaneAcc.err? = [] := by
    rw [all, List.filterMap_eq_nil_iff]; simp [LaneAcc.err?]
  simp only [State.granted, miss, worst, err, List.foldl_nil]
  rw [all, List.filterMap_map, State.onChipLanes]
  exact congrArg Except.ok (congrFun List.filterMap_eq_map' s.myLanes)

theorem onChipLanes_near (cnt : Nat → Bool) : ((s.onChipLanes a off at_ cnt).any fun x => x.2.2.far) = false := by
  simp [State.onChipLanes]

theorem onChipLanes_locs (cnt : Nat → Bool) : allLocs (s.onChipLanes a off at_ cnt) = s.myLanes.flatMap at_ := by
  simp only [allLocs, State.onChipLanes, List.flatMap_map, Resolved.locs]

/-- Nothing holds it back. -/
theorem OnChip.goes (chip : OnChip s a off size sc acc at_) (cnt : Nat → Bool) :
    s.accessWait s.cur.wave size acc.writes (s.onChipLanes a off at_ cnt) = none := by
  obtain ⟨wake, store⟩ := chip.awake
  have stall : s.accessStall s.cur.wave size acc.writes (s.onChipLanes a off at_ cnt) = none := by
    simp only [State.accessStall, State.onChipLanes, List.findSome?_map, List.findSome?_eq_none_iff]
    intro l mem
    simp only [Function.comp_apply, (chip.free l mem).1, Bool.false_eq_true, if_false, Resolved.locs]
    exact List.findSome?_eq_none_iff.mpr (chip.free l mem).2
  simp only [State.accessWait, stall]
  simp only [State.onChipLanes, List.flatMap_map, Resolved.locs, Option.isNone_iff_eq_none.mp wake, Option.isNone_iff_eq_none.mp store]
  rfl

end

/-! ### What an access leaves in the device's records -/

/-- Two states that differ in the records of accesses alone: the page counters (R43), the lines that the caches hold (R65), the banks in
use (R73), the back-invalidations used up (R151). -/
structure Recorded (s t : State) : Prop where
  rest : t = s.recordsOf t
  cores : CoresKept s t

theorem Recorded.refl (s : State) : Recorded s s := ⟨rfl, fun _ => rfl⟩
theorem Recorded.trans {s t u : State} (a : Recorded s t) (b : Recorded t u) : Recorded s u := by
  refine ⟨?_, fun c => ?_⟩
  · have h1 := a.rest
    have h2 := b.rest
    rw [h2, h1]; rfl
  · have h1 := a.cores c
    have h2 := b.cores c
    rw [h2, h1]
theorem Recorded.waves {s t : State} (h : Recorded s t) : t.waves = s.waves := by rw [h.rest]; rfl
theorem Recorded.wave {s t : State} (h : Recorded s t) (k : Nat) : t.wave k = s.wave k := by rw [State.wave, State.wave, h.waves]

/-- A core as before, but for those and the picker's accounts. -/
def Core.recorded (x y : Core) : Prop :=
  y = { x with port0 := y.port0, charges := y.charges, l1 := y.l1, banks := y.banks, storeUsed := y.storeUsed }
theorem Recorded.modCore (s : State) (c : Nat) {f : Core → Core} (h : (s.core c).recorded (f (s.core c))) : Recorded s (s.modCore c f) := by
  refine ⟨rfl, fun d => ?_⟩
  simp only [State.modCore_eq, State.core_setCore]
  split
  · rename_i e; rw [e]; exact h
  · rfl
theorem Recorded.countLine (s : State) (l : Loc) (write remote : Bool) : Recorded s (s.countLine l write remote) := by
  cases l with
  | mem a => exact ⟨rfl, fun _ => rfl⟩
  | _ => exact .refl s
theorem Recorded.invUse (s : State) (ls : List Loc) : Recorded s (s.invUse ls) := ⟨rfl, fun _ => rfl⟩
theorem Recorded.l1Request (s : State) (c : Nat) (key : W64) : Recorded s (s.l1Request c key).1 := by
  have used := Recorded.modCore s (l1Core c key) (f := fun x => { x with storeUsed := s.cycle }) rfl
  have fills : ∀ (u : State) (g : List W64 → List W64), Recorded u (u.modCore (l1Core c key) fun x => { x with l1 := g x.l1 }) :=
    fun u g => .modCore u _ rfl
  have fresh : ∀ u : State, Recorded u { u with fresh := u.fresh + 1 } := fun u => ⟨rfl, fun _ => rfl⟩
  unfold State.l1Request
  dsimp only
  split
  · exact .refl s
  · split
    · exact used
    · split
      · exact used.trans (fills _ (· ++ [key]))
      · exact used.trans ((fresh _).trans (fills _ fun held => held.erase _ ++ [key]))

/-- A step that leaves records alone, made for each of a list. -/
theorem Recorded.foldl {α : Type} {step : State → α → State} (one : ∀ s x, Recorded s (step s x)) (xs : List α) :
    ∀ s, Recorded s (xs.foldl step s) := by
  induction xs with
  | nil => exact fun s => .refl s
  | cons x xs ih => exact fun s => (one s x).trans (ih _)
theorem Recorded.readLines (s : State) (c : Nat) (ls : List (Loc × Bool)) : Recorded s (s.readLines c ls) := by
  refine Recorded.foldl (fun u x => ?_) _ s
  obtain ⟨l, cnt⟩ := x
  have counted : ∀ v hit, Recorded u v → Recorded u (if cnt && !hit then v.countLine l false false else v) := by
    intro v hit near
    split
    · exact near.trans (.countLine ..)
    · exact near
  cases l with
  | mem a =>
    dsimp only
    cases u.lineKey (.mem a) with
    | none => exact .refl u
    | some key =>
      dsimp only
      split
      · exact counted _ _ (.refl u)
      · exact counted _ _ (.l1Request u c key)
  | _ => exact .refl u
theorem Recorded.useBanks (s : State) (ls : List Loc) : Recorded s (s.useBanks ls) :=
  Recorded.foldl (fun _ _ => by refine .modCore _ _ ?_; rfl) _ s

end Sys2Proof.Machine

/-! ## The bytes that an access on the chip names -/

namespace Sys2Proof.Machine

theorem leNat_lt (bs : List Byte) : leNat bs < 2 ^ (8 * bs.length) := by
  induction bs with
  | nil => exact Nat.one_pos
  | cons b bs ih =>
    have := b.isLt
    rw [leNat, List.length_cons, Nat.mul_succ, Nat.pow_add]
    omega

/-- Where places on the chip come out, they are as many as the access has bytes. -/
def Res.sized (size : Nat) : Res → Prop
  | .ok { target := .chip ls, .. } => ls.length = size
  | _ => True

@[simp] theorem Res.sized_miss (n va : Nat) : (Res.miss va).sized n := trivial
@[simp] theorem Res.sized_err (n : Nat) (x : AddrErr) : (Res.err x).sized n := trivial
@[simp] theorem Res.sized_fail (n c d : Nat) : (Res.fail c d).sized n := trivial
@[simp] theorem Res.sized_chip (n : Nat) (ls : List Loc) (far cnt : Bool) :
    (Res.ok { target := .chip ls, far := far, cnt := cnt }).sized n ↔ ls.length = n := Iff.rfl
@[simp] theorem Res.sized_pod (n byte accel : Nat) (line : PodLine) (far cnt : Bool) :
    (Res.ok { target := .pod line byte accel, far := far, cnt := cnt }).sized n := trivial
@[simp] theorem Res.sized_remote (n rank region off pset : Nat) (fabric : BitVec 128) (far cnt : Bool) :
    (Res.ok { target := .remote rank region off fabric pset, far := far, cnt := cnt }).sized n := trivial
theorem Res.sized_guard {p : Prop} [Decidable p] {n c d : Nat} {r : Res} (h : ¬ p → r.sized n) :
    (if p then Res.fail c d else r).sized n := by
  split
  · trivial
  · exact h ‹_›

section
variable (s : State) (size : Nat)

theorem pageTarget_sized (t : Nat) (e : Tlb) (va : Nat) (far cnt : Bool) :
    (Res.ok { target := pageTarget s t e va size, far := far, cnt := cnt }).sized size := by
  unfold pageTarget
  dsimp only
  split
  · simp
  · simp
  · trivial
  · split <;> trivial

/-- The same through the window of a thread's own memory (R67). -/
theorem pageTarget_spread_sized (t : Nat) (e : Tlb) (va : Nat) (far cnt : Bool) :
    (Res.ok { target := (pageTarget s t e va size).spread, far := far, cnt := cnt }).sized size := by
  have sized := pageTarget_sized s size t e va far cnt
  cases h : pageTarget s t e va size <;> rw [h] at sized <;> exact sized

theorem resolveVa_sized (x : TlbHome) (t va : Nat) (sc : Scope) (acc : Acc) (perm : Bool) :
    (resolveVa s x t va size sc acc perm).sized size := by
  unfold resolveVa
  repeat' split
  all_goals simp [pageTarget_sized]

theorem resolveGlobal_sized (x : TlbHome) (t : Nat) (ea : W64) (sc : Scope) (acc : Acc) :
    (resolveGlobal s x t ea size sc acc).sized size := by
  unfold resolveGlobal
  dsimp only
  repeat' split
  all_goals simp [resolveVa_sized]

theorem resolveWindow_sized (k l : Nat) (ea : W64) (sc : Scope) (acc : Acc) : (resolveWindow s k l ea size sc acc).sized size := by
  unfold resolveWindow
  dsimp only
  refine Res.sized_guard fun _ => Res.sized_guard fun _ => Res.sized_guard fun _ => Res.sized_guard fun _ => ?_
  split
  · exact Res.sized_guard fun _ => Res.sized_guard fun _ => by simp
  · exact Res.sized_guard fun _ => Res.sized_guard fun _ => by simp
  · refine Res.sized_guard fun _ => Res.sized_guard fun _ => ?_
    split
    · simp
    · simp
    · split
      · simp
      · split
        · exact pageTarget_spread_sized ..
        · simp
  · exact Res.sized_guard fun _ => Res.sized_guard fun _ => Res.sized_guard fun _ => by simp

theorem resolve_sized (k l : Nat) (ea : W64) (sc : Scope) (acc : Acc) : (resolve s k l ea size sc acc).sized size := by
  unfold resolve
  repeat' split
  all_goals simp [resolveVa_sized, resolveWindow_sized, resolveGlobal_sized]

end

/-- Each lane names as many bytes as the access has. -/
theorem OnChip.length {s : State} {a : Operand} {off size : Nat} {sc : Scope} {acc : Acc} {at_ : Nat → List Loc}
    (chip : OnChip s a off size sc acc at_) : ∀ l ∈ s.myLanes, (at_ l).length = size := by
  intro l mem
  obtain ⟨cnt, found⟩ := chip.found l mem
  have sized := resolve_sized s size s.cur.wave l (s.me.read64 l a + BitVec.ofNat 64 off) sc acc
  rwa [found] at sized

end Sys2Proof.Machine

/-! ## The issue of an access on the chip -/

namespace Sys2Proof.Machine

/-- Wave k has issued an access: what holds of an issue, but for the records that the access leaves. -/
structure Logged (k : Nat) (s t : State) : Prop where
  near : Near k (s.recordsOf t) t
  cores : CoresKept s t

theorem Near.logged {k : Nat} {s t : State} (h : Near k s t) : Logged k s t := by
  refine ⟨⟨?_, h.others, fun _ => rfl, h.own⟩, fun c => ?_⟩
  · rw [h.rest]; rfl
  · rw [h.cores c]
theorem Recorded.logged {s t : State} (h : Recorded s t) (k : Nat) : Logged k s t := by
  refine ⟨⟨?_, fun j _ => h.wave j, fun _ => rfl, congrArg Wave.still (h.wave k)⟩, h.cores⟩
  rw [h.rest]; rfl
theorem Logged.trans {k : Nat} {s t u : State} (a : Logged k s t) (b : Logged k t u) : Logged k s u := by
  refine ⟨⟨?_, fun j h => (b.near.others j h).trans (a.near.others j h), fun _ => rfl, b.near.own.trans a.near.own⟩, fun c => ?_⟩
  · have h1 := a.near.rest
    have h2 := b.near.rest
    rw [h2, h1]; rfl
  · have h1 := a.cores c
    have h2 := b.cores c
    rw [h2, h1]

theorem Near.keysOf {k : Nat} {s t : State} (h : Near k s t) (ls : List Loc) : t.keysOf ls = s.keysOf ls := by
  have wg : ∀ g, t.wg g = s.wg g := fun g => by rw [State.wg, h.wg.1]; rfl
  have wave : ∀ j, (t.wave j).wg = (s.wave j).wg ∧ (t.wave j).idx = (s.wave j).idx := fun j => by
    by_cases e : j = k
    · subst e; exact ⟨(congrArg Wave.wg h.own :), (congrArg Wave.idx h.own :)⟩
    · rw [h.others j e]; exact ⟨rfl, rfl⟩
  have coreOf : ∀ j, t.coreOf j = s.coreOf j := fun j => by rw [State.coreOf, State.coreOf, wg, (wave j).1, (wave j).2]
  have key : ∀ l, t.lineKey l = s.lineKey l := fun l => by
    cases l <;> simp only [State.lineKey, State.scrCore, wg, coreOf, wave]
  simp only [State.keysOf, funext key]

/-- The tenant of a wave whose issue ends does not run backwards. -/
theorem Near.reverse {s u : State} (h : Near s.cur.wave s u) (live : (s.tenant (s.waveTenant s.cur.wave)).reverse = none) :
    (u.tenant (u.waveTenant u.cur.wave)).reverse = none := by
  rw [h.wg.2.2, h.waveTenant, State.tenant, h.wg.2.1]; exact live

/-! ### An instruction has entered, and may have ended its wave's view of stale bytes -/

/-- The state in which an access acts: its instruction has entered, and an acquire at `.chip` sees its window's bytes anew (R103). -/
def State.acting (s : State) (i : Instr) (fresh : Bool) : State :=
  if fresh then (s.entered i).viewNow (s.entered i).cur.wave else s.entered i

theorem State.viewNow_near (s : State) (k : Nat) : Near k s (s.viewNow k) := by
  rw [State.viewNow, State.modWave_eq]; exact .setWave rfl

section
variable (s : State) (i : Instr) (fresh : Bool)

theorem State.acting_near : Near s.cur.wave s (s.acting i fresh) := by
  obtain ⟨near, -, -, -, cur⟩ := s.entered_spec i
  cases fresh
  · exact near
  · refine near.trans ?_
    simp only [State.acting, if_true, cur]
    exact State.viewNow_near ..

/-- Its wave differs in notes of its chunk alone. -/
theorem State.acting_me : ∃ c v, (s.acting i fresh).me = { s.me with run := { s.me.run with cand := c, view := v } } := by
  have entered : ∃ c, (s.entered i).me = { s.me with run := { s.me.run with cand := c } } := by
    rcases s.entered_cases i with e | ⟨c, e⟩
    · exact ⟨_, by rw [e]⟩
    · exact ⟨c, by simp [e, State.me]⟩
  obtain ⟨c, e⟩ := entered
  cases fresh
  · exact ⟨c, _, e⟩
  · refine ⟨c, true, ?_⟩
    have viewed : ((s.entered i).viewNow (s.entered i).cur.wave).me
        = { (s.entered i).me with run := { (s.entered i).me.run with view := true } } := by
      rw [State.viewNow, State.modWave_eq, State.me, State.setWave_cur, State.wave_setWave_same]; rfl
    simp only [State.acting, if_true, viewed, e]

end

/-- The bytes that a load gives one lane: after an acquire those that are there now, in its own window too. -/
def State.loadSees (s : State) (fresh : Bool) (ea : W64) (ls : List Loc) : List Byte :=
  if fresh then s.chunkBytes s.cur.wave ls else s.loadBytes s.cur.wave ea ls

theorem State.viewNow_loadBytes (s : State) (k : Nat) (ea : W64) (ls : List Loc) :
    (s.viewNow k).loadBytes k ea ls = s.chunkBytes k ls := by
  have own : (s.viewNow k).wave k = { s.wave k with run := { (s.wave k).run with view := true } } := by
    rw [State.viewNow, State.modWave_eq, State.wave_setWave_same]
  have wave : ∀ j, ∃ v, (s.viewNow k).wave j = { s.wave j with run := { (s.wave j).run with view := v } } := fun j => by
    rw [State.viewNow, State.modWave_eq, State.wave_setWave]
    split
    · rename_i e; rw [e]; exact ⟨true, rfl⟩
    · exact ⟨_, rfl⟩
  have peek : ∀ l, (s.viewNow k).peek l = s.peek l := fun l => by
    cases l with
    | reg j o => obtain ⟨v, e⟩ := wave j; simp only [State.peek, e]
    | _ => rfl
  have committed : ∀ l, (s.viewNow k).committed l = s.committed l := fun l => by
    cases l with
    | reg j o => obtain ⟨v, e⟩ := wave j; simp only [State.committed, e, peek]
    | _ => simp only [State.committed, peek]
  have byte : ∀ l, (s.viewNow k).chunkByte k l = s.chunkByte k l := fun l => by simp only [State.chunkByte, own, peek, committed]
  have priv : ∀ l, (s.viewNow k).privateByte k l = s.chunkByte k l := fun l => by
    cases l <;> simp only [State.privateByte, byte]
    simp [own]
  simp only [State.loadBytes, State.chunkBytes, funext byte, funext priv, ite_self]

theorem State.acting_loadBytes {s : State} (live : s.me.live = true) (i : Instr) (fresh : Bool) (ea : W64) (ls : List Loc) :
    (s.acting i fresh).loadBytes s.cur.wave ea ls = s.loadSees fresh ea ls := by
  have same := State.entered_sameReads live i
  cases fresh
  · exact same.loadBytes ..
  · have chunk : (s.entered i).chunkBytes s.cur.wave ls = s.chunkBytes s.cur.wave ls := by
      have := same.loadBytes s.cur.wave 0 ls
      rwa [State.loadBytes, if_neg (by decide), State.loadBytes, if_neg (by decide)] at this
    simp only [State.acting, if_true, same.cur, State.viewNow_loadBytes, State.loadSees, chunk]

end Sys2Proof.Machine

/-! ## Loads -/

namespace Sys2Proof.Machine

/-! ### What a load on the chip does -/

/-- The lanes of an access whose addresses lie in a wave's own window (`isPrivate`), or those that lie elsewhere (R77, R103). -/
def windowLocs (xs : List Granted) (priv : Bool) : List Loc := allLocs (xs.filter fun x => isPrivate x.2.1 == priv)

/-- The value of one lane of a load (R319). -/
def loadValue (l : Width) (signed : Bool) (bs : List Byte) : BitVec 128 :=
  BitVec.ofNat 128 (if signed then wrapTo 32 (sgn (8 * l.bytes) (leNat bs)) else leNat bs)

section
variable (s : State) (xs : List Granted)

/-- The state in which the lines of a load have entered its chunk's read signatures. -/
def State.readNoted : State :=
  (s.notePrivate s.cur.wave (windowLocs xs true) []).noteRead s.cur.wave (windowLocs xs false)
/-- And the device's records. -/
def State.readMade : State :=
  (((s.readNoted xs).noteCounts xs).invUse (allLocs xs)).useBanks (allLocs xs)

/-- The values of a load, lane by lane. -/
def State.loadValues (l : Width) (signed : Bool) : List (Nat × BitVec 128) :=
  xs.map fun (ln, ea, r) => (ln, loadValue l signed (s.loadBytes s.cur.wave ea r.locs))

theorem State.chipLoad_eq (w : Bool) (d : Operand) (l : Width) (signed : Bool) :
    s.chipLoad xs w d l signed = (s.readMade xs).modWave s.cur.wave fun x =>
      { x with run := { x.run with rbytes := x.run.rbytes + l.bytes * xs.length } }.writeAll w d l.regs (s.loadValues xs l signed) := by
  have priv : xs.filter (fun x => isPrivate x.2.1) = xs.filter fun x => isPrivate x.2.1 == true :=
    List.filter_congr fun x _ => (beq_true _).symm
  have rest : xs.filter (not ∘ fun x => isPrivate x.2.1) = xs.filter fun x => isPrivate x.2.1 == false :=
    List.filter_congr fun x _ => (beq_false _).symm
  rw [State.chipLoad, List.partition_eq_filter_filter, priv, rest]
  rfl

/-- The chunk of a load: its lines have entered the read signatures, and `n` bytes are counted. -/
def State.runRead (n : Nat) : Chunk :=
  { s.me.run with
    rpriv := s.me.run.rpriv ||| sigOf (s.keysOf ((windowLocs xs true).map Loc.line))
    rsig := s.me.run.rsig ||| sigOf (s.keysOf ((windowLocs xs false).map Loc.line))
    rkeys := (s.me.run.rkeys ++ s.keysOf ((windowLocs xs false).map Loc.line)).eraseDups
    rbytes := s.me.run.rbytes + n }

theorem State.noteRead_near (k : Nat) (ls : List Loc) : Near k s (s.noteRead k ls) := by
  rw [State.noteRead, State.modWave_eq]; exact .setWave rfl
theorem State.notePrivate_near (k : Nat) (rs ws : List Loc) : Near k s (s.notePrivate k rs ws) := by
  rw [State.notePrivate, State.modWave_eq]; exact .setWave rfl
theorem State.readNoted_near : Near s.cur.wave s (s.readNoted xs) :=
  (s.notePrivate_near ..).trans (State.noteRead_near ..)

theorem State.readNoted_wave : (s.readNoted xs).wave s.cur.wave = { s.me with run := s.runRead xs 0 } := by
  have keys := (s.notePrivate_near s.cur.wave (windowLocs xs true) []).keysOf ((windowLocs xs false).map Loc.line)
  have none : s.me.run.wpriv ||| sigOf (s.keysOf (([] : List Loc).map Loc.line)) = s.me.run.wpriv := BitVec.or_zero
  rw [State.readNoted, State.noteRead, State.modWave_eq, keys, State.wave_setWave_same, State.notePrivate, State.modWave_eq,
    State.wave_setWave_same, ← State.me, none]
  rfl

theorem State.readMade_recorded : Recorded (s.readNoted xs) (s.readMade xs) :=
  ((Recorded.readLines ..).trans (.invUse ..)).trans (.useBanks ..)

/-- A load's own effect: records, notes of its chunk, and the values in its registers and latches. -/
theorem State.chipLoad_spec (w : Bool) (d : Operand) (l : Width) (signed : Bool) :
    Logged s.cur.wave s (s.chipLoad xs w d l signed)
      ∧ (s.chipLoad xs w d l signed).me
        = { s.me with run := s.runRead xs (l.bytes * xs.length) }.writeAll w d l.regs (s.loadValues xs l signed) := by
  have near := s.readNoted_near xs
  have made := s.readMade_recorded xs
  have own : (s.readMade xs).wave s.cur.wave = { s.me with run := s.runRead xs 0 } := by rw [made.wave, s.readNoted_wave]
  have cur : (s.readMade xs).cur = s.cur := by rw [made.rest]; exact near.wg.2.2
  rw [s.chipLoad_eq, State.modWave_eq, own]
  refine ⟨(near.logged.trans (made.logged _)).trans (Near.setWave ?_).logged, ?_⟩
  · rw [own]; exact Wave.writeAll_still ..
  · rw [State.me, State.setWave_cur, cur, State.wave_setWave_same]
    rfl

end
end Sys2Proof.Machine

namespace Sys2Proof.Machine

/-! ### The end of an issue that leaves records -/

/-- A lane that has its result and has gone on (R280). -/
theorem Lane.shift_onward (x : Lane) (n : Nat) (v : W64) (i : Instr) :
    ((x.shift n v).onward i false).pc = x.pc + 4
      ∧ ((x.shift n v).onward i false).latches = { val := v, wide := decide (2 ≤ n) } :: x.latches.take 3
      ∧ ((x.shift n v).onward i false).lvalid = if n ≤ 2 then (x.lvalid <<< 1) ||| 1 else x.lvalid <<< 1 := by
  obtain ⟨pc, latches, lvalid, -⟩ := (x.shift n v).onward_keep i false
  rw [pc, latches, lvalid]
  exact ⟨rfl, rfl, rfl⟩

/-- An instruction whose results stand in its wave, seen from a state with the records that it leaves. -/
theorem State.finish_wrote {s u : State} {i : Instr} {w : Bool} {d : Operand} {n : Nat} {r : Nat → BitVec 128} {c : Chunk}
    (stands : s.setStands = true) (near : Near s.cur.wave s (u.finish i false))
    (rev : (u.tenant (u.waveTenant u.cur.wave)).reverse = none) (cur : u.cur = s.cur) (alike : c.alike s.me.run)
    (me : u.me = { s.me with run := c }.writeAll w d n (s.myLanes.map fun l => (l, r l))) : Wrote s (u.finish i false) w d n r := by
  have stands := State.stands_pc stands
  obtain ⟨regs, lanes, -, -, len, run⟩ := Wave.writeAll_spec { s.me with run := c } w d n r s.cur.mask fun l mem => (stands l mem).2
  rw [← State.myLanes, ← me] at regs lanes len run
  have mine : u.myLanes = s.myLanes := by rw [State.myLanes, cur]; rfl
  have end_regs : ∀ v l, ((u.finish i false).wave s.cur.wave).reg v l = u.me.reg v l := fun v l => by
    rw [← cur, Wave.reg, (u.finish_spec i false rev).2.1]; rfl
  have end_lane := fun l => u.finish_lane i false rev l
  obtain ⟨writes, wsig, wpriv, closing⟩ := State.finish_chunkKept (i := i) (moved := false) rev
  simp only [cur, mine, len, lanes] at end_lane writes wsig wpriv closing
  have active : ∀ l ∈ s.myLanes, let y := ((s.me.lane l).shift n ((r l).setWidth 64)).onward i false
      ((u.finish i false).wave s.cur.wave).lane l = y
        ∨ ((u.finish i false).wave s.cur.wave).lane l = y.noLatch ∧ ((u.finish i false).wave s.cur.wave).run.issued = 0 := by
    intro l mem
    have lane := end_lane l
    rw [if_pos ⟨mem, (stands l mem).2⟩, if_pos mem] at lane
    exact lane
  constructor
  case frame => exact near.frame
  case chunk =>
    rw [run] at writes wsig wpriv closing
    exact ⟨writes.trans alike.1, wsig.trans alike.2.1, wpriv.trans alike.2.2.2.2, closing.trans alike.2.2.1⟩
  case dest =>
    rintro v rfl written l mem j lt
    have named : v.val + j ∈ destRegs (.v v) n := by simp [destRegs, List.mem_range'_1, lt]
    rw [end_regs, regs _ _ (mem_lanesOf.mp mem).1, if_pos ⟨written, mem, named⟩]
    simp [destBase]
  case regs =>
    intro v l lt other
    rw [end_regs, regs _ _ lt, if_neg other]
    rfl
  case lanes =>
    intro l out
    have lane := end_lane l
    simp only [out, false_and, if_false] at lane
    rcases lane with e | ⟨e, -⟩ <;> rw [e] <;> rfl
  case pcs =>
    intro l mem
    have pc := ((s.me.lane l).shift_onward n ((r l).setWidth 64) i).1
    rw [(stands l mem).1] at pc
    rcases active l mem with e | ⟨e, -⟩ <;> rw [e] <;> exact pc
  case latch =>
    intro l mem
    have latches := ((s.me.lane l).shift_onward n ((r l).setWidth 64) i).2.1
    rcases active l mem with e | ⟨e, -⟩ <;> rw [e] <;> exact latches
  case valid =>
    intro issued l mem
    rcases active l mem with e | ⟨-, none⟩
    · rw [e]; exact ((s.me.lane l).shift_onward n ((r l).setWidth 64) i).2.2
    · exact absurd none issued

/-- The tenant of a wave whose issue ends does not run backwards. -/
theorem Logged.reverse {s u : State} (h : Logged s.cur.wave s u) (live : (s.tenant (s.waveTenant s.cur.wave)).reverse = none) :
    (u.tenant (u.waveTenant u.cur.wave)).reverse = none :=
  Near.reverse (s := s.recordsOf u) h.near live
theorem Logged.cur {k : Nat} {s u : State} (h : Logged k s u) : u.cur = s.cur := h.near.wg.2.2
theorem Logged.finish {s u : State} (h : Logged s.cur.wave s u) (live : (s.tenant (s.waveTenant s.cur.wave)).reverse = none) (i : Instr)
    (moved : Bool) : Logged s.cur.wave s (u.finish i moved) := by
  have near := (State.finish_spec u i moved (h.reverse live)).1
  rw [h.cur] at near
  exact h.trans near.logged

/-! ### Loads -/

section
variable {s : State} {i : Instr} {a : Operand} {off size : Nat} {sc : Scope} {acc : Acc} {at_ : Nat → List Loc}

theorem State.ready_alive (ready : s.ready i = true) : s.me.live = true := by
  have stands := State.ready_stands ready
  simp only [State.setStands, Bool.and_eq_true] at stands
  exact stands.1.1.1.1

/-- An access on the chip finds its lanes so once its instruction has entered, and nothing holds it back. -/
theorem OnChip.entered (chip : OnChip s a off size sc acc at_) (ready : s.ready i = true) (write : Bool) (hw : acc.writes = write) :
    ∃ cnt, (s.entered i).granted ((s.entered i).resolveAll a off size sc acc) = .ok (s.onChipLanes a off at_ cnt)
      ∧ (s.entered i).accessWait (s.entered i).cur.wave size write (s.onChipLanes a off at_ cnt) = none := by
  have same := State.entered_sameReads (State.ready_alive ready) i
  have chip' := same.onChip chip
  obtain ⟨cnt, granted⟩ := chip'.granted
  have lanes : (s.entered i).onChipLanes a off at_ cnt = s.onChipLanes a off at_ cnt := by
    simp only [State.onChipLanes, same.myLanes, (same.read _ _).2.1]
  rw [lanes] at granted
  refine ⟨cnt, granted, ?_⟩
  rw [← lanes, ← hw]
  exact chip'.goes cnt

omit i in
theorem onChipLanes_window (cnt : Nat → Bool) (priv : Bool) : windowLocs (s.onChipLanes a off at_ cnt) priv =
    (s.myLanes.filter fun l => isPrivate (s.me.read64 l a + BitVec.ofNat 64 off) == priv).flatMap at_ := by
  simp only [windowLocs, allLocs, State.onChipLanes, List.filter_map, List.flatMap_map, Resolved.locs]
  rfl

end

section
variable {s : State} {i : Instr} {a : Operand} {sc : Scope} {z : Width} {o : BitVec 3} {at_ : Nat → List Loc}
  (chip : OnChip s a (o.toNat * z.bytes) z.bytes sc .read at_) (ready : s.ready i = true)
include chip ready

/-- A load whose lanes find their places on the chip issues. -/
theorem State.loadWith_ends (acq signed w : Bool) (d : Operand) :
    ∃ cnt, s.loadWith i acq signed w d a sc z o = .next (((s.acting i (acq && decide (Scope.num sc = 3))).chipLoad
      (s.onChipLanes a (o.toNat * z.bytes) at_ cnt) w d z signed).finish i false) := by
  obtain ⟨cnt, granted, goes⟩ := chip.entered ready false rfl
  refine ⟨cnt, State.perform_ready ready ?_⟩
  simp only [granted, onChipLanes_near, goes, Bool.false_eq_true, if_false]
  rfl

/-- What a load on the chip gives: its values, its signatures, and nothing else but the device's records (R80, R82, R319). -/
theorem State.loadWith_gives (acq signed w : Bool) (d : Operand) {r : Nat → BitVec 128} (gives : ∀ l ∈ s.myLanes, loadValue z signed
      (s.loadSees (acq && decide (Scope.num sc = 3)) (s.me.read64 l a + BitVec.ofNat 64 (o.toNat * z.bytes)) (at_ l)) = r l) :
    let ea := fun l => s.me.read64 l a + BitVec.ofNat 64 (o.toNat * z.bytes)
    let sig := fun (priv : Bool) => sigOf (s.keysOf (((s.myLanes.filter fun l => isPrivate (ea l) == priv).flatMap at_).map Loc.line))
    ∃ t, s.loadWith i acq signed w d a sc z o = .next t
      ∧ Wrote (s.recordsOf t) t w d z.regs r
      ∧ CoresKept s t
      ∧ (t.wave s.cur.wave).lastChunk.flags = s.me.run.flags
      ∧ (t.wave s.cur.wave).lastChunk.rsig = s.me.run.rsig ||| sig false
      ∧ (t.wave s.cur.wave).lastChunk.rpriv = s.me.run.rpriv ||| sig true := by
  intro ea sig
  obtain ⟨cnt, issues⟩ := State.loadWith_ends chip ready acq signed w d
  generalize (acq && decide (Scope.num sc = 3)) = fresh at *
  have acting := s.acting_near i fresh
  obtain ⟨c, v, acts⟩ := s.acting_me i fresh
  obtain ⟨logged, me⟩ := (s.acting i fresh).chipLoad_spec (s.onChipLanes a (o.toNat * z.bytes) at_ cnt) w d z signed
  have values : (s.acting i fresh).loadValues (s.onChipLanes a (o.toNat * z.bytes) at_ cnt) z signed =
      s.myLanes.map fun l => (l, r l) := by
    simp only [State.loadValues, State.onChipLanes, List.map_map, acting.wg.2.2]
    refine List.map_congr_left fun l mem => ?_
    simp only [Function.comp_apply, Resolved.locs, State.acting_loadBytes (State.ready_alive ready), gives l mem]
  have cur := acting.wg.2.2
  rw [values, acts] at me
  rw [cur] at logged
  have entered := acting.logged.trans logged
  have live := State.ready_live ready
  have ends := entered.finish live i false
  have stands := State.ready_stands ready
  generalize read : (s.acting i fresh).runRead (s.onChipLanes a (o.toNat * z.bytes) at_ cnt)
    (z.bytes * (s.onChipLanes a (o.toNat * z.bytes) at_ cnt).length) = c' at me
  have held : c'.alike s.me.run ∧ c'.rsig = s.me.run.rsig ||| sig false ∧ c'.rpriv = s.me.run.rpriv ||| sig true := by
    rw [← read, State.runRead, acts, onChipLanes_window, onChipLanes_window]
    simp only [acting.keysOf]
    exact ⟨⟨rfl, rfl, rfl, rfl, rfl⟩, rfl, rfl⟩
  obtain ⟨alike, rsig, rpriv⟩ := held
  obtain ⟨-, -, -, -, -, run⟩ := Wave.writeAll_spec { s.me with run := c' } w d z.regs r
    s.cur.mask fun l mem => (State.stands_pc stands l mem).2
  have grew := State.finish_grew (i := i) (moved := false) (entered.reverse live)
  rw [← State.myLanes, ← me] at run
  rw [entered.cur, run] at grew
  refine ⟨_, issues, State.finish_wrote (s := s.recordsOf _) stands ends.near (entered.reverse live) entered.cur alike me, ends.cores, ?_, ?_, ?_⟩
  · exact (congrArg Chunk.flags grew :).trans alike.2.2.2.1
  · exact (congrArg Chunk.rsig grew :).trans rsig
  · exact (congrArg Chunk.rpriv grew :).trans rpriv

end

end Sys2Proof.Machine

namespace Sys2Proof.Machine

/-! ### The values of a load -/

theorem State.loadBytes_length (s : State) (k : Nat) (ea : W64) (ls : List Loc) : (s.loadBytes k ea ls).length = ls.length := by
  unfold State.loadBytes State.chunkBytes
  split <;> exact List.length_map ..

theorem Width.bytes_pos (z : Width) : 0 < z.bytes := by cases z <;> decide

/-- The signed number of n bits is that of the bit vector. -/
theorem sgn_eq_toInt {n v : Nat} (pos : 0 < n) (lt : v < 2 ^ n) : sgn n v = (BitVec.ofNat n v).toInt := by
  have half : 2 ^ n = 2 * 2 ^ (n - 1) := by rw [← Nat.pow_succ', Nat.succ_eq_add_one, Nat.sub_add_cancel pos]
  rw [sgn, BitVec.toInt_eq_toNat_cond, BitVec.toNat_ofNat, Nat.mod_eq_of_lt lt]
  by_cases low : v < 2 ^ (n - 1)
  · rw [if_pos low, if_pos (by omega)]
  · rw [if_neg low, if_neg (by omega)]; push_cast; rfl

/-- A signed load sign-extends to 32 bits (R319). -/
theorem loadValue_signed {z : Width} {bs : List Byte} (len : bs.length = z.bytes) :
    loadValue z true bs = ((BitVec.ofNat (8 * z.bytes) (leNat bs)).signExtend 32).setWidth 128 := by
  have lt : leNat bs < 2 ^ (8 * z.bytes) := len ▸ leNat_lt bs
  have pos : 0 < 8 * z.bytes := Nat.mul_pos (by decide) (Width.bytes_pos z)
  rw [loadValue, if_pos rfl, sgn_eq_toInt pos lt]
  generalize BitVec.ofNat (8 * z.bytes) (leNat bs) = x
  apply BitVec.eq_of_toNat_eq
  rw [BitVec.toNat_ofNat, BitVec.toNat_setWidth, BitVec.signExtend, BitVec.toNat_ofInt]
  rfl

/-! ### A byte as a chunk reads it (R80, R103) -/

section
variable (s : State) (k dpa : Nat)

theorem State.chunkByte_committed (none : ∀ x ∈ (s.wave k).run.writes, x.at (.mem dpa) = none) :
    s.chunkByte k (.mem dpa) = s.peek (.mem dpa) := by
  simp only [State.chunkByte, List.findSome?_eq_none_iff.mpr none]

theorem State.chunkByte_latest {x : Write} {older : List Write} {b : Byte} (writes : (s.wave k).run.writes = x :: older)
    (stored : x.at (.mem dpa) = some b) : s.chunkByte k (.mem dpa) = b := by
  simp only [State.chunkByte, writes, List.findSome?_cons, stored]

theorem State.privateByte_fresh (fresh : Tab.get none (s.wave k).stale dpa = none ∨ (s.wave k).run.view = true) :
    s.privateByte k (.mem dpa) = s.chunkByte k (.mem dpa) := by
  rcases fresh with none | view
  · simp only [State.privateByte, none]
  · simp only [State.privateByte, view, Bool.true_or]
    cases Tab.get none (s.wave k).stale dpa <;> rfl

theorem State.privateByte_stale {b : Byte} (stale : Tab.get none (s.wave k).stale dpa = some b) (view : (s.wave k).run.view = false)
    (none : ∀ x ∈ (s.wave k).run.writes, x.at (.mem dpa) = none) : s.privateByte k (.mem dpa) = b := by
  have unseen : ((s.wave k).run.writes.any fun x => (x.at (.mem dpa)).isSome) = false :=
    List.any_eq_false.mpr fun x mem => by simp [none x mem]
  simp only [State.privateByte, stale, view, unseen, Bool.or_self]

end

theorem Write.at_mem (x : Write) (a dpa : Nat) (b : Byte) (loc : x.loc = .mem a) :
    x.at (.mem dpa) = some b ↔ a ≤ dpa ∧ x.bytes[dpa - a]? = some b := by
  simp only [Write.at, loc]
  split <;> simp [*]

end Sys2Proof.Machine

open Sys2Proof.Machine in
/-- Settles O23, from what an access on the chip leaves in the device's records, its chunk and its registers. -/
theorem loadsReadOwnStores : Obligations.LoadsReadOwnStores := by
  refine ⟨fun s w d a sc z o at_ chip => ⟨fun ready => ?_, fun ready => ?_, fun ready => ?_⟩, fun s k dpa => ⟨?_, ?_, ?_, ?_, ?_⟩⟩
  · exact State.loadWith_gives chip ready false false w d fun _ _ => rfl
  · refine State.loadWith_gives chip ready true false w d fun l _ => ?_
    cases sc <;> rfl
  · refine State.loadWith_gives chip ready false true w d fun l mem => loadValue_signed ?_
    rw [State.loadSees, Bool.false_and, if_neg Bool.false_ne_true, State.loadBytes_length, chip.length l mem]
  · exact s.chunkByte_committed k dpa
  · exact fun _ _ _ => s.chunkByte_latest k dpa
  · exact fun x a b => x.at_mem a dpa b
  · exact s.privateByte_fresh k dpa
  · exact fun _ => s.privateByte_stale k dpa

/-! ## Atomics and RED: their issue -/

namespace Sys2Proof.Machine

/-- A wave whose chunk an operation closes; the rows that a result may overwrite are kept (R81). -/
def Wave.closed (w : Wave) (ret : Bool) (vs : List Nat) (closing : Closing) : Wave :=
  let w := if ret then w.saveRows vs else w
  { w with run := { w.run with closing := closing, last := true } }

theorem Wave.closed_keep (w : Wave) (ret : Bool) (vs : List Nat) (closing : Closing) :
    (w.closed ret vs closing).regs = w.regs ∧ (w.closed ret vs closing).lanes = w.lanes ∧ (w.closed ret vs closing).still = w.still
      ∧ ∃ sv, (w.closed ret vs closing).run = { w.run with closing := closing, last := true, saved := sv } := by
  cases ret
  · exact ⟨rfl, rfl, rfl, _, rfl⟩
  · obtain ⟨regs, lanes, -, still, run⟩ := w.saveRows_keep vs
    refine ⟨regs, lanes, still, (w.saveRows vs).run.saved, ?_⟩
    simp only [Wave.closed, if_true]
    rw [run]

section
variable (s : State) (xs : List Granted) (op : AtomOp) (ret : Bool) (d : Operand) (l : Width)

/-- The lanes of an atomic with their places and operands (R325, R326). -/
def State.atomLanes : List AtomLane :=
  xs.map fun (ln, ea, r) => { lane := ln, locs := r.locs, ea := ea, x := atomX s.me ln d l, y := atomY s.me ln op d l, cnt := r.cnt }

/-- The chunk of an atomic: its lines have entered both halves of the signatures, and it closes the chunk (R327). -/
def State.runClosed (closing : Closing) : Chunk :=
  { s.me.run with
    rsig := s.me.run.rsig ||| sigOf (s.keysOf ((allLocs xs).map Loc.line))
    rkeys := (s.me.run.rkeys ++ s.keysOf ((allLocs xs).map Loc.line)).eraseDups
    wsig := s.me.run.wsig ||| sigOf (s.keysOf ((allLocs xs).map Loc.line))
    closing := closing
    last := true }

/-- The state in which the lines of an atomic have entered the signatures. -/
def State.linesNoted : State := (s.noteRead s.cur.wave (allLocs xs)).noteWrite s.cur.wave (allLocs xs)

theorem State.linesNoted_near : Near s.cur.wave s (s.linesNoted xs) := by
  refine (s.noteRead_near s.cur.wave (allLocs xs)).trans ?_
  rw [State.linesNoted, State.noteWrite, State.modWave_eq]
  exact .setWave rfl

theorem State.linesNoted_wave : (s.linesNoted xs).wave s.cur.wave =
    { s.me with run := { s.runClosed xs s.me.run.closing with last := s.me.run.last } } := by
  have keys := (s.noteRead_near s.cur.wave (allLocs xs)).keysOf ((allLocs xs).map Loc.line)
  rw [State.linesNoted, State.noteWrite, State.modWave_eq, keys, State.wave_setWave_same, State.noteRead, State.modWave_eq,
    State.wave_setWave_same, ← State.me]
  rfl

/-- An atomic's own effect: the back-invalidations that it used up, and its chunk closed. -/
theorem State.chipAtomic_spec :
    Near s.cur.wave { s with invDone := (s.chipAtomic xs op ret d l).invDone } (s.chipAtomic xs op ret d l)
      ∧ (s.chipAtomic xs op ret d l).me.regs = s.me.regs ∧ (s.chipAtomic xs op ret d l).me.lanes = s.me.lanes
      ∧ ∃ sv, (s.chipAtomic xs op ret d l).me.run =
          { s.runClosed xs (.atomic op l (s.atomLanes xs op d l) (destOf d) ret) with saved := sv } := by
  have near := s.linesNoted_near xs
  have own := s.linesNoted_wave xs
  have eq : s.chipAtomic xs op ret d l = ((s.linesNoted xs).invUse (allLocs xs)).modWave s.cur.wave fun w =>
      w.closed ret (destRegs d l.regs) (.atomic op l (s.atomLanes xs op d l) (destOf d) ret) := rfl
  have used : ((s.linesNoted xs).invUse (allLocs xs)).wave s.cur.wave = (s.linesNoted xs).wave s.cur.wave := rfl
  have cur : ((s.linesNoted xs).invUse (allLocs xs)).cur = s.cur := near.wg.2.2
  rw [State.modWave_eq, used, own] at eq
  obtain ⟨regs, lanes, still, sv, run⟩ := Wave.closed_keep
    { s.me with run := { s.runClosed xs s.me.run.closing with last := s.me.run.last } } ret (destRegs d l.regs)
    (.atomic op l (s.atomLanes xs op d l) (destOf d) ret)
  have me : (s.chipAtomic xs op ret d l).me = Wave.closed
      { s.me with run := { s.runClosed xs s.me.run.closing with last := s.me.run.last } } ret (destRegs d l.regs)
      (.atomic op l (s.atomLanes xs op d l) (destOf d) ret) := by
    rw [eq, State.me, State.setWave_cur, cur, State.wave_setWave_same]
  refine ⟨?_, (congrArg Wave.regs me).trans regs, (congrArg Wave.lanes me).trans lanes, sv, (congrArg Wave.run me).trans run⟩
  refine Near.trans (t := (s.linesNoted xs).invUse (allLocs xs)) ⟨?_, near.others, near.cores, near.own⟩ ?_
  · rw [eq, State.invUse, near.rest]; rfl
  · rw [eq]
    exact .setWave (still.trans (congrArg Wave.still own).symm)

end

end Sys2Proof.Machine

namespace Sys2Proof.Machine

theorem Near.invDone {k : Nat} {s t : State} (h : Near k s t) (x : List (Nat × Bool)) :
    Near k { s with invDone := x } { t with invDone := x } := by
  refine ⟨?_, h.others, h.cores, h.own⟩
  rw [h.rest]

/-- The end of an instruction that has closed its chunk, with registers and lanes as they were. -/
theorem State.finish_closed {s u : State} {i : Instr} (ready : s.ready i = true)
    (near : Near s.cur.wave { s with invDone := u.invDone } u) (regs : u.me.regs = s.me.regs) (lanes : u.me.lanes = s.me.lanes)
    (last : u.me.run.last = true) :
    let t := u.finish i false
    Frame s.cur.wave { s with invDone := t.invDone } t ∧ RegsKept s t (fun _ _ => False) ∧ LanesKept s t
      ∧ (∀ l ∈ s.myLanes, ((t.wave s.cur.wave).lane l).pc = s.cur.pc + 4)
      ∧ (t.wave s.cur.wave).lastChunk.ended = true ∧ (t.wave s.cur.wave).lastChunk.grew u.me.run := by
  have stands := State.stands_pc (State.ready_stands ready)
  have live := State.ready_live ready
  have rev := Near.reverse (s := { s with invDone := u.invDone }) near live
  have cur : u.cur = s.cur := near.wg.2.2
  have mine : u.myLanes = s.myLanes := by rw [State.myLanes, cur]; rfl
  have end_near := (u.finish_spec i false rev).1
  have end_regs := State.finish_regsKept (i := i) (moved := false) rev
  have end_lanes := State.finish_lanesKept (i := i) (moved := false) rev
  have active := fun l => State.finish_lane_active (i := i) (moved := false) (l := l) rev
  have ended := State.finish_ended (i := i) (moved := false) rev last
  have grew := State.finish_grew (i := i) (moved := false) rev
  have same : (u.finish i false).invDone = u.invDone := by rw [end_near.rest]
  have reg : ∀ v l, u.me.reg v l = s.me.reg v l := fun v l => by rw [Wave.reg, regs]; rfl
  have lane : ∀ l, u.me.lane l = s.me.lane l := fun l => by rw [Wave.lane, lanes]; rfl
  simp only [RegsKept, LanesKept, mine, reg, lane, lanes, cur] at end_near end_regs end_lanes active ended grew
  generalize u.finish i false = t at *
  refine ⟨?_, end_regs, end_lanes, fun l mem => ?_, ended, grew⟩
  · rw [same]; exact (near.trans end_near).frame
  · have pc := ((s.me.lane l).onward_keep i false).1
    rw [(stands l mem).1] at pc
    rcases active l mem (stands l mem).2 with e | e
    · exact (congrArg Lane.pc e :).trans pc
    · exact (congrArg Lane.pc e :).trans pc

section
variable {s : State} {i : Instr} {a : Operand} {sc : Scope} {z : Width} {at_ : Nat → List Loc} {ret : Bool}
  (chip : OnChip s a 0 z.bytes sc (if ret then .atomic else .red) at_) (ready : s.ready i = true)
include chip ready

/-- An atomic or a RED whose lanes find their places on the chip issues. -/
theorem State.atomWith_ends (op : AtomOp) (acq rel : Bool) (d : Operand) :
    ∃ cnt, s.atomWith i op ret acq rel d a sc z = .next (((s.acting i (acq && decide (Scope.num sc = 3))).chipAtomic
      (s.onChipLanes a 0 at_ cnt) op ret d z).finish i false) := by
  have writes : (if ret then Acc.atomic else Acc.red).writes = true := by cases ret <;> rfl
  obtain ⟨cnt, granted, goes⟩ := chip.entered ready true writes
  refine ⟨cnt, State.perform_ready ready ?_⟩
  simp only [granted, onChipLanes_near, goes, Bool.false_eq_true, if_false]
  rfl

/-- It closes its chunk, all else as it was but for the back-invalidations that it used up (R327, R329). -/
theorem State.atomWith_closes (op : AtomOp) (acq rel : Bool) (d : Operand) :
    let k := s.cur.wave
    ∃ t lanes, s.atomWith i op ret acq rel d a sc z = .next t ∧ Frame k { s with invDone := t.invDone } t
      ∧ RegsKept s t (fun _ _ => False) ∧ LanesKept s t
      ∧ (∀ l ∈ s.myLanes, ((t.wave k).lane l).pc = s.cur.pc + 4)
      ∧ (let c := (t.wave k).lastChunk
        let sig := sigOf (s.keysOf ((s.myLanes.flatMap at_).map Loc.line))
        c.ended = true ∧ c.writes = s.me.run.writes ∧ c.closing = .atomic op z lanes (destOf d) ret
        ∧ c.rsig = s.me.run.rsig ||| sig ∧ c.wsig = s.me.run.wsig ||| sig)
      ∧ lanes.map (fun x => (x.lane, x.locs, x.ea, x.x)) =
          s.myLanes.map (fun l => (l, at_ l, s.me.read64 l a, s.me.readN l z.regs d))
      ∧ (op = .cas → lanes.map (·.y) = s.myLanes.map fun l => s.me.readN l z.regs (operandAfter d z.regs)) := by
  intro k
  obtain ⟨cnt, issues⟩ := State.atomWith_ends chip ready op acq rel d
  generalize (acq && decide (Scope.num sc = 3)) = fresh at *
  have acting := s.acting_near i fresh
  obtain ⟨c, v, acts⟩ := s.acting_me i fresh
  have cur : (s.acting i fresh).cur.wave = s.cur.wave := congrArg _ acting.wg.2.2
  obtain ⟨near, regs, lanes, sv, run⟩ := (s.acting i fresh).chipAtomic_spec (s.onChipLanes a 0 at_ cnt) op ret d z
  have last : ((s.acting i fresh).chipAtomic (s.onChipLanes a 0 at_ cnt) op ret d z).me.run.last = true := by rw [run]; rfl
  rw [cur] at near
  rw [acts] at regs lanes
  obtain ⟨frame, end_regs, end_lanes, pcs, ended, grew⟩ := State.finish_closed ready ((acting.invDone _).trans near) regs lanes last
  rw [run] at grew
  have held : ∀ closing, let c' := (s.acting i fresh).runClosed (s.onChipLanes a 0 at_ cnt) closing
      let sig := sigOf (s.keysOf ((s.myLanes.flatMap at_).map Loc.line))
      c'.writes = s.me.run.writes ∧ c'.closing = closing ∧ c'.rsig = s.me.run.rsig ||| sig ∧ c'.wsig = s.me.run.wsig ||| sig := by
    intro closing
    rw [State.runClosed, acts, onChipLanes_locs, acting.keysOf]
    exact ⟨rfl, rfl, rfl, rfl⟩
  obtain ⟨writes, closing, rsig, wsig⟩ := held (.atomic op z ((s.acting i fresh).atomLanes (s.onChipLanes a 0 at_ cnt) op d z) (destOf d) ret)
  refine ⟨_, (s.acting i fresh).atomLanes (s.onChipLanes a 0 at_ cnt) op d z, issues, frame, end_regs, end_lanes, pcs,
    ⟨ended, (congrArg Chunk.writes grew :).trans writes, (congrArg Chunk.closing grew :).trans closing,
      (congrArg Chunk.rsig grew :).trans rsig, (congrArg Chunk.wsig grew :).trans wsig⟩, ?_, fun cas => ?_⟩
  · simp only [State.atomLanes, State.onChipLanes, List.map_map, acts, atomX, Wave.readN_run]
    exact List.map_congr_left fun l _ => by simp [Resolved.locs]
  · simp only [State.atomLanes, State.onChipLanes, List.map_map, acts, atomY, Wave.readN_run, cas, if_true]
    rfl

end

end Sys2Proof.Machine

/-! ## What a commit leaves as it stands -/

namespace Sys2Proof.Machine

/-- Wave k's commit goes on: device memory, what decides how its wave goes on, and whether a wave waits, are as they were. -/
structure Carried (k : Nat) (s t : State) : Prop where
  mem : t.mem = s.mem
  holder : t.resHolder = s.resHolder
  idle : ∀ j, (s.wave j).wait.kind = .none → (t.wave j).wait.kind = .none
  reverse : ∀ n, (t.tenant n).reverse = (s.tenant n).reverse
  tenant : ∀ g, (t.wg g).tenant = (s.wg g).tenant
  wg : (t.wave k).wg = (s.wave k).wg
  trapQ : (t.wave k).trapQ = (s.wave k).trapQ
  run : (t.wave k).run = (s.wave k).run
  lanes : (t.wave k).lanes = (s.wave k).lanes
  com : (t.wave k).com = (s.wave k).com

/-- The same, with every byte of the scratchpads and of the wave's registers. -/
structure Passed (k : Nat) (s t : State) : Prop extends Carried k s t where
  scr : ∀ g o, t.peek (.scr g o) = s.peek (.scr g o)
  regs : (t.wave k).regs = (s.wave k).regs

theorem Carried.refl (k : Nat) (s : State) : Carried k s s := ⟨rfl, rfl, fun _ h => h, fun _ => rfl, fun _ => rfl, rfl, rfl, rfl, rfl, rfl⟩
theorem Carried.trans {k : Nat} {s t u : State} (a : Carried k s t) (b : Carried k t u) : Carried k s u where
  mem := b.mem.trans a.mem
  holder := b.holder.trans a.holder
  idle j h := b.idle j (a.idle j h)
  reverse n := (b.reverse n).trans (a.reverse n)
  tenant g := (b.tenant g).trans (a.tenant g)
  wg := b.wg.trans a.wg
  trapQ := b.trapQ.trans a.trapQ
  run := b.run.trans a.run
  lanes := b.lanes.trans a.lanes
  com := b.com.trans a.com
theorem Carried.modWg {k : Nat} (s : State) (g : Nat) {f : Wg → Wg} (tenant : (f (s.wg g)).tenant = (s.wg g).tenant) :
    Carried k s (s.modWg g f) := by
  refine ⟨rfl, rfl, fun _ h => h, fun _ => rfl, fun h => ?_, rfl, rfl, rfl, rfl, rfl⟩
  rw [State.modWg_eq, State.wg_setWg]
  split
  · rename_i e; rw [e, tenant]
  · rfl

section
variable {k : Nat}

theorem Passed.refl (s : State) : Passed k s s := ⟨.refl .., fun _ _ => rfl, rfl⟩
theorem Passed.trans {s t u : State} (a : Passed k s t) (b : Passed k t u) : Passed k s u :=
  ⟨a.toCarried.trans b.toCarried, fun g o => (b.scr g o).trans (a.scr g o), b.regs.trans a.regs⟩
theorem Passed.foldl {α : Type} {step : State → α → State} {xs : List α} (one : ∀ s, ∀ x ∈ xs, Passed k s (step s x)) (s : State) :
    Passed k s (xs.foldl step s) := by
  induction xs generalizing s with
  | nil => exact .refl s
  | cons x xs ih =>
    exact (one s x (List.mem_cons_self ..)).trans (ih (fun s y mem => one s y (List.mem_cons_of_mem _ mem)) _)

variable (s : State)

theorem Passed.cores (x : Tab Core) : Passed k s { s with cores := x } :=
  ⟨⟨rfl, rfl, fun _ h => h, fun _ => rfl, fun _ => rfl, rfl, rfl, rfl, rfl, rfl⟩, fun _ _ => rfl, rfl⟩
theorem Passed.push (es : List Instr) : Passed k s (s.push es) :=
  ⟨⟨rfl, rfl, fun _ h => h, fun _ => rfl, fun _ => rfl, rfl, rfl, rfl, rfl, rfl⟩, fun _ _ => rfl, rfl⟩
theorem Passed.resQueue (x : List Nat) : Passed k s { s with resQueue := x } :=
  ⟨⟨rfl, rfl, fun _ h => h, fun _ => rfl, fun _ => rfl, rfl, rfl, rfl, rfl, rfl⟩, fun _ _ => rfl, rfl⟩
theorem Passed.countLine (l : Loc) (write remote : Bool) : Passed k s (s.countLine l write remote) := by
  cases l with
  | mem a => exact ⟨⟨rfl, rfl, fun _ h => h, fun _ => rfl, fun _ => rfl, rfl, rfl, rfl, rfl, rfl⟩, fun _ _ => rfl, rfl⟩
  | _ => exact .refl s
theorem Passed.modTenant (n : Nat) {f : Tenant → Tenant} (h : (f (s.tenant n)).reverse = (s.tenant n).reverse) : Passed k s (s.modTenant n f) := by
  refine ⟨⟨rfl, rfl, fun _ h => h, fun m => ?_, fun _ => rfl, rfl, rfl, rfl, rfl, rfl⟩, fun _ _ => rfl, rfl⟩
  rw [State.modTenant, State.tenant_setTenant]
  split
  · rename_i e; rw [e, h]
  · rfl
theorem Passed.modWg (g : Nat) {f : Wg → Wg} (tenant : (f (s.wg g)).tenant = (s.wg g).tenant) (scr : (f (s.wg g)).scr = (s.wg g).scr) :
    Passed k s (s.modWg g f) := by
  refine ⟨.modWg s g tenant, fun h o => ?_, rfl⟩
  rw [State.peek, State.modWg_eq, State.wg_setWg]
  split
  · rename_i e; rw [scr, ← e]; rfl
  · rfl
/-- Another wave's change, by which it comes to wait for nothing new. -/
theorem Passed.setWave {j : Nat} {w : Wave} (other : j ≠ k) (idle : (s.wave j).wait.kind = .none → w.wait.kind = .none) :
    Passed k s (s.setWave j w) := by
  have own : (s.setWave j w).wave k = s.wave k := by rw [State.wave_setWave, if_neg other.symm]
  refine ⟨⟨rfl, rfl, fun i h => ?_, fun _ => rfl, fun _ => rfl, ?_, ?_, ?_, ?_, ?_⟩, fun _ _ => rfl, ?_⟩
  · rw [State.wave_setWave]
    split
    · rename_i e; exact idle (e ▸ h)
    · exact h
  all_goals rw [own]

theorem Passed.chargeCore (c t : Nat) (x : Cause) (pc : W64) (cut : Nat) : Passed k s (s.chargeCore c t x pc cut) := by
  unfold State.chargeCore
  split
  · exact .cores ..
  · exact .refl s
theorem Passed.chargeSlots (j : Nat) (slots : List (W64 × Nat)) (x : Cause) : Passed k s (s.chargeSlots j slots x) :=
  .foldl (fun s _ _ => .chargeCore s ..) s
theorem Passed.returnPlaces (c : Closing) : Passed k s (s.returnPlaces c) := by
  unfold State.returnPlaces
  split
  · refine .modWg s _ ?_ ?_ <;> rfl
  · exact .refl s
theorem Passed.l1Drop (keys : List W64) : Passed k s (s.l1Drop keys) := .foldl (fun s _ _ => .cores s _) s
theorem Passed.useBanks (ls : List Loc) : Passed k s (s.useBanks ls) := .foldl (fun s _ _ => .cores s _) s

/-! ### Squashes of other waves -/

/-- A chunk begun anew waits for nothing (R93). -/
theorem Wave.rewind_idle (w : Wave) (c : Chunk) : (w.rewind c).wait.kind = .none := by
  simp only [Wave.rewind]
  split <;> rfl

variable {j : Nat} (other : j ≠ k)
include other

theorem Passed.discardRun (x : Cause) : Passed k s (s.discardRun j x) :=
  ((Passed.chargeSlots ..).trans (.returnPlaces ..)).trans (.setWave _ other fun _ => Wave.rewind_idle ..)
theorem Passed.discardBoth (x : Cause) : Passed k s (s.discardBoth j x) := by
  unfold State.discardBoth
  split
  · exact .discardRun s other x
  · exact (((Passed.discardRun s other x).trans (.chargeSlots ..)).trans (.returnPlaces ..)).trans
      (.setWave _ other fun _ => Wave.rewind_idle ..)
theorem Passed.endAborted : Passed k s (s.endAborted j) := by
  unfold State.endAborted
  split
  · refine .trans ?_ (.push ..)
    exact .setWave s other id
  · exact .refl s
theorem Passed.squash (r : Bool) : Passed k s (s.squash j r) := by
  have discarded : Passed k s (if r then s.discardRun j .squash else s.discardBoth j .squash) := by
    split
    · exact .discardRun s other _
    · exact .discardBoth s other _
  unfold State.squash
  generalize (if r then s.discardRun j .squash else s.discardBoth j .squash) = u at discarded
  have counted : Passed k s ((u.endAborted j).modWave j fun w => { w with squashes := w.squashes + 1 }) :=
    (discarded.trans (.endAborted u other)).trans (.setWave _ other id)
  dsimp only
  split
  · exact (counted.trans (.resQueue ..)).trans (.push ..)
  · exact counted

omit other

theorem Passed.squashMet (sig : BitVec 1024) (ks : List Nat) (others : ∀ j ∈ ks, j ≠ k) : Passed k s (s.squashMet sig ks) := by
  refine .foldl (fun s j mem => ?_) s
  split
  · exact .squash s (others j mem) _
  · exact .refl s
theorem Passed.localTest (g core : Nat) (keys : List W64) : Passed k s (s.localTest (some k) g core keys) := by
  refine .squashMet s _ _ fun j mem => ?_
  simp only [List.mem_filter, Bool.and_eq_true, decide_eq_true_eq] at mem
  exact fun e => mem.2.1 (congrArg some e)

theorem Passed.regTest (ws : List Write) : Passed k s (s.regTest k ws) := by
  refine .foldl (fun s x _ => ?_) s
  split
  · rename_i j o _
    dsimp only
    split
    · exact .refl s
    · rename_i other
      split
      · exact .squash s other _
      · split
        · exact .squash s other _
        · exact .refl s
  · exact .refl s
theorem Passed.registerTests (c : Chunk) : Passed k s (s.registerTests k c) := (Passed.localTest ..).trans (.regTest ..)

end

end Sys2Proof.Machine

/-! ## Atomics and RED: their commit on the scratchpad -/

namespace Sys2Proof.Machine

/-! ### Bytes stored in a scratchpad -/

/-- The bytes of consecutive places of a scratchpad make one piece. -/
theorem pieces_scr (g : Nat) {bs : List Byte} (some_ : bs ≠ []) (b : Nat) :
    pieces (((List.range bs.length).map fun i => Loc.scr g (b + i)).zip bs) = [(.scr g b, bs)] := by
  induction bs generalizing b with
  | nil => exact absurd rfl some_
  | cons x xs ih =>
    have next : (fun i => Loc.scr g (b + i)) ∘ Nat.succ = fun i => Loc.scr g (b + 1 + i) := by
      funext i; simp only [Function.comp_apply, Nat.succ_eq_add_one]; congr 1; omega
    rw [List.length_cons, List.range_succ_eq_map, List.map_cons, List.map_map, next, List.zip_cons_cons, pieces]
    cases xs with
    | nil => rfl
    | cons y ys => rw [ih (List.cons_ne_nil y ys)]; simp [Loc.add]

theorem State.peek_poke_scr (s : State) (g o : Nat) (v : Byte) (h p : Nat) :
    (s.poke (.scr g o) v).peek (.scr h p) = if h = g ∧ p = o then v else s.peek (.scr h p) := by
  simp only [State.poke, State.peek, State.modWg_eq, State.wg_setWg]
  by_cases same : h = g
  · subst same; simp only [if_true, Tab.get_put, true_and]
  · simp only [same, if_false, false_and]

section
variable {k : Nat} (s : State) (g b : Nat) (bs : List Byte)

/-- What a store to a scratchpad leaves: its bytes, and all else that the commit rests on. -/
theorem State.storeAt_scr : Carried k s (s.storeAt (.scr g b) bs) ∧ ((s.storeAt (.scr g b) bs).wave k).regs = (s.wave k).regs
    ∧ ∀ h p, (s.storeAt (.scr g b) bs).peek (.scr h p) =
        if h = g ∧ b ≤ p ∧ p < b + bs.length then bs.getD (p - b) 0 else s.peek (.scr h p) := by
  have put : ∀ (bs : List Byte) (n : Nat) (s : State), let t := (bs.zipIdx n).foldl (fun (s : State) (x : Byte × Nat) =>
        if s.protectedByte ((Loc.scr g b).add x.2) then s else s.poke ((Loc.scr g b).add x.2) x.1) s
      Carried k s t ∧ (t.wave k).regs = (s.wave k).regs
        ∧ ∀ h p, t.peek (.scr h p) = if h = g ∧ b + n ≤ p ∧ p < b + n + bs.length then bs.getD (p - (b + n)) 0 else s.peek (.scr h p) := by
    intro bs
    induction bs with
    | nil => exact fun n s => ⟨.refl .., rfl, fun h p => by simp⟩
    | cons x xs ih =>
      intro n s
      obtain ⟨carried, regs, bytes⟩ := ih (n + 1) (s.poke (.scr g (b + n)) x)
      have poked : Carried k s (s.poke (.scr g (b + n)) x) := by
        rw [State.poke]
        refine .modWg s g ?_
        rfl
      refine ⟨poked.trans carried, regs, fun h p => ?_⟩
      refine (bytes h p).trans ?_
      rw [State.peek_poke_scr, List.length_cons]
      by_cases begins : p = b + n
      · subst begins
        rw [if_neg (by omega)]
        simp
      · by_cases inside : h = g ∧ b + (n + 1) ≤ p ∧ p < b + (n + 1) + xs.length
        · obtain ⟨here, low, high⟩ := inside
          have index : p - (b + n) = p - (b + (n + 1)) + 1 := by omega
          rw [if_pos ⟨here, low, high⟩, if_pos ⟨here, by omega, by omega⟩, index, List.getD_cons_succ]
        · rw [if_neg inside, if_neg (fun e => begins e.2), if_neg fun e => inside ⟨e.1, by omega, by omega⟩]
  obtain ⟨carried, regs, bytes⟩ := put bs 0 s
  have used : Passed k _ (s.storeAt (.scr g b) bs) := Passed.useBanks _ _
  exact ⟨carried.trans used.toCarried, used.regs.trans regs, fun h p => (used.scr h p).trans (bytes h p)⟩

end

/-! ### The operation on one place -/

section
variable {k : Nat} (s : State)

theorem Passed.audit (g : Nat) (ea : W64) (bs : List Byte) : Passed k s (s.audit g ea bs) := by
  unfold State.audit
  split
  · refine .modWg s g ?_ ?_ <;> rfl
  · exact .refl s

/-- The bytes that an audit counts. -/
theorem Passed.readBytes (g n : Nat) : Passed k s (if s.auditable g then s.modWg g fun x => { x with readBytes := x.readBytes + n } else s) := by
  split
  · refine .modWg s g ?_ ?_ <;> rfl
  · exact .refl s

/-- A wave as before but for what a commit notes in it. -/
def Wave.carries (w v : Wave) : Prop :=
  v.wait = w.wait ∧ v.wg = w.wg ∧ v.trapQ = w.trapQ ∧ v.run = w.run ∧ v.lanes = w.lanes ∧ v.com = w.com ∧ v.regs = w.regs

theorem Passed.noteWave (j : Nat) {w : Wave} (h : (s.wave j).carries w) : Passed k s (s.setWave j w) := by
  have wave : ∀ i, (s.wave i).carries ((s.setWave j w).wave i) := fun i => by
    rw [State.wave_setWave]
    split
    · rename_i e; rw [e]; exact h
    · exact ⟨rfl, rfl, rfl, rfl, rfl, rfl, rfl⟩
  obtain ⟨-, wg, trapQ, run, lanes, com, regs⟩ := wave k
  exact ⟨⟨rfl, rfl, fun i idle => by rw [(wave i).1]; exact idle, fun _ => rfl, fun _ => rfl, wg, trapQ, run, lanes, com⟩,
    fun _ _ => rfl, regs⟩

/-- Bytes kept as they stood for the waves that do not see a store yet (R103) are notes in those waves. -/
theorem Passed.keepStale (t : Nat) (va : Option Nat) (ls : List Loc) : Passed k s (s.keepStale t va ls) := by
  unfold State.keepStale
  split
  · exact .refl s
  · split
    · exact .refl s
    · refine .foldl (fun s x _ => ?_) s
      dsimp only
      split
      · refine .noteWave s _ ?_
        dsimp only
        split <;> exact ⟨rfl, rfl, rfl, rfl, rfl, rfl, rfl⟩
      · exact .refl s

end

section
variable {k : Nat} (s : State) (op : AtomOp) (z : Width) (lane g b : Nat) (ea : W64) (x y : BitVec 128)

/-- The value that an operation finds at its place. -/
def State.oldAt : Nat := leNat (s.peekN (.scr g b) z.bytes)

/-- The bytes of a scratchpad after an operation on one place (R325). -/
def State.scrAfter (h p : Nat) : Byte :=
  match atomVal op (8 * z.bytes) (s.oldAt z g b) (x.toNat % 2 ^ (8 * z.bytes)) (y.toNat % 2 ^ (8 * z.bytes)) with
  | some v => if h = g ∧ b ≤ p ∧ p < b + z.bytes then (leBytes z.bytes v).getD (p - b) 0 else s.peek (.scr h p)
  | none => s.peek (.scr h p)

omit s in
theorem Passed.oldAt {s t : State} (h : Passed k s t) : t.oldAt z g b = s.oldAt z g b :=
  congrArg leNat (List.map_congr_left fun i _ => h.scr g (b + i))
omit s in
theorem Passed.scrAfter {s t : State} (h : Passed k s t) (i p : Nat) : t.scrAfter op z g b x y i p = s.scrAfter op z g b x y i p := by
  simp only [State.scrAfter, h.oldAt, h.scr]

/-- The lane of an operation on one place of a scratchpad. -/
def scrLane : AtomLane := { lane := lane, locs := (List.range z.bytes).map fun i => .scr g (b + i), ea := ea, x := x, y := y }

theorem State.atomLane_scr : let r := s.atomLane op z (scrLane z lane g b ea x y)
    Carried k s r.1 ∧ (r.1.wave k).regs = (s.wave k).regs ∧ (∀ h p, r.1.peek (.scr h p) = s.scrAfter op z g b x y h p)
      ∧ r.2 = s.oldAt z g b := by
  have old : leNat ((scrLane z lane g b ea x y).locs.map s.peek) = s.oldAt z g b := by
    rw [scrLane, List.map_map]; rfl
  have some_ : ∀ v, leBytes z.bytes v ≠ [] := fun v => List.ne_nil_of_length_pos (by rw [leBytes_length]; exact Width.bytes_pos z)
  have piece : ∀ v, pieces ((scrLane z lane g b ea x y).locs.zip (leBytes z.bytes v)) = [(.scr g b, leBytes z.bytes v)] := fun v => by
    have one := pieces_scr g (some_ v) b
    rwa [leBytes_length] at one
  have operands : (scrLane z lane g b ea x y).x = x ∧ (scrLane z lane g b ea x y).y = y := ⟨rfl, rfl⟩
  simp only [State.atomLane, old, State.scrAfter, operands]
  cases atomVal op (8 * z.bytes) (s.oldAt z g b) (x.toNat % 2 ^ (8 * z.bytes)) (y.toNat % 2 ^ (8 * z.bytes)) with
  | none => exact ⟨.refl .., rfl, fun _ _ => rfl, rfl⟩
  | some v =>
    obtain ⟨carried, regs, bytes⟩ := s.storeAt_scr (k := k) g b (leBytes z.bytes v)
    simp only [State.scatter, piece, List.foldl_cons, List.foldl_nil]
    rw [leBytes_length] at bytes
    exact ⟨carried, regs, bytes, trivial⟩

omit s op z lane g b ea x y in
/-- What a result leaves (R325): its registers, and all else that the commit rests on. -/
theorem Carried.putRegs (s : State) (l : Nat) (d : Operand) (n : Nat) (v : BitVec 128) :
    Carried k s (s.modWave k fun w => w.putRegs l d n v) := by
  obtain ⟨lanes, run, com, still⟩ := (s.wave k).putRegs_keep l d n v
  have wait : ((s.wave k).putRegs l d n v).wait = (s.wave k).wait := (congrArg Wave.wait still :)
  have wg : ((s.wave k).putRegs l d n v).wg = (s.wave k).wg := (congrArg Wave.wg still :)
  have trapQ : ((s.wave k).putRegs l d n v).trapQ = (s.wave k).trapQ := (congrArg Wave.trapQ still :)
  refine ⟨rfl, rfl, fun j idle => ?_, fun _ => rfl, fun _ => rfl, ?_, ?_, ?_, ?_, ?_⟩
  · rw [State.modWave_eq, State.wave_setWave]
    split
    · rename_i e; rw [wait, ← e]; exact idle
    · exact idle
  all_goals rw [State.modWave_eq, State.wave_setWave_same]
  · exact wg
  · exact trapQ
  · exact run
  · exact lanes
  · exact com

/-- An operation on one place: its bytes, and with a result the old value in the destination (R325, R327). -/
theorem State.applyAtomic_scr (d : Option VReg) (ret : Bool) (inSet : lane < 64) :
    let t := s.applyAtomic k op z [scrLane z lane g b ea x y] d ret
    Carried k s t ∧ (∀ h p, t.peek (.scr h p) = s.scrAfter op z g b x y h p)
      ∧ ∀ v : VReg, d = some v → ∀ j, j < z.regs → (t.wave k).reg (v.val + j) lane =
        if ret = true then (BitVec.ofNat 128 (s.oldAt z g b)).extractLsb' (32 * j) 32 else (s.wave k).reg (v.val + j) lane := by
  intro t
  obtain ⟨a, r, u, kept, lane_, made, eq⟩ : ∃ a r u, Passed k s a ∧ r = a.atomLane op z (scrLane z lane g b ea x y) ∧ Passed k r.1 u
      ∧ t = match d, ret with
        | some d, true => u.modWave k fun w => w.putRegs lane (.v d) z.regs (BitVec.ofNat 128 r.2)
        | _, _ => u :=
    ⟨_, _, _, .keepStale .., rfl, (Passed.audit ..).trans (.readBytes ..), rfl⟩
  obtain ⟨carried, regs, bytes, old⟩ := a.atomLane_scr (k := k) op z lane g b ea x y
  rw [← lane_] at carried regs bytes old
  have before := (kept.toCarried.trans carried).trans made.toCarried
  have stored : ∀ h p, u.peek (.scr h p) = s.scrAfter op z g b x y h p := fun h p =>
    (made.scr h p).trans ((bytes h p).trans (kept.scrAfter ..))
  have held : ∀ v, (u.wave k).reg v lane = (s.wave k).reg v lane := fun v => by
    rw [Wave.reg, made.regs, regs, kept.regs]; rfl
  cases d with
  | none => rw [eq]; exact ⟨before, stored, fun v none => nomatch none⟩
  | some v =>
    cases ret with
    | false =>
      rw [eq]
      exact ⟨before, stored, fun v _ j _ => (held _).trans (if_neg Bool.false_ne_true).symm⟩
    | true =>
      replace eq : t = u.modWave k fun w => w.putRegs lane (.v v) z.regs (BitVec.ofNat 128 r.2) := eq
      rw [eq]
      refine ⟨before.trans (.putRegs ..), stored, fun w same j lt => ?_⟩
      cases same
      have named : v.val + j ∈ destRegs (.v v) z.regs := by simp [destRegs, List.mem_range'_1, lt]
      rw [if_pos rfl, State.modWave_eq, State.wave_setWave_same, Wave.reg_putRegs _ _ _ _ _ _ _ inSet inSet, if_pos ⟨rfl, named⟩,
        old, kept.oldAt]
      simp

end

end Sys2Proof.Machine

/-! ## The commit of a chunk that an operation closes -/

namespace Sys2Proof.Machine

/-- The other waves' chunks tested against a local commit, and its lines out of the level-1 caches (R89, R90). -/
def State.tested (s : State) (k : Nat) (c : Chunk) : State :=
  let u := (s.squashMet c.wsig ((s.wgWaves (s.wave k).wg).filter fun j => j != k && s.coreOf j == s.coreOf k)).registerTests k c
  u.l1Drop (u.keysOf (c.writes.map (·.loc.line)))

theorem State.tested_passed (s : State) (k : Nat) (c : Chunk) : Passed k s (s.tested k c) := by
  refine ((Passed.squashMet s _ _ fun j mem => ?_).trans (.registerTests _ c)).trans (.l1Drop ..)
  simp only [List.mem_filter, Bool.and_eq_true, bne_iff_ne] at mem
  exact mem.2.1

section
variable {s : State} {k : Nat} {c : Chunk}

theorem State.Quiet.logging (quiet : s.Quiet) (n : Nat) : (s.tenant n).logging = false := by
  by_cases listed : Tab.get {} s.tenants n = {}
  · rw [State.tenant, listed]
    rfl
  · exact quiet.logs (n, s.tenant n) (Tab.mem_of_get listed)

/-- A commit of a chunk without stores tests the other waves' chunks, and then makes its closing operation visible. -/
theorem State.localCommit_tested (quiet : s.Quiet) (commits : s.Commits k c) (writes : c.writes = [])
    (plain : ∀ cmd, c.closing ≠ .engine cmd) :
    s.localCommit k = (((s.tested k c).applyClosing k c.closing).commitMarks k c).commitDone k := by
  obtain ⟨live, com, -, open_, home, -, free, -, -, -, -⟩ := commits
  have blocked : ∀ sig, s.localBlocked k sig = false := fun sig => by rw [State.localBlocked, free]
  have logged : s.logCommit k c true s.lastTs = some s := by
    rw [State.logCommit, quiet.logging]; rfl
  have none : ∀ u : State, u.commitWrites k c.writes.reverse = u := fun u => by rw [writes]; rfl
  simp only [State.localCommit, com, live, blocked, open_, home, logged, none, State.tested, Bool.not_true, Bool.or_self,
    Bool.false_eq_true, if_false]

/-- What an audit counts and signs of the stores (R495). -/
theorem Passed.auditWrites (s : State) (n : Nat) (xs : List Write) :
    Passed k s (if s.auditable (s.wave k).wg then
      xs.foldl (fun s x => s.audit (s.wave k).wg x.ea x.bytes) (s.modWg (s.wave k).wg fun g => { g with readBytes := g.readBytes + n })
      else s) := by
  split
  · refine .trans ?_ (.foldl (fun s x _ => .audit s ..) _)
    refine .modWg s _ ?_ ?_ <;> rfl
  · exact .refl s
theorem Passed.releaseRes (s : State) (free : s.resHolder ≠ some k) : Passed k s (s.releaseRes k) := by
  unfold State.releaseRes
  dsimp only
  rw [if_neg free]
  exact .resQueue ..

/-- The counts and notes of a commit (R91, R92). -/
theorem Passed.commitMarks (s : State) (free : s.resHolder = none) : Passed k s (s.commitMarks k c) := by
  have counted : Passed k s (if c.closingCnt then (s.closingLines c.closing).foldl (fun s l => s.countLine l true false) s else s) := by
    split
    · exact .foldl (fun s l _ => .countLine s ..) s
    · exact .refl s
  have released : ∀ u : State, Passed k s u → Passed k s (u.releaseRes k) := fun u h =>
    h.trans (.releaseRes u (by rw [h.holder, free]; exact Option.some_ne_none k |>.symm))
  unfold State.commitMarks
  dsimp only
  refine released _ (.trans ?_ (.auditWrites ..))
  refine .trans ?_ (.noteWave _ _ ?_)
  rotate_left
  · exact ⟨rfl, rfl, rfl, rfl, rfl, rfl, rfl⟩
  refine .trans ?_ (.modTenant _ _ ?_)
  rotate_left
  · rfl
  exact counted.trans (.chargeSlots ..)

/-- Where no wave waits, none is woken. -/
theorem State.wakeAll_idle {s : State} (idle : ∀ j, (s.wave j).wait.kind = .none) : s.wakeAll = s := by
  have one : ∀ k, ((s.wave k).wait.kind == .none || (s.wave k).wait.kind == .far) = true := fun k => by rw [idle k]; rfl
  exact List.foldl_fixed' (fun k => if_pos (one k)) _

/-- Nothing more ends with a commit: its wave goes on, no trap stands in its queue, and no wave waits. -/
theorem State.commitDone_plain (trapQ : (s.wave k).trapQ = []) (goes : (s.wave k).run.ended = false)
    (stays : (s.wave k).lanes.all (·.exited) = false) (step : ((s.wave k).com.any fun c => c.step.isSome) = false)
    (replay : (s.tenant (s.waveTenant k)).reverse = none) (idle : ∀ j, (s.wave j).wait.kind = .none) :
    s.commitDone k = s.setWave k { s.wave k with com := none } := by
  generalize eq : s.setWave k { s.wave k with com := none } = u
  have ended : u.wave k = { s.wave k with com := none } := eq ▸ State.wave_setWave_same ..
  have forward : u.tenant (u.waveTenant k) = s.tenant (s.waveTenant k) := by
    rw [State.waveTenant, ended, ← eq]; rfl
  have after : u.afterExit k = u := by
    rw [State.afterExit, ended]
    simp only [stays, Bool.and_false, Bool.false_eq_true, if_false]
  have trap : u.takeTrap k = u := by simp only [State.takeTrap, ended, trapQ]
  have advance : u.advance k = u := by simp only [State.advance, ended, goes, Bool.false_and, Bool.false_eq_true, if_false]
  have empty : (u.wave k).trapQ.isEmpty = true := by rw [ended, List.isEmpty_iff]; exact trapQ
  have awake : u.wakeAll = u := State.wakeAll_idle fun j => by
    rw [← eq, State.wave_setWave]
    split
    · exact idle k
    · exact idle j
  have fresh : (s.modWave k fun w => { w with com := none }) = u := eq
  simp only [State.commitDone, fresh, step, after, forward, replay, trap, advance, empty, awake, Bool.false_eq_true, if_false, if_true]

end

section
variable {s : State} {k : Nat} {c : Chunk} {op : AtomOp} {z : Width} {lane g b : Nat} {ea : W64} {x y : BitVec 128} {d : Option VReg}
  {ret : Bool}

/-- The commit of an operation on one place of a scratchpad (R90, R325). -/
theorem State.localCommit_scr (quiet : s.Quiet) (commits : s.Commits k c) (writes : c.writes = []) (inSet : lane < 64)
    (closing : c.closing = .atomic op z [scrLane z lane g b ea x y] d ret) :
    let t := s.localCommit k
    t.mem = s.mem ∧ (t.wave k).com = none ∧ (∀ h p, t.peek (.scr h p) = s.scrAfter op z g b x y h p)
      ∧ ∀ v : VReg, d = some v → ∀ j, j < z.regs → (t.wave k).reg (v.val + j) lane =
        if ret = true then (BitVec.ofNat 128 (s.oldAt z g b)).extractLsb' (32 * j) 32 else (s.wave k).reg (v.val + j) lane := by
  have commit := State.localCommit_tested quiet commits writes (fun cmd e => by rw [closing] at e; cases e)
  have tested := s.tested_passed k c
  rw [closing] at commit
  generalize s.tested k c = u at commit tested
  obtain ⟨carried, stored, held⟩ := u.applyAtomic_scr (k := k) op z lane g b ea x y d ret inSet
  rw [State.applyClosing] at commit
  generalize u.applyAtomic k op z [scrLane z lane g b ea x y] d ret = a at commit carried stored held
  have before := tested.toCarried.trans carried
  have marked := Passed.commitMarks (k := k) (c := c) a (before.holder.trans commits.free)
  generalize a.commitMarks k c = m at commit marked
  have whole := before.trans marked.toCarried
  have replay : (m.tenant (m.waveTenant k)).reverse = none := by
    rw [whole.reverse, State.waveTenant, whole.tenant, whole.wg]; exact commits.replay
  have ends := State.commitDone_plain (whole.trapQ.trans commits.calm) (by rw [whole.run]; exact commits.goes)
    (by rw [whole.lanes]; exact commits.stays) (by rw [whole.com, commits.com]; simp [commits.plain]) replay
    fun j => whole.idle j (quiet.waits j)
  rw [commit, ends]
  refine ⟨whole.mem, ?_, fun h p => ?_, fun v dest j lt => ?_⟩
  · rw [State.wave_setWave_same]
  · exact (marked.scr h p).trans ((stored h p).trans (tested.scrAfter ..))
  · have end_reg : (m.wave k).reg (v.val + j) lane = (a.wave k).reg (v.val + j) lane := by rw [Wave.reg, marked.regs]; rfl
    have start_reg : (u.wave k).reg (v.val + j) lane = (s.wave k).reg (v.val + j) lane := by rw [Wave.reg, tested.regs]; rfl
    rw [State.wave_setWave_same, ← start_reg, ← tested.oldAt, ← held v dest j lt, ← end_reg]
    rfl

end

end Sys2Proof.Machine

open Sys2Proof.Machine in
/-- Settles O26, from what an access on the chip leaves at its issue, and what a commit leaves beside its closing operation. -/
theorem atomics : Obligations.Atomics := by
  refine ⟨fun s d a sc z r rel at_ => ⟨?_, ?_, ?_, ?_, ?_, ?_, ?_, ?_, ?_, ?_, ?_, ?_, ?_, ?_, ?_, ?_, ?_, ?_, ?_, ?_⟩, ?_⟩
  rotate_right
  · intro s k c op z lane g b ea x y d ret quiet commits writes inSet closing n old
    exact ⟨_, rfl, State.localCommit_scr quiet commits writes inSet closing⟩
  all_goals exact fun chip ready => State.atomWith_closes chip ready _ _ _ _
